-- ==== Sys2Proof/Word.lean ====
section
/-! DEFINITION. The words the manual counts in bits, and the small finite index types. -/

namespace Sys2Proof

/-- A byte, as every format of chapter 11 is laid out in. -/
abbrev Byte := BitVec 8

/-- A 24-bit frame number (00_scope, Frames and frame numbers; R6): it wraps. -/
abbrev FrameNo := BitVec 24

/-- A 16-bit service id (00_scope, Ensemble parameters and identities). -/
abbrev ServiceId := BitVec 16

/-- A 16-bit picture object id (R134). -/
abbrev ObjectId := BitVec 16

/-- A unit id, 0 to 7. -/
abbrev UnitId := Fin 8

/-- A feed port, 0 to 5. -/
abbrev PortId := Fin 6

/-- The place of a local service in the configuration image, 0 to 4. -/
abbrev ServiceIx := Fin 5

/-- A message slot of a text carousel, 0 to 7 (R118). -/
abbrev SlotIx := Fin 8

/-- An alert line, 0 or 1. -/
abbrev LineIx := Fin 2

end Sys2Proof
end

