-- ==== Sys2Proof/Syntax.lean ====
section
/-! DEFINITION. The commands: one constructor per row of spec/opcode_table.json. The table gives the rows no
operand fields; the operands here are what arrives with each event (bytes, a port, a line, a slot, a unit). -/

namespace Sys2Proof

/-- An alert id: originating unit id, then serial (chapter 11, opening). The unit id is kept as the byte received. -/
structure AlertId where
  unit   : Byte
  serial : Byte
  deriving DecidableEq, Repr

/-- The choice among the orders of block actions at one boundary that the manual leaves free (log 2). -/
structure BoundaryOrder where
  /-- R197: PVW's move to JOINING comes before PLE's computation and ASM's seal. -/
  moveFirst   : Bool
  /-- R55: the expiry of queued contributions comes before CPR's production. -/
  expiryFirst : Bool
  /-- R140: SIN's loss notices come before the production notices. -/
  lossFirst   : Bool
  deriving DecidableEq, Repr

/-- A link packet whose header check is good: the header fields of R189 other than the kind, which the command
names, and the body length, which is the length of the body; the body; and the body check as received. -/
structure LinkPacket where
  ensemble   : BitVec 16
  lead       : Byte
  sender     : Byte
  seq        : Byte
  frameTag   : FrameNo
  serviceTag : ServiceId
  body       : List Byte
  bodyCheck  : BitVec 32
  deriving DecidableEq, Repr

/-- A supervision request as received (R195): tag, code, body and CRC-16. -/
structure RequestFrame where
  tag   : Byte
  code  : Byte
  body  : List Byte
  check : BitVec 16
  deriving DecidableEq, Repr

/-- The commands, in the order of spec/opcode_table.json. -/
inductive Instr where
  | powerOn
  | lineReset
  /-- The flash's bytes from offset 0, the length field first (R175, R196). -/
  | configReadComplete (flash : List Byte)
  | readFailed
  /-- The message's bytes (R188). -/
  | timeMessage (bytes : List Byte)
  /-- A pulse, this many microseconds after the last boundary (R3, log 5). -/
  | framePulse (elapsed : Nat) (order : BoundaryOrder)
  | localTimerExpiry (order : BoundaryOrder)
  | missedPulse
  | holdoverExpired
  | frameJump
  | enterJoining
  | enterOnAir
  | enterIsolated
  | presenceSend
  | claimResend
  | peerSilent (unit : UnitId)
  | slotRemoval (unit : UnitId)
  | claimInForce (unit : UnitId)
  /-- Bytes on the receive line, for a receiver that hunts; they are read one by one (log 23). -/
  | linkHuntPacket (bytes : List Byte)
  /-- Bytes on the receive line, for a LOCKED receiver; either command's bytes are read in the state it is in (log 51). -/
  | linkHeaderFailed (bytes : List Byte)
  | presence (packet : LinkPacket)
  | claim (packet : LinkPacket)
  | contrib (packet : LinkPacket)
  | alert (packet : LinkPacket)
  | alertEnd (packet : LinkPacket)
  | transmitDone
  /-- Bytes of a port, for one that hunts or is lost; they are read one by one (log 23). -/
  | feedHuntPacket (port : PortId) (bytes : List Byte)
  /-- Bytes of a port, for a LOCKED one; either command's bytes are read in the state the port is in (log 51). -/
  | feedPacketFailed (port : PortId) (bytes : List Byte)
  /-- A packet with a good check: its kind code and body. -/
  | feedPacketMalformed (port : PortId) (kind : Byte) (body : List Byte)
  | audio (port : PortId) (body : List Byte)
  | textSet (port : PortId) (body : List Byte)
  | textClear (port : PortId) (body : List Byte)
  | picBegin (port : PortId) (body : List Byte)
  | picData (port : PortId) (body : List Byte)
  | picEnd (port : PortId) (body : List Byte)
  | picDelete (port : PortId) (body : List Byte)
  | alertReq (port : PortId) (body : List Byte)
  | alertClear (port : PortId) (body : List Byte)
  | fill (port : PortId) (body : List Byte)
  | feedLost (port : PortId)
  | feedSwitch (service : ServiceIx)
  | feedRevert (service : ServiceIx)
  | textExpiry (service : ServiceIx) (slot : SlotIx)
  | pictureLoadTimeout (service : ServiceIx) (object : ObjectId)
  | pictureExpiry (service : ServiceIx) (object : ObjectId)
  /-- The line's electrical level after the change (R153). -/
  | alertLineChange (line : LineIx) (high : Bool)
  | alertDurationLimit
  | localAlertOn
  | localAlertIdle
  | alertRepeat
  | alertRecordStart (id : AlertId)
  | alertRecordEnded (id : AlertId)
  | requestReceived (request : RequestFrame)
  | readStatus
  | readCounters
  | readView
  | readLayout
  | readAlerts
  | readText
  | readPictures
  | clearFlags
  | clearCounters
  | serviceOff
  | serviceOn
  | alertStart
  | alertTest
  | alertStop
  | textFlush
  | pictureFlush
  | rejoin
  | softReset
  | loadConfig
  deriving DecidableEq, Repr

end Sys2Proof
end

