-- ==== Sys2Proof/Config.lean ====
section
/-! DEFINITION. What no rule of the manual fixes (the two free values) and the sizes it does fix. -/

namespace Sys2Proof

/-- FREE VALUE (log 6): how many bytes of a frame have been sent when it is cut. R12 gives a cut frame's bytes
"not yet sent" no number, and no rule gives the modulator output's byte rate. Drawn with the counter State.freeIx. -/
opaque Config.freeSent : Nat → Nat

/-- FREE VALUE (log 12): the bytes that carry the value `v` as an answer's item, by the request's code and the item's
code. R195 gives an encoding to counters, frame numbers and flag sets, and to some others it names; not to these. -/
opaque Config.valueForm {α : Type} (request : BitVec 8) (item : BitVec 16) (v : α) : List (BitVec 8)

/-- Blocks of the service region of one frame (chapter 2.1). -/
def Config.blocks : Nat := 500

/-- The transmit queue's and the echo list's size (R51, R54). -/
def Config.queueSize : Nat := 64

/-- Pages of the pool and bytes of a page (R133). -/
def Config.pages : Nat := 384

@[inherit_doc Config.pages]
def Config.pageSize : Nat := 512

/-- Records of the object table (R134). -/
def Config.objects : Nat := 32

/-- The top of every counter (R186). -/
def Config.counterTop : Nat := 4294967295

end Sys2Proof
end

