-- ==== Sys2Proof/Machine/State.lean ====
section
/-! DEFINITION. State as plain data: every piece of state the manual gives the unit, block by block, the queue of
waiting commands, and what is left of the boundary in progress. Configured values (roles, keys, cadences, line
settings, attention mask) have one home, the held image (log 19). -/

namespace Sys2Proof.Machine

/-! ### The configuration image (R174) -/

/-- One service definition of the image. -/
structure ServiceDef where
  id        : ServiceId
  priority  : Nat
  audioRate : Nat
  sideRate  : Nat
  protClass : Nat
  regions   : Byte
  label     : List Byte
  cadence   : Nat
  deriving DecidableEq, Repr

/-- A feed port's role (R101). -/
inductive PortRole where
  | main (service : Nat)
  | backup (service : Nat)
  | alert
  | unused
  deriving DecidableEq, Repr

/-- How an alert line is read (R153). -/
inductive LineMode where
  | edge
  | level
  deriving DecidableEq, Repr

/-- The configured settings of one alert line. -/
structure LineSettings where
  enabled    : Bool
  mode       : LineMode
  activeHigh : Bool
  urgency    : Nat
  mask       : Byte
  text       : List Byte
  deriving DecidableEq, Repr

/-- A checked configuration image (R174). -/
structure Image where
  unitId         : UnitId
  ensembleId     : BitVec 16
  lead           : Nat
  services       : List ServiceDef
  roles          : Vector PortRole 6
  keys           : Vector Nat 6
  lines          : Vector LineSettings 2
  feedAlert      : Bool
  alertAudioRate : Nat
  durationLimit  : Nat
  attentionMask  : BitVec 24
  deriving DecidableEq, Repr

/-! ### FTU (chapter 1.1) -/

inductive RefState where
  | unlocked
  | locked
  | holdover
  deriving DecidableEq, Repr

/-- What raised the last boundary. -/
inductive BoundarySource where
  | pulse
  | timer
  deriving DecidableEq, Repr

/-- The candidate time message (chapter 1.1). -/
structure Candidate where
  second  : BitVec 32
  pulses  : Nat
  differs : Bool
  deriving DecidableEq, Repr

/-- The number the next boundary takes by R5, R7 or R10, and whether it carries a jump notice. -/
structure NextNumber where
  frame : FrameNo
  jump  : Bool
  deriving DecidableEq, Repr

structure FtuCounters where
  stray        : Nat
  badMessages  : Nat
  disagreeing  : Nat
  holdovers    : Nat
  jumps        : Nat
  deriving DecidableEq, Repr

structure Ftu where
  ref        : RefState
  now        : Option FrameNo
  holdover   : Nat
  /-- When the local timer last restarted, in microseconds after the last boundary: 0, or a matched pulse's time. -/
  timerStart : Nat
  source     : BoundarySource
  matched    : Bool
  message    : Option (BitVec 32)
  candidate  : Option Candidate
  next       : Option NextNumber
  counters   : FtuCounters
  deriving DecidableEq, Repr

/-! ### OFR (chapter 1.2) -/

/-- The frame being streamed to the modulator; the frame-start mark falls on the first of its bytes. -/
structure StreamFrame where
  number    : Option FrameNo
  valid     : Bool
  bytes     : List Byte
  /-- The bytes sent before the frame was cut; none while it has not been cut. -/
  sentAtCut : Option Nat
  deriving DecidableEq, Repr

structure OfrCounters where
  valid : Nat
  idle  : Nat
  cut   : Nat
  deriving DecidableEq, Repr

structure Ofr where
  /-- The output-valid line: true is HIGH. -/
  outputValid : Bool
  frame       : Option StreamFrame
  counters    : OfrCounters
  deriving DecidableEq, Repr

/-! ### Alert values and PLE (chapter 2) -/

/-- A governing alert as ALC supplies it for one frame (R170), and the layout's alert summary (R28). -/
structure AlertSummary where
  id        : AlertId
  urgency   : Nat
  mask      : Byte
  test      : Bool
  audioRate : Nat
  deriving DecidableEq, Repr

/-- The four placements of R26. -/
inductive Placement where
  | normal
  | shed
  | lowered
  | unplaced
  deriving DecidableEq, Repr

/-- One entry record of a layout (R28). -/
structure LayoutEntry where
  owner        : UnitId
  id           : ServiceId
  label        : List Byte
  audioRate    : Nat
  claimedSide  : Nat
  claimedClass : Nat
  regions      : Byte
  side         : Nat
  cls          : Nat
  start        : Nat
  count        : Nat
  placement    : Placement
  follow       : Bool
  clamped      : Bool
  deriving DecidableEq, Repr

/-- A layout (R28). -/
structure Layout where
  summary  : Option AlertSummary
  entries  : List LayoutEntry
  placed   : Nat
  endBlock : Nat
  digest   : BitVec 16
  deriving DecidableEq, Repr

structure PleCounters where
  computed   : Nat
  changes    : Nat
  duplicates : Nat
  invalid    : Nat
  deriving DecidableEq, Repr

structure Ple where
  /-- The layout chain, oldest pair first (R29). -/
  chain    : List (FrameNo × Layout)
  /-- The last computed frame H. -/
  last     : Option FrameNo
  counters : PleCounters
  deriving DecidableEq, Repr

/-! ### LKP (chapter 3) -/

/-- The five kinds of link packet (R50). -/
inductive Kind where
  | presence
  | claim
  | contrib
  | alert
  | alertEnd
  deriving DecidableEq, Repr

/-- The arbiter's classes (R51). -/
inductive TxClass where
  | alert
  | claim
  | presence
  | contribution
  deriving DecidableEq, Repr

/-- A packet in the transmit queue: what the handing block gives; LKP completes it when it is taken (R54). -/
structure TxPacket where
  kind       : Kind
  frameTag   : FrameNo
  serviceTag : ServiceId
  body       : List Byte
  deriving DecidableEq, Repr

/-- The packet in transmission: its kind, sequence number and header check, and the whole of its bytes. -/
structure SentPacket where
  kind  : Kind
  seq   : Byte
  check : BitVec 16
  bytes : List Byte
  deriving DecidableEq, Repr

inductive ReceiverState where
  | hunt
  | locked
  deriving DecidableEq, Repr

structure SenderRecord where
  last         : Option Byte
  packets      : Nat
  headerErrors : Nat
  bodyErrors   : Nat
  gaps         : Nat
  late         : Nat
  deriving DecidableEq, Repr

/-- The unit-wide counters of R57; packets refused by state and removed by state are counted apart (log 47). -/
structure LkpCounters where
  huntDiscards     : Nat
  syncLosses       : Nat
  headerFailures   : Nat
  foreign          : Nat
  echoes           : Nat
  clashes          : Nat
  sentAlert        : Nat
  sentClaim        : Nat
  sentPresence     : Nat
  sentContribution : Nat
  contribRefused   : Nat
  contribDisplaced : Nat
  contribExpired   : Nat
  controlRefused   : Nat
  refusedByState   : Nat
  removedByState   : Nat
  deriving DecidableEq, Repr

structure Lkp where
  receiver     : ReceiverState
  huntCount    : Nat
  failures     : Nat
  nextKnown    : Bool
  /-- In HUNT with one packet counted: the bytes received since its sync pair, where a broken hunt resumes (R41,
  log 72). -/
  held         : List Byte
  /-- The transmit queue in arrival order, earliest first. -/
  queue        : List TxPacket
  transmitting : Option SentPacket
  seq          : Byte
  /-- The echo list, oldest first: sequence number and header check value. -/
  echoes       : List (Byte × BitVec 16)
  senders      : Vector SenderRecord 8
  peerAge      : Nat
  echoAge      : Nat
  counters     : LkpCounters
  deriving DecidableEq, Repr

/-! ### PVW (chapter 4) -/

inductive UnitState where
  | loading
  | halted
  | listen
  | joining
  | onAir
  | isolated
  | clash
  | offAir
  deriving DecidableEq, Repr

/-- A claim entry (Terms; R67), with the clamped flag of R72. -/
structure ClaimEntry where
  id        : ServiceId
  priority  : Nat
  audioRate : Nat
  sideRate  : Nat
  protClass : Nat
  regions   : Byte
  label     : List Byte
  clamped   : Bool
  deriving DecidableEq, Repr

/-- A claim in force. -/
structure ForceClaim where
  version : Byte
  entries : List ClaimEntry
  deriving DecidableEq, Repr

/-- A claim with its effective frame: a pending claim, or the own claim. -/
structure FramedClaim where
  version : Byte
  frame   : FrameNo
  entries : List ClaimEntry
  deriving DecidableEq, Repr

inductive SlotState where
  | absent
  | heard
  | present
  | silent
  deriving DecidableEq, Repr

structure SlotCounters where
  accepted    : Nat
  refreshes   : Nat
  stale       : Nat
  missed      : Nat
  divergences : Nat
  withdrawals : Nat
  silences    : Nat
  deriving DecidableEq, Repr

/-- One slot of the peer table (R67). -/
structure PeerSlot where
  state     : SlotState
  stamp     : Option FrameNo
  reported  : Option UnitState
  announced : Byte
  heardSet  : Byte
  digest    : Option (FrameNo × BitVec 16)
  alertId   : Option AlertId
  holdover  : Bool
  inForce   : Option ForceClaim
  waiting   : Option FramedClaim
  removal   : Option FrameNo
  diverged  : Bool
  counters  : SlotCounters
  deriving DecidableEq, Repr

structure PvwCounters where
  badPresences   : Nat
  absentClaims   : Nat
  ignoredByState : Nat
  claimsIssued   : Nat
  rejoinClaims   : Nat
  toJoining      : Nat
  toOnAir        : Nat
  toIsolated     : Nat
  toClash        : Nat
  toOffAir       : Nat
  deriving DecidableEq, Repr

structure Pvw where
  unit          : UnitState
  listenCount   : Nat
  joinFrame     : Option FrameNo
  peerMark      : Bool
  echoMark      : Bool
  peerWaiver    : Bool
  presenceCount : Nat
  claimCount    : Nat
  rejoinHold    : Nat
  ownClaim      : Option FramedClaim
  version       : Byte
  /-- The service switches: true is ON. -/
  switches      : Vector Bool 5
  /-- The digest history, oldest first. -/
  digests       : List (FrameNo × BitVec 16)
  slots         : Vector PeerSlot 8
  counters      : PvwCounters
  deriving DecidableEq, Repr

/-! ### CPR and ASM (chapter 5) -/

structure ProductionCounters where
  produced  : Nat
  underruns : Nat
  deriving DecidableEq, Repr

structure Cpr where
  last          : Vector (Option FrameNo) 5
  alertLast     : Option FrameNo
  counters      : Vector ProductionCounters 5
  alertCounters : ProductionCounters
  deriving DecidableEq, Repr

/-- The contents of a contribution with a good body: the two void flags and the payload. -/
structure Contribution where
  audioVoid : Bool
  sideVoid  : Bool
  payload   : List Byte
  deriving DecidableEq, Repr

/-- An arrival at ASM (chapter 5.2): no content is a VOID hand-in. -/
structure Arrival where
  sender  : UnitId
  frame   : FrameNo
  service : ServiceId
  content : Option Contribution
  deriving DecidableEq, Repr

/-- The audio part or the side part of a FILLED entry: good or void, with its bytes (R89). -/
structure FiledPart where
  good  : Bool
  bytes : List Byte
  deriving DecidableEq, Repr

/-- The state of a store entry (R89). -/
inductive Filing where
  | empty
  | filled (sender : UnitId) (audio : FiledPart) (side : FiledPart)
  | void (sender : UnitId)
  deriving DecidableEq, Repr

structure StoreEntry where
  service   : ServiceId
  owner     : UnitId
  audioRate : Nat
  side      : Nat
  filing    : Filing
  deriving DecidableEq, Repr

/-- A frame slot (chapter 5.2). -/
inductive FrameSlot where
  | free
  | waiting (frame : FrameNo) (arrivals : List Arrival)
  | opened (frame : FrameNo) (layout : Layout) (entries : List StoreEntry)
  | sealed (frame : FrameNo) (directory : List Byte) (payloads : List (List Byte))
  deriving DecidableEq, Repr

structure HoldRecord where
  service  : ServiceId
  lastGood : Option (List Byte)
  count    : Nat
  deriving DecidableEq, Repr

structure SubstitutionRow where
  service : ServiceId
  repeats : Nat
  mutes   : Nat
  fills   : Nat
  deriving DecidableEq, Repr

structure AsmCounters where
  ignoredByState : Nat
  late           : Nat
  early          : Nat
  stray          : Nat
  size           : Nat
  voidFiled      : Nat
  duplicate      : Nat
  sealed         : Nat
  empty          : Nat
  impaired       : Nat
  deriving DecidableEq, Repr

structure Asm where
  slots      : Vector FrameSlot 16
  hold       : List HoldRecord
  /-- The substitution count table; rows of it in the order they were added. -/
  rows       : List SubstitutionRow
  /-- The one further row for all other services (R99); its service id is not used. -/
  otherRow   : SubstitutionRow
  counters   : AsmCounters
  deriving DecidableEq, Repr

/-! ### SIN (chapter 6) -/

/-- The feed packet kinds (R193). -/
inductive FeedKind where
  | audio
  | textSet
  | textClear
  | picBegin
  | picData
  | picEnd
  | picDelete
  | alertReq
  | alertClear
  | fill
  deriving DecidableEq, Repr

inductive PortState where
  | disabled
  | hunt
  | locked
  | lost
  deriving DecidableEq, Repr

/-- Counts kept by feed packet kind (R115), FILL apart. -/
structure KindCounts where
  audio      : Nat
  textSet    : Nat
  textClear  : Nat
  picBegin   : Nat
  picData    : Nat
  picEnd     : Nat
  picDelete  : Nat
  alertReq   : Nat
  alertClear : Nat
  fill       : Nat
  deriving DecidableEq, Repr

structure PortCounters where
  huntDiscards : Nat
  failed       : Nat
  syncLosses   : Nat
  losts        : Nat
  malformed    : Nat
  taken        : KindCounts
  standby      : KindCounts
  misplaced    : KindCounts
  fills        : Nat
  deriving DecidableEq, Repr

structure Port where
  state     : PortState
  huntCount : Nat
  failures  : Nat
  nextKnown : Bool
  /-- In HUNT with one packet counted: the bytes received since its sync pair, where a broken hunt resumes (R102,
  log 72). -/
  held      : List Byte
  idleCount : Nat
  /-- A byte other than idle fill came since the previous boundary (R105). -/
  active    : Bool
  counters  : PortCounters
  deriving DecidableEq, Repr

inductive Selection where
  | onMain
  | onBackup
  deriving DecidableEq, Repr

structure IntakeCounters where
  accepted       : Nat
  lengthRefusals : Nat
  overruns       : Nat
  switches       : Nat
  deriving DecidableEq, Repr

structure Intake where
  selection  : Selection
  mainDown   : Nat
  mainUp     : Nat
  backupDown : Nat
  /-- The audio queue, oldest first (R112). -/
  queue      : List (List Byte)
  counters   : IntakeCounters
  deriving DecidableEq, Repr

structure AlertFeedCounters where
  accepted       : Nat
  lengthRefusals : Nat
  overruns       : Nat
  aged           : Nat
  deriving DecidableEq, Repr

structure Sin where
  ports         : Vector Port 6
  services      : Vector Intake 5
  alertQueue    : List (List Byte)
  alertCounters : AlertFeedCounters
  deriving DecidableEq, Repr

/-! ### TXC (chapter 7) -/

inductive TextState where
  | empty
  | active
  | expiring
  deriving DecidableEq, Repr

/-- A message slot and its record (R119). -/
structure TextSlot where
  state     : TextState
  text      : List Byte
  weight    : Nat
  hold      : Nat
  lifetime  : Nat
  remaining : Nat
  toggle    : Bool
  key       : Nat
  inList    : Bool
  deriving DecidableEq, Repr

/-- The current transmission: its slot and next segment index (R118). -/
structure TextTurn where
  slot : SlotIx
  next : Nat
  deriving DecidableEq, Repr

structure TextCounters where
  badSlots     : Nat
  keyRefusals  : Nat
  emptyClears  : Nat
  substituted  : Nat
  clamped      : Nat
  fills        : Nat
  replacements : Nat
  clears       : Nat
  flushes      : Nat
  expiries     : Nat
  cells        : Nat
  completions  : Nat
  abandonments : Nat
  restarts     : Nat
  deriving DecidableEq, Repr

structure Carousel where
  slots     : Vector TextSlot 8
  cycle     : List SlotIx
  /-- The cycle position; none is absent, or before the first entry of a list just built (R124). -/
  position  : Option Nat
  current   : Option TextTurn
  holdCount : Nat
  held      : Bool
  gap       : Nat
  suspended : Bool
  counters  : TextCounters
  deriving DecidableEq, Repr

/-- The alert carousel's message (R129). -/
structure AlertMessage where
  id   : AlertId
  text : List Byte
  deriving DecidableEq, Repr

structure AlertCarousel where
  message      : Option AlertMessage
  toggle       : Bool
  pointer      : Nat
  cells        : Nat
  replacements : Nat
  deriving DecidableEq, Repr

structure Txc where
  carousels : Vector Carousel 5
  alert     : AlertCarousel
  deriving DecidableEq, Repr

/-! ### PIC (chapter 8) -/

inductive PicState where
  | loading
  | ready
  | onAir
  deriving DecidableEq, Repr

/-- An object record (R134). -/
structure PicRecord where
  id        : ObjectId
  service   : ServiceIx
  key       : Nat
  port      : PortId
  size      : Nat
  pages     : List Nat
  received  : Nat
  crc       : BitVec 16
  order     : Nat
  repeats   : Nat
  done      : Nat
  lifetime  : Nat
  remaining : Nat
  idle      : Nat
  pointer   : Nat
  state     : PicState
  expiring  : Bool
  deriving DecidableEq, Repr

structure PicCounters where
  badSizes      : Nat
  keyRefusals   : Nat
  replacements  : Nat
  noRoom        : Nat
  begins        : Nat
  strayData     : Nat
  foreignData   : Nat
  gaps          : Nat
  overlengths   : Nat
  strayEnds     : Nat
  foreignEnds   : Nat
  completed     : Nat
  badEnds       : Nat
  loadTimeouts  : Nat
  lostLoads     : Nat
  unknownDelete : Nat
  deletes       : Nat
  flushes       : Nat
  cells         : Nat
  completions   : Nat
  retirements   : Nat
  expiries      : Nat
  cuts          : Nat
  pauses        : Nat
  deriving DecidableEq, Repr

structure PicCarousel where
  current  : Option ObjectId
  /-- The last position: order number and object id (R135). -/
  last     : Option (Nat × ObjectId)
  paused   : Bool
  counters : PicCounters
  deriving DecidableEq, Repr

structure Pic where
  /-- The page pool's bytes: an unlisted address reads 0 (log 8). -/
  memory     : List Host.Cell
  table      : List PicRecord
  carousels  : Vector PicCarousel 5
  lowestFree : Nat
  deriving DecidableEq, Repr

/-! ### ALC (chapter 9) -/

/-- Urgency, region mask and text that a source asks for (R152). -/
structure SourceValues where
  urgency : Nat
  mask    : Byte
  text    : List Byte
  deriving DecidableEq, Repr

structure SourceCounters where
  clamps           : Nat
  lineEvents       : Nat
  disabledRequests : Nat
  deriving DecidableEq, Repr

/-- A source's own state. The values of AL0 and AL1 are the image's; `values` is used by FEED, SUPV and TEST. -/
structure Source where
  raised   : Bool
  carried  : Bool
  values   : Option SourceValues
  counters : SourceCounters
  deriving DecidableEq, Repr

/-- The five sources, in the order that breaks ties (R157). -/
inductive SourceId where
  | al0
  | al1
  | feed
  | supv
  | test
  deriving DecidableEq, Repr

structure Sources where
  al0  : Source
  al1  : Source
  feed : Source
  supv : Source
  test : Source
  deriving DecidableEq, Repr

inductive LocalState where
  | idle
  | announced
  | on
  | ending
  deriving DecidableEq, Repr

structure LocalAlert where
  state : LocalState
  id    : Option AlertId
  start : Option FrameNo
  stop  : Option FrameNo
  deriving DecidableEq, Repr

inductive RecordState where
  | waiting
  | active
  | ending
  deriving DecidableEq, Repr

/-- Base values of an alert, or the values of an update (R163). -/
structure AlertValues where
  urgency : Nat
  mask    : Byte
  test    : Bool
  text    : List Byte
  deriving DecidableEq, Repr

structure AlertUpdate where
  frame  : FrameNo
  values : AlertValues
  deriving DecidableEq, Repr

/-- An end frame and its source: an ALERT_END, or a removal (R163). -/
structure EndFrame where
  frame     : FrameNo
  byRemoval : Bool
  deriving DecidableEq, Repr

/-- A record of the alert table (R163). -/
structure AlertRecord where
  id          : AlertId
  base        : AlertValues
  audioRate   : Nat
  start       : FrameNo
  update      : Option AlertUpdate
  stop        : Option EndFrame
  receivedEnd : Option FrameNo
  clamped     : Bool
  state       : RecordState
  deriving DecidableEq, Repr

structure AlcCounters where
  clears          : Nat
  feedLosses      : Nat
  originations    : Nat
  deferrals       : Nat
  escalations     : Nat
  endsByStop      : Nat
  endsByDuration  : Nat
  endsBySources   : Nat
  endsByEviction  : Nat
  endsByState     : Nat
  repeatsSent     : Nat
  refusedHandIns  : Nat
  accepted        : Nat
  refreshes       : Nat
  updatesStored   : Nat
  lateAlerts      : Nat
  lateUpdates     : Nat
  refusedFull     : Nat
  evictions       : Nat
  foreignAlerts   : Nat
  unknownEnds     : Nat
  endRefreshes    : Nat
  endsClamped     : Nat
  ended           : Nat
  ignoredByState  : Nat
  announcedNotHeld : Nat
  deriving DecidableEq, Repr

structure Alc where
  sources     : Sources
  localAlert  : LocalAlert
  stopMark    : Bool
  repeatCount : Nat
  serial      : Byte
  table       : List AlertRecord
  removals    : Vector (Option FrameNo) 8
  counters    : AlcCounters
  deriving DecidableEq, Repr

/-! ### CFL and SUP (chapter 10) -/

/-- The fault causes of R176, with "none". -/
inductive FaultCause where
  | none
  | readFailed
  | length
  | check
  | format
  | range
  | role
  | identity
  deriving DecidableEq, Repr

structure Cfl where
  image      : Option Image
  /-- The read state: true is READING. -/
  reading    : Bool
  readAge    : Nat
  lock       : Option (UnitId × BitVec 16)
  cause      : FaultCause
  /-- The fault field: the image offset of the failing field's first byte (R195). -/
  faultField : Option Nat
  deriving DecidableEq, Repr

/-- A request in SUP's queue: as received, with the outcome of its check. -/
structure Request where
  tag       : Byte
  code      : Byte
  body      : List Byte
  checkGood : Bool
  deriving DecidableEq, Repr

inductive AnswerKind where
  | done
  | refusedState
  | refusedArg
  | unknown
  | badCheck
  deriving DecidableEq, Repr

/-- The lifetime counters (R186); the refusals are counted for each of the seven fault causes, READ_FAILED and LENGTH
too (log 71). -/
structure LifetimeCounters where
  lineResets        : Nat
  softResets        : Nat
  rejoins           : Nat
  jumps             : Nat
  imagesAccepted    : Nat
  imagesRefused     : Nat
  refusedReadFailed : Nat
  refusedLength     : Nat
  refusedCheck      : Nat
  refusedFormat     : Nat
  refusedRange      : Nat
  refusedRole       : Nat
  refusedIdentity   : Nat
  identityRefusals  : Nat
  clashes           : Nat
  expiries          : Nat
  deriving DecidableEq, Repr

/-- READ_STATUS's data (R182); what the image configures is absent while none is held (log 57). -/
structure StatusData where
  unit            : UnitState
  joinFrame       : Option FrameNo
  ref             : RefState
  now             : Option FrameNo
  holdover        : Nat
  receiver        : ReceiverState
  queuedAlert     : Nat
  queuedClaim     : Nat
  queuedPresence  : Nat
  queuedContrib   : Nat
  seq             : Byte
  peerAge         : Nat
  echoAge         : Nat
  lastProduction  : List (Option FrameNo)
  alertProduction : Option FrameNo
  ports           : List (Option (PortRole × Nat) × PortState)
  services        : List (Selection × Nat × Nat × Nat × Nat)
  alertQueueFill  : Nat
  reading         : Bool
  cause           : FaultCause
  faultField      : Option Nat
  lock            : Option (UnitId × BitVec 16)
  held            : Option (UnitId × BitVec 16 × Nat × Nat)
  flags           : BitVec 24
  attention       : Bool
  deriving DecidableEq, Repr

/-- READ_COUNTERS's data: every counter with its owner and key (R186), and the source of each filing (R89). -/
structure CountersData where
  ftu        : FtuCounters
  ofr        : OfrCounters
  ple        : PleCounters
  lkp        : LkpCounters
  senders    : List SenderRecord
  pvw        : PvwCounters
  slots      : List SlotCounters
  cpr        : List ProductionCounters
  cprAlert   : ProductionCounters
  asm        : AsmCounters
  rows       : List SubstitutionRow
  otherRow   : SubstitutionRow
  filings    : List (FrameNo × ServiceId × UnitId)
  ports      : List PortCounters
  intake     : List IntakeCounters
  alertFeed  : AlertFeedCounters
  text       : List TextCounters
  alertCells : Nat × Nat
  pictures   : List PicCounters
  lowestFree : Nat
  sources    : List SourceCounters
  alc        : AlcCounters
  lost       : Nat
  lifetime   : LifetimeCounters
  deriving DecidableEq, Repr

/-- READ_VIEW's data (R80). -/
structure ViewData where
  unit      : UnitState
  joinFrame : Option FrameNo
  ownClaim  : Option FramedClaim
  switches  : List Bool
  slots     : List PeerSlot
  senders   : List SenderRecord
  digests   : List (FrameNo × BitVec 16)
  deriving DecidableEq, Repr

/-- READ_ALERTS's data (R172, R161). The source table's lines carry their enabled mark and values; what the image
configures is absent while none is held (log 57). -/
structure AlertsData where
  sources     : List (Option Bool × Option SourceValues × Source)
  lines       : List (Option (LineMode × Bool × Bool))
  localAlert  : LocalAlert
  stopMark    : Bool
  repeatCount : Nat
  removals    : List (Option FrameNo)
  table       : List AlertRecord
  governing   : Option AlertId
  announcedNotHeld : Nat
  deriving DecidableEq, Repr

/-- READ_PICTURES's data (R150). -/
structure PicturesData where
  carousel    : PicCarousel
  records     : List PicRecord
  freePages   : Nat
  freeRecords : Nat
  deriving DecidableEq, Repr

/-- An answer's data: what the bytes of R195 carry. -/
inductive AnswerData where
  | none
  | status (d : StatusData)
  | counters (d : CountersData)
  | view (d : ViewData)
  | layout (frame : FrameNo) (d : Layout)
  | alerts (d : AlertsData)
  | text (d : Carousel)
  | alertText (d : AlertCarousel)
  | pictures (d : PicturesData)
  | flags (d : BitVec 24)
  | fault (cause : FaultCause) (field : Option Nat)
  deriving DecidableEq, Repr

/-- An answer handed to the port transmitter: what it says, and its bytes on the port (R195). -/
structure Answer where
  tag   : Byte
  code  : Byte
  kind  : AnswerKind
  data  : AnswerData
  bytes : List Byte
  deriving DecidableEq, Repr

structure Sup where
  queue     : List Request
  inHand    : Option Request
  answers   : List Answer
  flags     : BitVec 24
  /-- The attention line: true is ASSERTED. -/
  attention : Bool
  lost      : Nat
  lifetime  : LifetimeCounters
  deriving DecidableEq, Repr

/-! ### The boundary in progress (the model's own, log 1) -/

/-- What a boundary makes the blocks do, in parts. Each row of the opcode table that is an event of a boundary is one
action; the others belong to the boundary itself. -/
inductive Act where
  | endFrame
  | frameJump
  | holdoverExpired
  | relocked
  | linkAges
  | readAge
  | readFailed
  | portActivity (port : PortId)
  | feedLost (port : PortId)
  | feedCounts (service : ServiceIx)
  | feedSwitch (service : ServiceIx)
  | feedRevert (service : ServiceIx)
  | slotRemoval (unit : UnitId)
  | claimInForce (unit : UnitId)
  | peerSilent (unit : UnitId)
  | rejoinHold
  | listenCount
  | enterJoining
  | enterOnAir
  | startFrame
  | freeSlot
  | computeLayout
  | pruneChain
  | sealFrame
  | expireContributions
  | textSide (service : ServiceIx)
  | textExpiry (service : ServiceIx) (slot : SlotIx)
  | textHold (service : ServiceIx)
  | pictureSide (service : ServiceIx)
  | pictureLoadTimeout (service : ServiceIx) (object : ObjectId)
  | pictureLife (service : ServiceIx)
  | pictureExpiry (service : ServiceIx) (object : ObjectId)
  | produce
  | presenceSend
  | claimResend
  | enterIsolated
  | alertRecordStart (id : AlertId)
  | alertRecordEnded (id : AlertId)
  | localAlertOn
  | localAlertIdle
  | alertStopTest
  | alertDurationLimit
  | alertSourcesTest
  | escalate
  | originate
  | alertRepeat
  deriving DecidableEq, Repr

structure Progress where
  agenda       : List Act
  presenceSent : Bool
  claimSent    : Bool
  alertSent    : Bool
  deriving DecidableEq, Repr

/-! ### The whole unit -/

structure State where
  /-- The commands that are waiting, first in, first out. -/
  pending  : List Instr
  progress : Progress
  /-- How many free values have been drawn (the model's own, log 6). -/
  freeIx   : Nat
  /-- The electrical level of the two alert lines: true is high (R153). -/
  lines    : Vector Bool 2
  ftu      : Ftu
  ofr      : Ofr
  ple      : Ple
  lkp      : Lkp
  pvw      : Pvw
  cpr      : Cpr
  asm      : Asm
  sin      : Sin
  txc      : Txc
  pic      : Pic
  alc      : Alc
  sup      : Sup
  cfl      : Cfl
  deriving DecidableEq, Repr

/-- Reasons the machine stops. The manual gives every event an outcome, so no command of this model raises one. -/
inductive Fault where
  /-- Raised by nothing: it stands for a broken invariant of the host, and a run that showed it would be safe. -/
  | unreachable
  deriving DecidableEq, Repr

/-- Reasons a command has no meaning. -/
inductive Refusal where
  /-- Raised by a dispatch arm whose command has no meaning yet; safe. No arm of this model raises it. -/
  | notModelled (mnemonic : String)
  deriving DecidableEq, Repr

/-! ### The values after power-on -/

def SenderRecord.zero : SenderRecord := ⟨none, 0, 0, 0, 0, 0⟩

def SlotCounters.zero : SlotCounters := ⟨0, 0, 0, 0, 0, 0, 0⟩

/-- An ABSENT slot with its counters (R67). -/
def PeerSlot.absent (c : SlotCounters) : PeerSlot :=
  { state := .absent, stamp := none, reported := none, announced := 0, heardSet := 0, digest := none, alertId := none,
    holdover := false, inForce := none, waiting := none, removal := none, diverged := false, counters := c }

def KindCounts.zero : KindCounts := ⟨0, 0, 0, 0, 0, 0, 0, 0, 0, 0⟩

def PortCounters.zero : PortCounters := ⟨0, 0, 0, 0, 0, .zero, .zero, .zero, 0⟩

/-- A port held in HUNT (R116). -/
def Port.reset : Port :=
  { state := .hunt, huntCount := 0, failures := 0, nextKnown := false, held := [], idleCount := 0, active := false,
    counters := .zero }

def IntakeCounters.zero : IntakeCounters := ⟨0, 0, 0, 0⟩

def Intake.reset : Intake :=
  { selection := .onMain, mainDown := 0, mainUp := 0, backupDown := 0, queue := [], counters := .zero }

/-- An EMPTY message slot with its toggle (R119). -/
def TextSlot.empty (toggle : Bool) : TextSlot :=
  { state := .empty, text := [], weight := 0, hold := 0, lifetime := 0, remaining := 0, toggle := toggle, key := 0,
    inList := false }

def TextCounters.zero : TextCounters := ⟨0, 0, 0, 0, 0, 0, 0, 0, 0, 0, 0, 0, 0, 0⟩

/-- A carousel as R132 gives it after power-on, line reset and soft reset, with its counters. -/
def Carousel.reset (c : TextCounters) : Carousel :=
  { slots := Vector.replicate 8 (.empty false), cycle := [], position := none, current := none, holdCount := 0,
    held := false, gap := 16, suspended := false, counters := c }

def PicCounters.zero : PicCounters :=
  ⟨0, 0, 0, 0, 0, 0, 0, 0, 0, 0, 0, 0, 0, 0, 0, 0, 0, 0, 0, 0, 0, 0, 0, 0⟩

def PicCarousel.reset (c : PicCounters) : PicCarousel := ⟨none, none, false, c⟩

def SourceCounters.zero : SourceCounters := ⟨0, 0, 0⟩

def Source.reset : Source := ⟨false, false, none, .zero⟩

def LocalAlert.idle : LocalAlert := ⟨.idle, none, none, none⟩

def AlcCounters.zero : AlcCounters :=
  ⟨0, 0, 0, 0, 0, 0, 0, 0, 0, 0, 0, 0, 0, 0, 0, 0, 0, 0, 0, 0, 0, 0, 0, 0, 0, 0⟩

def AsmCounters.zero : AsmCounters := ⟨0, 0, 0, 0, 0, 0, 0, 0, 0, 0⟩

def LkpCounters.zero : LkpCounters := ⟨0, 0, 0, 0, 0, 0, 0, 0, 0, 0, 0, 0, 0, 0, 0, 0⟩

def PvwCounters.zero : PvwCounters := ⟨0, 0, 0, 0, 0, 0, 0, 0, 0, 0⟩

def LifetimeCounters.zero : LifetimeCounters := ⟨0, 0, 0, 0, 0, 0, 0, 0, 0, 0, 0, 0, 0, 0, 0, 0⟩

/-- No boundary in progress. -/
def Progress.none : Progress := ⟨[], false, false, false⟩

/-- R1; the reset stands for the last boundary from which R3 measures the first pulses, an unmatched one of source TIMER
(log 67). -/
def Ftu.reset : Ftu :=
  { ref := .unlocked, now := none, holdover := 0, timerStart := 0, source := .timer, matched := false, message := none,
    candidate := none, next := none, counters := ⟨0, 0, 0, 0, 0⟩ }

/-- R19. -/
def Ofr.reset : Ofr := ⟨false, none, ⟨0, 0, 0⟩⟩

/-- R39. -/
def Ple.reset : Ple := ⟨[], none, ⟨0, 0, 0, 0⟩⟩

/-- R58. -/
def Lkp.reset : Lkp :=
  { receiver := .hunt, huntCount := 0, failures := 0, nextKnown := false, held := [], queue := [], transmitting := none,
    seq := 0, echoes := [], senders := Vector.replicate 8 .zero, peerAge := 25, echoAge := 25, counters := .zero }

/-- R81. -/
def Pvw.reset : Pvw :=
  { unit := .loading, listenCount := 0, joinFrame := none, peerMark := false, echoMark := false, peerWaiver := false,
    presenceCount := 0, claimCount := 0, rejoinHold := 25, ownClaim := none, version := 0,
    switches := Vector.replicate 5 true, digests := [], slots := Vector.replicate 8 (.absent .zero), counters := .zero }

/-- R100. -/
def Cpr.reset : Cpr := ⟨Vector.replicate 5 none, none, Vector.replicate 5 ⟨0, 0⟩, ⟨0, 0⟩⟩

@[inherit_doc Cpr.reset]
def Asm.reset : Asm := ⟨Vector.replicate 16 .free, [], [], ⟨0, 0, 0, 0⟩, .zero⟩

/-- R116. -/
def Sin.reset : Sin := ⟨Vector.replicate 6 .reset, Vector.replicate 5 .reset, [], ⟨0, 0, 0, 0⟩⟩

def AlertCarousel.reset : AlertCarousel := ⟨none, false, 0, 0, 0⟩

/-- R132. -/
def Txc.reset : Txc := ⟨Vector.replicate 5 (.reset .zero), .reset⟩

/-- R151. -/
def Pic.reset : Pic := ⟨[], [], Vector.replicate 5 (.reset .zero), 384⟩

/-- R173. -/
def Alc.reset : Alc :=
  { sources := ⟨.reset, .reset, .reset, .reset, .reset⟩, localAlert := .idle, stopMark := false, repeatCount := 0,
    serial := 0, table := [], removals := Vector.replicate 8 none, counters := .zero }

/-- R187. -/
def Sup.reset : Sup := ⟨[], none, [], 0, false, 0, .zero⟩

/-- R175, R187: power-on begins a flash read; no image is held and the identity lock is UNLOCKED. -/
def Cfl.reset : Cfl := ⟨none, true, 0, none, .none, none⟩

/-- The unit right after power-on, before any command (chapters' reset tables; alert lines low, log 7). -/
def State.reset : State :=
  { pending := [], progress := .none, freeIx := 0, lines := Vector.replicate 2 false, ftu := .reset, ofr := .reset,
    ple := .reset, lkp := .reset, pvw := .reset, cpr := .reset, asm := .reset, sin := .reset, txc := .reset,
    pic := .reset, alc := .reset, sup := .reset, cfl := .reset }

end Sys2Proof.Machine
end

