-- ==== Sys2Proof/Machine/Ops.lean ====
section
/-! DEFINITION. The shared operations: frame arithmetic, counters, byte order, checks, the page pool's memory,
and what the blocks read of the configuration. -/

namespace Sys2Proof.Machine

/-! ### Frame numbers (00_scope, Frames and frame numbers; R6) -/

/-- Frame `a` is later than frame `b`. -/
def later (a b : FrameNo) : Bool :=
  1 ≤ (a - b).toNat && (a - b).toNat ≤ 8388607

/-- The frame `n` frames after `f`, modulo 2^24. -/
def plus (f : FrameNo) (n : Nat) : FrameNo := f + BitVec.ofNat 24 n

/-- The reference frame number of a labelled pulse (R2). -/
def refFrame (second : BitVec 32) : FrameNo := BitVec.ofNat 24 (25 * second.toNat)

/-! ### Counters (R186) -/

/-- A counter raised by `k`: it stays at its top value once there. -/
def bumpBy (n k : Nat) : Nat := max n (min (n + k) Config.counterTop)

/-- A counter raised by 1. -/
def bump (n : Nat) : Nat := bumpBy n 1

/-- A count raised by 1 up to a limit that is not the counters' (ages, idle counts, down and up counts). -/
def upTo (limit n : Nat) : Nat := min (n + 1) limit

/-! ### Byte order: most significant byte first (chapter 11, opening) -/

def be16 (v : BitVec 16) : List Byte := [v.extractLsb' 8 8, v.extractLsb' 0 8]

def be24 (v : BitVec 24) : List Byte := [v.extractLsb' 16 8, v.extractLsb' 8 8, v.extractLsb' 0 8]

def be32 (v : BitVec 32) : List Byte :=
  [v.extractLsb' 24 8, v.extractLsb' 16 8, v.extractLsb' 8 8, v.extractLsb' 0 8]

/-- The number that bytes carry, most significant first. -/
def beNat (bs : List Byte) : Nat := bs.foldl (fun n b => n * 256 + b.toNat) 0

/-- `n` bytes of `bs` from offset `o`. -/
def slice (bs : List Byte) (o n : Nat) : List Byte := (bs.drop o).take n

/-- The byte of `bs` at offset `o`; 0 beyond the end. -/
def byteAt (bs : List Byte) (o : Nat) : Byte := bs.getD o 0

/-- The 16-bit field at offset `o`. -/
def half (bs : List Byte) (o : Nat) : BitVec 16 := BitVec.ofNat 16 (beNat (slice bs o 2))

/-- The 24-bit field at offset `o`. -/
def frameAt (bs : List Byte) (o : Nat) : BitVec 24 := BitVec.ofNat 24 (beNat (slice bs o 3))

/-- The alert id at offset `o`. -/
def alertIdAt (bs : List Byte) (o : Nat) : AlertId := ⟨byteAt bs o, byteAt bs (o + 1)⟩

def byteOf (n : Nat) : Byte := BitVec.ofNat 8 n

def bit (b : Bool) (v : Nat) : Nat := if b then v else 0

/-- `bs` padded with zero bytes, or cut, to `n` bytes. -/
def zeroPad (n : Nat) (bs : List Byte) : List Byte := bs.take n ++ List.replicate (n - bs.length) 0

/-! ### Checks (R188) -/

def crc16Bit (c : BitVec 16) : BitVec 16 := if c.msb then (c <<< 1) ^^^ 0x1021#16 else c <<< 1

def crc16Byte (c : BitVec 16) (b : Byte) : BitVec 16 :=
  crc16Bit (crc16Bit (crc16Bit (crc16Bit (crc16Bit (crc16Bit (crc16Bit (crc16Bit
    (c ^^^ (b.zeroExtend 16 <<< 8)))))))))

/-- CRC-16 carried on over `bs` from `c`. -/
def crc16From (c : BitVec 16) (bs : List Byte) : BitVec 16 := bs.foldl crc16Byte c

/-- CRC-16: polynomial 0x1021, initial value 0xFFFF, no reflection, no final inversion. -/
def crc16 (bs : List Byte) : BitVec 16 := crc16From 0xFFFF#16 bs

def crc32Bit (c : BitVec 32) : BitVec 32 := if c.msb then (c <<< 1) ^^^ 0x04C11DB7#32 else c <<< 1

def crc32Byte (c : BitVec 32) (b : Byte) : BitVec 32 :=
  crc32Bit (crc32Bit (crc32Bit (crc32Bit (crc32Bit (crc32Bit (crc32Bit (crc32Bit
    (c ^^^ (b.zeroExtend 32 <<< 24)))))))))

/-- CRC-32: polynomial 0x04C11DB7, initial value 0xFFFFFFFF, no reflection, final inversion. -/
def crc32 (bs : List Byte) : BitVec 32 := ~~~ (bs.foldl crc32Byte 0xFFFFFFFF#32)

/-! ### The page pool's memory (R133): addresses 0 to 196,607, an unlisted one reads 0 (log 8) -/

/-- What a byte nothing has written reads as. -/
def memoryDefault : Byte := 0

def memRead : List Host.Cell → Nat → Byte
  | [], _ => memoryDefault
  | (a, b) :: m, x => if a = x then b else memRead m x

/-- A write that keeps the canonical form: addresses rising, no entry equal to the default. -/
def memWrite : List Host.Cell → Nat → Byte → List Host.Cell
  | [], x, v => if v = memoryDefault then [] else [(x, v)]
  | (a, b) :: m, x, v =>
    if a < x then (a, b) :: memWrite m x v
    else if a = x then (if v = memoryDefault then m else (x, v) :: m)
    else if v = memoryDefault then (a, b) :: m else (x, v) :: (a, b) :: m

/-- The canonical form, with every address above `low - 1`. -/
def memWfFrom : Nat → List Host.Cell → Bool
  | _, [] => true
  | low, (a, b) :: m => low ≤ a && b != memoryDefault && memWfFrom (a + 1) m

/-- The page memory's form: addresses strictly rising, no entry that an unlisted address would read as. -/
def Memory.wf (m : List Host.Cell) : Bool := memWfFrom 0 m

/-! ### What the blocks read of the configuration (log 19) -/

/-- L, the lead; 0 while no image is held, when no block uses it. -/
def leadOf (s : State) : Nat := (s.cfl.image.map (·.lead)).getD 0

/-- This unit's id; 0 while no image is held, when no block uses it. -/
def selfOf (s : State) : UnitId := (s.cfl.image.map (·.unitId)).getD 0

/-- The ensemble id, or 0 while no image is held (R14). -/
def ensembleOf (s : State) : BitVec 16 := (s.cfl.image.map (·.ensembleId)).getD 0

/-- The service definitions; none while no image is held. -/
def servicesOf (s : State) : List ServiceDef := (s.cfl.image.map (·.services)).getD []

def serviceDef (s : State) (k : ServiceIx) : Option ServiceDef := (servicesOf s)[k.val]?

/-- The five service places. -/
def serviceIxs : List ServiceIx := [0, 1, 2, 3, 4]

def portIds : List PortId := [0, 1, 2, 3, 4, 5]

def unitIds : List UnitId := [0, 1, 2, 3, 4, 5, 6, 7]

def slotIxs : List SlotIx := [0, 1, 2, 3, 4, 5, 6, 7]

/-- The configured services' places, in the image's order. -/
def configured (s : State) : List ServiceIx := serviceIxs.filter (fun k => (serviceDef s k).isSome)

/-- The place of the configured local service with this id. -/
def serviceIx (s : State) (id : ServiceId) : Option ServiceIx :=
  (configured s).find? (fun k => (serviceDef s k).map (·.id) = some id)

def roleOf (s : State) (p : PortId) : PortRole := (s.cfl.image.map (·.roles[p])).getD .unused

def keyOf (s : State) (p : PortId) : Nat := (s.cfl.image.map (·.keys[p])).getD 0

/-- The port bound as MAIN of service `k` (R101). -/
def mainPort (s : State) (k : ServiceIx) : Option PortId := portIds.find? (fun p => roleOf s p = .main k.val)

/-- The port bound as BACKUP of service `k`, if any (R101). -/
def backupPort (s : State) (k : ServiceIx) : Option PortId := portIds.find? (fun p => roleOf s p = .backup k.val)

/-- The port in the ALERT role, if any. -/
def alertPort (s : State) : Option PortId := portIds.find? (fun p => roleOf s p = .alert)

def lineSettings (s : State) (l : LineIx) : Option LineSettings := s.cfl.image.map (·.lines[l])

/-- The alert channel's service id of a unit: 0xFF00 plus its id. -/
def alertService (unit : Nat) : ServiceId := BitVec.ofNat 16 (0xFF00 + unit)

/-- A key allowed on a record: key 0, or the record's own key (R119, R134). -/
def keyAllows (key owner : Nat) : Bool := key == 0 || key == owner

/-! ### Unit states -/

/-- LISTEN, JOINING, ON_AIR, ISOLATED: the states in which packets reach PVW's table (R68). -/
def UnitState.viewing : UnitState → Bool
  | .listen | .joining | .onAir | .isolated => true
  | _ => false

/-- JOINING, ON_AIR, ISOLATED: the states in which layouts are computed (R30). -/
def UnitState.computing : UnitState → Bool
  | .joining | .onAir | .isolated => true
  | _ => false

/-- ON_AIR, ISOLATED: the states in which valid frames are output (R12). -/
def UnitState.emitting : UnitState → Bool
  | .onAir | .isolated => true
  | _ => false

/-- Every state but LOADING and HALTED. -/
def UnitState.running : UnitState → Bool
  | .loading | .halted => false
  | _ => true

/-! ### Indexed updates -/

/-- Entry `i` of a table replaced by `f` of it. -/
def modifyAt {α : Type} {n : Nat} (v : Vector α n) (i : Fin n) (f : α → α) : Vector α n := v.set i (f v[i])

/-- Every entry of a table replaced by `f` of it. -/
def mapAll {α β : Type} {n : Nat} (f : α → β) (v : Vector α n) : Vector β n := Vector.ofFn fun i => f v[i]

/-- A list with its first entry satisfying `p` replaced by `f` of it. -/
def modifyFirst {α : Type} (p : α → Bool) (f : α → α) : List α → List α
  | [] => []
  | x :: xs => if p x then f x :: xs else x :: modifyFirst p f xs

def modifyCarousel (k : ServiceIx) (f : Carousel → Carousel) (s : State) : State :=
  { s with txc.carousels := modifyAt s.txc.carousels k f }

def modifyPicCarousel (k : ServiceIx) (f : PicCarousel → PicCarousel) (s : State) : State :=
  { s with pic.carousels := modifyAt s.pic.carousels k f }

def modifyPeer (u : UnitId) (f : PeerSlot → PeerSlot) (s : State) : State :=
  { s with pvw.slots := modifyAt s.pvw.slots u f }

def modifySender (u : UnitId) (f : SenderRecord → SenderRecord) (s : State) : State :=
  { s with lkp.senders := modifyAt s.lkp.senders u f }

def modifyPort (p : PortId) (f : Port → Port) (s : State) : State :=
  { s with sin.ports := modifyAt s.sin.ports p f }

def modifyIntake (k : ServiceIx) (f : Intake → Intake) (s : State) : State :=
  { s with sin.services := modifyAt s.sin.services k f }

def Sources.get (t : Sources) : SourceId → Source
  | .al0 => t.al0
  | .al1 => t.al1
  | .feed => t.feed
  | .supv => t.supv
  | .test => t.test

def Sources.set (t : Sources) (x : Source) : SourceId → Sources
  | .al0 => { t with al0 := x }
  | .al1 => { t with al1 := x }
  | .feed => { t with feed := x }
  | .supv => { t with supv := x }
  | .test => { t with test := x }

def modifySource (i : SourceId) (f : Source → Source) (s : State) : State :=
  { s with alc.sources := s.alc.sources.set (f (s.alc.sources.get i)) i }

/-- The five sources in the order that breaks ties (R157). -/
def sourceIds : List SourceId := [.al0, .al1, .feed, .supv, .test]

/-! ### Reading a line byte by byte (R41, R42, R102, R103) -/

/-- Bytes from the first that is not the idle byte (R189, R193). -/
def skipIdle (idle : Byte) (bs : List Byte) : List Byte := bs.dropWhile (· == idle)

/-- Bytes from the first sync pair on; none when there is no pair. -/
def seekPair (a b : Byte) : List Byte → List Byte
  | [] => []
  | x :: l => if x = a && l.head? = some b then x :: l else seekPair a b l

/-- What one turn of a receiver leaves: the state, and the bytes it goes on with, none when it waits for more. -/
structure Turn where
  state : State
  rest  : Option (List Byte)
  deriving DecidableEq, Repr

/-- Turns of a receiver until it waits for more bytes; the first argument bounds their number. -/
def runTurns (turn : List Byte → State → Turn) : Nat → List Byte → State → State
  | 0, _, s => s
  | n + 1, bs, s =>
    match (turn bs s).rest with
    | none => (turn bs s).state
    | some l => runTurns turn n l (turn bs s).state

/-- Turns enough for bytes read behind bytes held: at most two turns begin at any byte. -/
def turnsFor (held bs : List Byte) : Nat := 2 * (held.length + bs.length) + 3

end Sys2Proof.Machine
end

