-- ==== Sys2Proof/Machine/Flags.lean ====
section
/-! DEFINITION. The sticky flags and the attention line (chapter 10.3). -/

namespace Sys2Proof.Machine

/-- The sticky flags in the order that fixes their places (R184). -/
inductive Flag where
  | configFault
  | holdoverExpired
  | frameJump
  | duplicateId
  | linkSyncLost
  | paramMismatch
  | idClash
  | txOverflow
  | txExpired
  | claimStale
  | viewDiverged
  | peerSilent
  | linkIsolated
  | underrun
  | contribLate
  | feedLost
  | feedSwitched
  | overrun
  | keyRefused
  | picLoadFail
  | alertLate
  | alertTableFull
  | requestLost
  deriving DecidableEq, Repr

/-- A flag's place: CONFIG_FAULT is 0 and REQUEST_LOST 22 (R195). -/
def Flag.place : Flag → Nat
  | .configFault => 0
  | .holdoverExpired => 1
  | .frameJump => 2
  | .duplicateId => 3
  | .linkSyncLost => 4
  | .paramMismatch => 5
  | .idClash => 6
  | .txOverflow => 7
  | .txExpired => 8
  | .claimStale => 9
  | .viewDiverged => 10
  | .peerSilent => 11
  | .linkIsolated => 12
  | .underrun => 13
  | .contribLate => 14
  | .feedLost => 15
  | .feedSwitched => 16
  | .overrun => 17
  | .keyRefused => 18
  | .picLoadFail => 19
  | .alertLate => 20
  | .alertTableFull => 21
  | .requestLost => 22

/-- The flag set with this flag alone. -/
def Flag.mask (f : Flag) : BitVec 24 := BitVec.ofNat 24 (2 ^ f.place)

/-- All 23 places of the flag table. -/
def allFlags : BitVec 24 := 0x7FFFFF#24

/-- The attention mask in force (R185): the held image's while the unit runs on it or a read after a line reset is
under way; CONFIG_FAULT alone while no image is held. -/
def maskInForce (s : State) : BitVec 24 := (s.cfl.image.map (·.attentionMask)).getD Flag.configFault.mask

/-- The attention line as R185 gives it. -/
def attentionDue (s : State) : Bool := s.sup.flags &&& maskInForce s != 0

/-- The attention line driven from the flags and the mask in force (R185). -/
def driveAttention (s : State) : State := { s with sup.attention := attentionDue s }

/-- A flag is set; it acts on nothing but the flag set and the attention line (R184). -/
def raiseFlag (f : Flag) (s : State) : State :=
  driveAttention { s with sup.flags := s.sup.flags ||| f.mask }

/-- The named flags are cleared. -/
def clearFlagSet (named : BitVec 24) (s : State) : State :=
  driveAttention { s with sup.flags := s.sup.flags &&& ~~~ named }

/-- The held image changes; the attention mask in force changes with it (R185). -/
def holdImage (i : Option Image) (s : State) : State :=
  driveAttention { s with cfl.image := i }

def flagSet (f : Flag) (s : State) : Bool := s.sup.flags &&& f.mask != 0

end Sys2Proof.Machine
end

