-- ==== Sys2Proof/Machine/Layout.lean ====
section
/-! DEFINITION. PLE (chapter 2): block counts, the claim set, ranking, the degrade ladder, layouts and the layout
chain; and the directory's bytes (R15 to R18, R194), from which the layout digest is taken. -/

namespace Sys2Proof.Machine

/-! ### Block counts (R20) -/

def ceilDiv (n d : Nat) : Nat := (n + d - 1) / d

/-- The expansion n/d of a protection class. -/
def expansion : Nat → Nat × Nat
  | 1 => (2, 1)
  | 2 => (8, 5)
  | 3 => (4, 3)
  | _ => (8, 7)

/-- The block count K of audio rate `a`, side rate `s` and protection class `p`. -/
def blockCount (a s p : Nat) : Nat :=
  ceilDiv (ceilDiv (5 * (a + s) * (expansion p).1) (expansion p).2) 24

/-! ### The claim set at a frame (R21) -/

/-- The entries that a slot gives at frame `n`. -/
def slotEntries (p : PeerSlot) (n : FrameNo) : List ClaimEntry :=
  if p.state = .absent || p.removal.any (fun r => !later r n) then []
  else match p.waiting with
    | some c => if later c.frame n then (p.inForce.map (·.entries)).getD [] else c.entries
    | none => (p.inForce.map (·.entries)).getD []

/-- The claim set at frame `n`, slots in ascending unit id, each claim in its own order. -/
def claimSet (slots : Vector PeerSlot 8) (n : FrameNo) : List (UnitId × ClaimEntry) :=
  unitIds.flatMap (fun u => (slotEntries slots[u] n).map (fun e => (u, e)))

/-! ### What is left out (R22) and the rank (R24) -/

/-- A service id of a local service: 0x0001 to 0xFEFF. -/
def validService (id : ServiceId) : Bool := 1 ≤ id.toNat && id.toNat ≤ 0xFEFF

/-- The first entry of each service id, in the claim set's order: the lowest owner, then the earliest in its claim. -/
def keepFirst : List ServiceId → List (UnitId × ClaimEntry) → List (UnitId × ClaimEntry)
  | _, [] => []
  | seen, e :: es => if seen.contains e.2.id then keepFirst seen es else e :: keepFirst (e.2.id :: seen) es

def ranksBefore (a b : UnitId × ClaimEntry) : Bool :=
  a.2.priority < b.2.priority || (a.2.priority == b.2.priority && a.2.id.toNat < b.2.id.toNat)

def insertRanked (x : UnitId × ClaimEntry) : List (UnitId × ClaimEntry) → List (UnitId × ClaimEntry)
  | [] => [x]
  | y :: ys => if ranksBefore x y then x :: y :: ys else y :: insertRanked x ys

def rank (es : List (UnitId × ClaimEntry)) : List (UnitId × ClaimEntry) := es.foldr insertRanked []

/-- One entry shares its service id with another of the claim set, and unit `self` supplied one of them (R38). -/
def ownDuplicate (self : UnitId) (valid : List (UnitId × ClaimEntry)) : Bool :=
  valid.any (fun e => e.1 = self && 2 ≤ (valid.filter (fun x => x.2.id = e.2.id)).length)

/-! ### The degrade ladder (R25, R26) -/

/-- A region mask or set with 0 read as all regions. -/
def allIfZero (m : Byte) : Byte := if m = 0 then 0xFF else m

/-- Two region sets meet, 0 standing for all regions. -/
def regionsMeet (a b : Byte) : Bool := allIfZero a &&& allIfZero b != 0

/-- The entry is targeted by the governing alert (R25). -/
def targeted (gov : Option AlertSummary) (e : ClaimEntry) : Bool :=
  gov.any (fun g => !g.test && regionsMeet e.regions g.mask)

/-- The ladder's result: placement, effective side rate, effective class, block count. -/
structure Rung where
  placement : Placement
  side      : Nat
  cls       : Nat
  count     : Nat
  deriving DecidableEq, Repr

/-- The steps of R26 for audio rate `a`, side rate `s` and class `p` within a budget of `q` blocks. -/
def ladder (a s p q : Nat) : Rung :=
  if blockCount a s p ≤ q then ⟨.normal, s, p, blockCount a s p⟩
  else if 0 < s && blockCount a 0 p ≤ q then ⟨.shed, 0, p, blockCount a 0 p⟩
  else match (List.range' (p + 1) (4 - p)).find? (fun c => blockCount a 0 c ≤ q) with
    | some c => ⟨.lowered, 0, c, blockCount a 0 c⟩
    | none => ⟨.unplaced, 0, p, 0⟩

/-- The entry record of a service entry placed from block `b` (R27, R28). -/
def placeEntry (gov : Option AlertSummary) (b : Nat) (e : UnitId × ClaimEntry) : LayoutEntry :=
  let r := ladder e.2.audioRate (if targeted gov e.2 then 0 else e.2.sideRate) e.2.protClass (Config.blocks - b)
  { owner := e.1, id := e.2.id, label := e.2.label, audioRate := e.2.audioRate, claimedSide := e.2.sideRate,
    claimedClass := e.2.protClass, regions := e.2.regions, side := r.side, cls := r.cls,
    start := if r.placement = .unplaced then 0 else b, count := r.count, placement := r.placement,
    follow := targeted gov e.2, clamped := e.2.clamped }

/-- Service entries placed in rank order from block `b`; the end block is the last `b` (R27). -/
def placeAll (gov : Option AlertSummary) : Nat → List (UnitId × ClaimEntry) → List LayoutEntry × Nat
  | b, [] => ([], b)
  | b, e :: es =>
    let x := placeEntry gov b e
    let r := placeAll gov (b + x.count) es
    (x :: r.1, r.2)

/-- The label "CIVIL ALERT" and five spaces (R17, R23). -/
def civilAlert : List Byte :=
  [0x43, 0x49, 0x56, 0x49, 0x4C, 0x20, 0x41, 0x4C, 0x45, 0x52, 0x54, 0x20, 0x20, 0x20, 0x20, 0x20]

/-- The alert channel entry (R23): its claimed values are those of its placement; its region set is the mask as ALC
supplies it, 0 not read as all regions (log 35). -/
def alertEntry (g : AlertSummary) : LayoutEntry :=
  { owner := Fin.ofNat 8 g.id.unit.toNat, id := alertService g.id.unit.toNat, label := civilAlert,
    audioRate := g.audioRate, claimedSide := 8, claimedClass := 1, regions := g.mask, side := 8, cls := 1, start := 0,
    count := blockCount g.audioRate 8 1, placement := .normal, follow := false, clamped := false }

/-! ### Directory bytes (R18, R194) -/

def Placement.code : Placement → Nat
  | .normal => 0
  | .shed => 1
  | .lowered => 2
  | .unplaced => 3

/-- What the seal adds to a placed entry's flags (R98). -/
inductive SealFlag where
  | clear
  | impaired
  | muted
  deriving DecidableEq, Repr

def SealFlag.code : SealFlag → Nat
  | .clear => 0
  | .impaired => 16
  | .muted => 32

def LayoutEntry.isPlaced (e : LayoutEntry) : Bool := e.placement != .unplaced

/-- The eight bytes of one entry position. -/
def entryBytes (e : LayoutEntry) (f : SealFlag) : List Byte :=
  be16 e.id ++ be16 (BitVec.ofNat 16 e.start) ++
    [byteOf e.count, byteOf (e.cls * 32 + e.side / 4), byteOf (e.audioRate / 8),
     byteOf (e.placement.code + bit e.follow 4 + bit e.clamped 8 + f.code)]

/-- The entry area of 41 positions, given the entries with their seal flags. -/
def entryArea (es : List (LayoutEntry × SealFlag)) : List Byte :=
  zeroPad 328 (es.flatMap (fun e => entryBytes e.1 e.2))

/-- The layout digest (R15, R194). -/
def layoutDigest (es : List LayoutEntry) : BitVec 16 := crc16 (entryArea (es.map (fun e => (e, .clear))))

/-- The alert block (R16): all zero when no alert governs; the start block is 0. -/
def alertBlock : Option AlertSummary → List Byte
  | none => List.replicate 7 0
  | some g => [g.id.unit, g.id.serial, byteOf g.urgency, allIfZero g.mask, byteOf (bit g.test 1), 0, 0]

/-- The label slot of frame `n` (R17): the label of the placed entry at index n mod C. -/
def labelSlot (n : FrameNo) (es : List LayoutEntry) : List Byte :=
  let placed := es.filter (·.isPlaced)
  zeroPad 16 ((placed[n.toNat % placed.length]?.map (·.label)).getD [])

/-- 382 bytes with their directory check appended (R194). -/
def withDirectoryCheck (bs : List Byte) : List Byte := bs ++ be16 (crc16 bs)

/-- The directory of valid frame `n` with this layout and these seal flags of its entries. -/
def frameDirectory (ensemble : BitVec 16) (n : FrameNo) (l : Layout) (es : List (LayoutEntry × SealFlag)) : List Byte :=
  withDirectoryCheck (be16 ensemble ++ be24 n ++ be16 l.digest ++
    [byteOf l.entries.length, byteOf l.placed] ++ be16 (BitVec.ofNat 16 l.endBlock) ++ [0] ++ alertBlock l.summary ++
    labelSlot n l.entries ++ entryArea es ++ List.replicate 19 0)

/-- The layout of an empty frame (R94): no entries, no alert, the digest of the zero area. -/
def emptyLayout : Layout := ⟨none, [], 0, 0, layoutDigest []⟩

/-- The directory of an empty frame (R94). -/
def emptyDirectory (ensemble : BitVec 16) (n : FrameNo) : List Byte := frameDirectory ensemble n emptyLayout []

/-- The idle directory (R14). -/
def idleDirectory (ensemble : BitVec 16) (n : Option FrameNo) : List Byte :=
  withDirectoryCheck (be16 ensemble ++ be24 (n.getD 0) ++ [0, 0, 0, 0, 0, 0, 1] ++ List.replicate 370 0)

/-! ### The computation of a layout (R22 to R28) -/

/-- What a computation gives: the layout, the entries left out, and whether this unit is party to a duplicate. -/
structure Computed where
  layout     : Layout
  duplicates : Nat
  invalid    : Nat
  ownParty   : Bool
  deriving DecidableEq, Repr

/-- The layout of a claim set and a governing alert, as unit `self` computes it. -/
def computeLayout (self : UnitId) (claims : List (UnitId × ClaimEntry)) (gov : Option AlertSummary) : Computed :=
  let valid := claims.filter (fun e => validService e.2.id)
  let kept := keepFirst [] valid
  let head := (gov.map (fun g => [alertEntry g])).getD []
  let first := (gov.map (fun g => (alertEntry g).count)).getD 0
  let body := placeAll gov first (rank kept)
  let entries := head ++ body.1
  { layout := { summary := gov.map (fun g => { g with mask := allIfZero g.mask }), entries := entries,
                placed := (entries.filter (·.isPlaced)).length, endBlock := body.2, digest := layoutDigest entries },
    duplicates := valid.length - kept.length, invalid := claims.length - valid.length,
    ownParty := ownDuplicate self valid }

/-! ### The layout chain (R29 to R34) -/

/-- The chain covers frame `m`: its oldest pair's frame is not later than `m`, and `m` is not later than H (R34). -/
def covers (p : Ple) (m : FrameNo) : Bool :=
  p.chain.head?.any (fun x => !later x.1 m) && p.last.any (fun h => !later m h)

/-- The pair that answers for frame `m`: the newest one whose frame is not later than `m`; none is "no layout" (R34). -/
def chainPair (p : Ple) (m : FrameNo) : Option (FrameNo × Layout) :=
  if covers p m then (p.chain.filter (fun x => !later x.1 m)).getLast? else none

def layoutAt (p : Ple) (m : FrameNo) : Option Layout := (chainPair p m).map (·.2)

/-- Two layouts are equal when their alert summaries and entry lists are (R32). -/
def sameLayout (a b : Layout) : Bool := a.summary = b.summary && a.entries = b.entries

/-- Oldest pairs leave while the second-oldest pair is in force at `now` (R33). -/
def pruneChain (now : FrameNo) : List (FrameNo × Layout) → List (FrameNo × Layout)
  | a :: b :: rest => if later b.1 now then a :: b :: rest else pruneChain now (b :: rest)
  | l => l

/-- The chain with the layout computed for `n` (R32), and whether a pair was added. -/
def chainWith (chain : List (FrameNo × Layout)) (n : FrameNo) (l : Layout) : List (FrameNo × Layout) × Bool :=
  match chain.getLast? with
  | some x => if sameLayout x.2 l then (chain, false) else (chain ++ [(n, l)], true)
  | none => ([(n, l)], true)

/-- PLE after computing the layout of frame `n` (R30, R32, R38). -/
def pleAfter (p : Ple) (n : FrameNo) (c : Computed) : Ple :=
  let r := chainWith p.chain n c.layout
  { chain := r.1, last := some n,
    counters := { computed := bump p.counters.computed, changes := bumpBy p.counters.changes (bit r.2 1),
                  duplicates := bumpBy p.counters.duplicates (bit r.2 c.duplicates),
                  invalid := bumpBy p.counters.invalid (bit r.2 c.invalid) } }

/-- The effective side rate PLE answers for unit `self`'s local service at frame `n`: 0 when the layout holds no placed
entry of that service that is the unit's own, another unit's entry of the same id notwithstanding (R37). -/
def sideRateAt (p : Ple) (self : UnitId) (id : ServiceId) (n : FrameNo) : Nat :=
  match (layoutAt p n).bind (fun l => l.entries.find? (fun e => e.id = id && e.owner = self)) with
  | some e => if e.isPlaced then e.side else 0
  | none => 0

/-- The layout chain emptied (R35, R39). -/
def emptyChain (s : State) : State := { s with ple.chain := [], ple.last := none }

end Sys2Proof.Machine
end

