-- ==== Sys2Proof/Machine/Operands.lean ====
section
/-! DEFINITION. The operand forms: what the bytes of a time message, a link packet, a feed packet, a request and the
configuration image mean (chapter 11), and the bytes of the packets this unit sends. -/

namespace Sys2Proof.Machine

/-! ### Time message (R188) -/

/-- The second count of a good time message; none when its first byte or its check is wrong. -/
def parseTime (bs : List Byte) : Option (BitVec 32) :=
  if bs.length = 7 && byteAt bs 0 = 0xA1 && half bs 5 = crc16 (bs.take 5) then
    some (BitVec.ofNat 32 (beNat (slice bs 1 4)))
  else none

/-! ### Link packets (R43, R47, R189 to R191) -/

/-- The kind code of a link packet (R189). -/
def Kind.code : Kind → Byte
  | .presence => 1
  | .claim => 2
  | .contrib => 3
  | .alert => 4
  | .alertEnd => 5

def kindOfCode (c : Byte) : Option Kind :=
  if c = 1 then some .presence else if c = 2 then some .claim else if c = 3 then some .contrib
  else if c = 4 then some .alert else if c = 5 then some .alertEnd else none

/-- The body length range of a kind (R50; R43 for an ALERT). -/
def Kind.lengthOk : Kind → Nat → Bool
  | .presence, n => n == 14
  | .claim, n => 5 ≤ n && n ≤ 125
  | .contrib, n => 41 ≤ n && n ≤ 2241
  | .alert, n => 12 ≤ n && n ≤ 274
  | .alertEnd, n => n == 5

/-- Header bytes 2 to 14, which the header check covers (R189). -/
def headerCore (ensemble : BitVec 16) (lead kind sender seq : Byte) (length : Nat) (frameTag : FrameNo)
    (serviceTag : ServiceId) : List Byte :=
  be16 ensemble ++ [lead, kind, sender, seq] ++ be16 (BitVec.ofNat 16 length) ++ be24 frameTag ++ be16 serviceTag

/-- The header check value of a received packet of kind `k`. -/
def headerCheck (k : Kind) (p : LinkPacket) : BitVec 16 :=
  crc16 (headerCore p.ensemble p.lead k.code p.sender p.seq p.body.length p.frameTag p.serviceTag)

/-- The form test of R43 on a packet of kind `k`. -/
def headerWellFormed (k : Kind) (p : LinkPacket) : Bool :=
  p.sender.toNat ≤ 7 && 3 ≤ p.lead.toNat && p.lead.toNat ≤ 12 && k.lengthOk p.body.length

/-- The bytes begin with the link sync pair; a first sync byte that the second does not follow is no sync pair (log
36). -/
def hasLinkSync (bs : List Byte) : Bool := bs.take 2 = [0x6E, 0x93]

/-- The body length that the bytes of a link packet give (R189). -/
def linkLength (bs : List Byte) : Nat := beNat (slice bs 8 2)

/-- The 17 bytes of a header stand there and their check is good. -/
def linkHeaderGood (bs : List Byte) : Bool := 17 ≤ bs.length && half bs 15 = crc16 (slice bs 2 13)

/-- The form test of R43 on the bytes of a header. -/
def linkHeaderForm (bs : List Byte) : Bool :=
  (byteAt bs 6).toNat ≤ 7 && 3 ≤ (byteAt bs 4).toNat && (byteAt bs 4).toNat ≤ 12 &&
    (kindOfCode (byteAt bs 5)).any (fun k => k.lengthOk (linkLength bs))

/-- The fields of the packet that begins there, whose header is good (R189). -/
def linkPacketAt (bs : List Byte) : LinkPacket :=
  { ensemble := half bs 2, lead := byteAt bs 4, sender := byteAt bs 6, seq := byteAt bs 7, frameTag := frameAt bs 10,
    serviceTag := half bs 13, body := slice bs 17 (linkLength bs),
    bodyCheck := BitVec.ofNat 32 (beNat (slice bs (17 + linkLength bs) 4)) }

/-- A received packet of kind `k` behind its sync pair (R189). -/
def linkInner (k : Kind) (p : LinkPacket) : List Byte :=
  headerCore p.ensemble p.lead k.code p.sender p.seq p.body.length p.frameTag p.serviceTag ++ be16 (headerCheck k p) ++
    p.body ++ be32 p.bodyCheck

/-- The contents of a good CLAIM body hold together (R47). -/
def claimHolds (b : List Byte) : Bool :=
  (byteAt b 4).toNat ≤ 5 && b.length == 5 + 24 * (byteAt b 4).toNat

/-- An ALERT body carries an update (R191). -/
def alertHasUpdate (b : List Byte) : Bool := (byteAt b 6).getLsbD 1

/-- The contents of a good ALERT body hold together (R47). -/
def alertHolds (b : List Byte) : Bool :=
  let n := (byteAt b 10).toNat
  let m := (byteAt b (17 + n)).toNat
  1 ≤ n && n ≤ 128 &&
    (if alertHasUpdate b then 1 ≤ m && m ≤ 128 && b.length == 18 + n + m else b.length == 11 + n)

/-- The body of a packet of kind `k` holds together (R47). -/
def bodyHolds : Kind → List Byte → Bool
  | .claim, b => claimHolds b
  | .alert, b => alertHolds b
  | _, _ => true

/-- The fields of a PRESENCE body (R190): a field without its presence mark is not read. -/
structure PresenceBody where
  unit     : Option UnitState
  version  : Byte
  heard    : Byte
  stamp    : Option FrameNo
  digest   : Option (FrameNo × BitVec 16)
  alertId  : Option AlertId
  holdover : Bool
  deriving DecidableEq, Repr

/-- The unit state a PRESENCE carries; none outside 1 to 4, a bad presence (R190). -/
def unitOfCode (c : Byte) : Option UnitState :=
  if c = 1 then some .listen else if c = 2 then some .joining else if c = 3 then some .onAir
  else if c = 4 then some .isolated else none

def parsePresence (b : List Byte) : PresenceBody :=
  let marks := byteAt b 3
  { unit := unitOfCode (byteAt b 0), version := byteAt b 1, heard := byteAt b 2,
    stamp := if marks.getLsbD 0 then some (frameAt b 4) else none,
    digest := if marks.getLsbD 1 then some (frameAt b 7, half b 10) else none,
    alertId := if marks.getLsbD 2 then some (alertIdAt b 12) else none, holdover := marks.getLsbD 3 }

/-- An audio rate clamped to 8 to 384 and rounded up to a multiple of 8 (R72). -/
def clampAudio (n : Nat) : Nat := ceilDiv (max 8 (min n 384)) 8 * 8

/-- A side rate clamped to 0 to 64 and rounded up to a multiple of 4 (R72). -/
def clampSide (n : Nat) : Nat := ceilDiv (min n 64) 4 * 4

def clampClass (n : Nat) : Nat := if n = 0 || 4 < n then 1 else n

def clampPriority (n : Nat) : Nat := min n 3

/-- One claim entry of 24 bytes, its values clamped as R72 gives (R190). -/
def parseEntry (b : List Byte) : ClaimEntry :=
  let pr := (byteAt b 2).toNat
  let a := beNat (slice b 3 2)
  let s := (byteAt b 5).toNat
  let p := (byteAt b 6).toNat
  { id := half b 0, priority := clampPriority pr, audioRate := clampAudio a, sideRate := clampSide s,
    protClass := clampClass p, regions := byteAt b 7, label := slice b 8 16,
    clamped := clampPriority pr != pr || clampAudio a != a || clampSide s != s || clampClass p != p }

/-- A CLAIM body whose contents hold together (R190). -/
def parseClaim (b : List Byte) : FramedClaim :=
  { version := byteAt b 0, frame := frameAt b 1,
    entries := (List.range (byteAt b 4).toNat).map (fun i => parseEntry (slice b (5 + 24 * i) 24)) }

def parseContrib (b : List Byte) : Contribution :=
  { audioVoid := (byteAt b 0).getLsbD 0, sideVoid := (byteAt b 0).getLsbD 1, payload := b.drop 1 }

/-- An urgency clamped into 1 to 3 (R152, R164). -/
def clampUrgency (n : Nat) : Nat := if n = 0 then 1 else min n 3

/-- An alert audio rate clamped as R164 gives. -/
def clampAlertRate (n : Nat) : Nat :=
  if n = 0 then 0 else if n < 16 then 16 else if 192 < n then 192 else ceilDiv n 8 * 8

/-- An ALERT body whose contents hold together: the values as received (R191). -/
structure AlertBody where
  id        : AlertId
  base      : AlertValues
  audioRate : Nat
  start     : FrameNo
  update    : Option AlertUpdate
  deriving DecidableEq, Repr

def parseAlert (b : List Byte) : AlertBody :=
  let n := (byteAt b 10).toNat
  let m := (byteAt b (17 + n)).toNat
  { id := alertIdAt b 0,
    base := ⟨(byteAt b 2).toNat, byteAt b 3, (byteAt b 6).getLsbD 0, slice b 11 n⟩,
    audioRate := beNat (slice b 4 2), start := frameAt b 7,
    update := if alertHasUpdate b then
        some ⟨frameAt b (14 + n), (byteAt b (11 + n)).toNat, byteAt b (12 + n), (byteAt b (13 + n)).getLsbD 0,
          slice b (18 + n) m⟩
      else none }

/-! ### The bodies this unit sends (R190, R191) -/

def UnitState.code : UnitState → Nat
  | .listen => 1
  | .joining => 2
  | .onAir => 3
  | .isolated => 4
  | _ => 0

/-- A PRESENCE body as PVW hands it in, without stamp and holdover flag (R75). -/
def presenceBytes (unit : UnitState) (version heard : Byte) (digest : Option (FrameNo × BitVec 16))
    (own : Option AlertId) : List Byte :=
  [byteOf unit.code, version, heard, byteOf (bit digest.isSome 2 + bit own.isSome 4), 0, 0, 0] ++
    be24 ((digest.map (·.1)).getD 0) ++ be16 ((digest.map (·.2)).getD 0) ++
    [(own.map (·.unit)).getD 0, (own.map (·.serial)).getD 0]

/-- The stamp and the holdover flag that LKP writes when it takes a PRESENCE (R54). -/
def stampPresence (stamp : Option FrameNo) (holdover : Bool) (b : List Byte) : List Byte :=
  b.take 3 ++ [byteAt b 3 ||| byteOf (bit stamp.isSome 1 + bit holdover 8)] ++ be24 (stamp.getD 0) ++ b.drop 7

def entryClaimBytes (e : ClaimEntry) : List Byte :=
  be16 e.id ++ [byteOf e.priority] ++ be16 (BitVec.ofNat 16 e.audioRate) ++
    [byteOf e.sideRate, byteOf e.protClass, e.regions] ++ zeroPad 16 e.label

def claimBytes (c : FramedClaim) : List Byte :=
  [c.version] ++ be24 c.frame ++ [byteOf c.entries.length] ++ c.entries.flatMap entryClaimBytes

def contribBytes (c : Contribution) : List Byte :=
  byteOf (bit c.audioVoid 1 + bit c.sideVoid 2) :: c.payload

/-- An ALERT body carrying a record's values, start frame, and update if it holds one (R159, R161). -/
def alertBytes (r : AlertRecord) : List Byte :=
  [r.id.unit, r.id.serial, byteOf r.base.urgency, r.base.mask] ++ be16 (BitVec.ofNat 16 r.audioRate) ++
    [byteOf (bit r.base.test 1 + bit r.update.isSome 2)] ++ be24 r.start ++ [byteOf r.base.text.length] ++
    r.base.text ++
    match r.update with
    | none => []
    | some u => [byteOf u.values.urgency, u.values.mask, byteOf (bit u.values.test 1)] ++ be24 u.frame ++
        [byteOf u.values.text.length] ++ u.values.text

def alertEndBytes (id : AlertId) (e : FrameNo) : List Byte := [id.unit, id.serial] ++ be24 e

/-! ### Feed packets (R193) -/

/-- The kind code of a feed packet. -/
def FeedKind.code : FeedKind → Byte
  | .audio => 0x01
  | .textSet => 0x02
  | .textClear => 0x03
  | .picBegin => 0x04
  | .picData => 0x05
  | .picEnd => 0x06
  | .picDelete => 0x07
  | .alertReq => 0x08
  | .alertClear => 0x09
  | .fill => 0x0F

def feedKindOf (c : Byte) : Option FeedKind :=
  if c = 0x01 then some .audio else if c = 0x02 then some .textSet else if c = 0x03 then some .textClear
  else if c = 0x04 then some .picBegin else if c = 0x05 then some .picData else if c = 0x06 then some .picEnd
  else if c = 0x07 then some .picDelete else if c = 0x08 then some .alertReq else if c = 0x09 then some .alertClear
  else if c = 0x0F then some .fill else none

/-- The body lengths that are well formed for a kind (R193). -/
def FeedKind.lengthOk : FeedKind → Nat → Bool
  | .audio, n => n ≤ 1920
  | .textSet, n => 6 ≤ n && n ≤ 133
  | .textClear, n => n == 1
  | .picBegin, n => n == 8
  | .picData, n => 5 ≤ n && n ≤ 244
  | .picEnd, n => n == 4
  | .picDelete, n => n == 2
  | .alertReq, n => 3 ≤ n && n ≤ 130
  | .alertClear, n => n == 0
  | .fill, n => n ≤ 1920

/-- The body length that the bytes of a feed packet give (R193). -/
def feedLength (bs : List Byte) : Nat := beNat (slice bs 3 2)

/-- The bytes begin with the feed sync pair; a first sync byte that the second does not follow is no sync pair
(log 36). -/
def hasFeedSync (bs : List Byte) : Bool := bs.take 2 = [0xB7, 0x4E]

/-- The packet that begins there has a body length of 1,920 or less, and its check is good; bytes that end before the
check fail it (R102, R103, log 23). -/
def feedGood (bs : List Byte) : Bool :=
  feedLength bs ≤ 1920 && 7 + feedLength bs ≤ bs.length &&
    half bs (5 + feedLength bs) = crc16 (slice bs 2 (3 + feedLength bs))

/-- The bytes of a feed packet that its check covers (R193). -/
def feedCore (code : Byte) (body : List Byte) : List Byte := [code] ++ be16 (BitVec.ofNat 16 body.length) ++ body

/-- A feed packet behind its sync pair (R193). -/
def feedInner (code : Byte) (body : List Byte) : List Byte := feedCore code body ++ be16 (crc16 (feedCore code body))

/-! ### The configuration image (R174, R176, R196) -/

/-- The role that a port's role byte names; k is carried in the low four bits (log 46). -/
def roleOfCode (c : Byte) : Option PortRole :=
  let n := c.toNat
  if n = 0 then some .unused
  else if 0x10 ≤ n && n < 0x20 then some (.main (n - 0x10))
  else if 0x20 ≤ n && n < 0x30 then some (.backup (n - 0x20))
  else if n = 0x30 then some .alert
  else none

def parseService (b : List Byte) (o : Nat) : ServiceDef :=
  { id := half b o, priority := (byteAt b (o + 2)).toNat, audioRate := beNat (slice b (o + 3) 2),
    sideRate := (byteAt b (o + 5)).toNat, protClass := (byteAt b (o + 6)).toNat, regions := byteAt b (o + 7),
    label := slice b (o + 8) 16, cadence := (byteAt b (o + 24)).toNat }

def parseLine (b : List Byte) (o : Nat) : LineSettings :=
  { enabled := (byteAt b o).getLsbD 0, mode := if (byteAt b o).getLsbD 1 then .level else .edge,
    activeHigh := !(byteAt b o).getLsbD 2, urgency := (byteAt b (o + 1)).toNat, mask := byteAt b (o + 2),
    text := slice b (o + 4) (byteAt b (o + 3)).toNat }

/-- The offset of service definition `k` (R196). -/
def serviceOffset (k : Nat) : Nat := 292 + 25 * k

def portRole (b : List Byte) (p : Nat) : PortRole := (roleOfCode (byteAt b (9 + 2 * p))).getD .unused

def portKey (b : List Byte) (p : Nat) : Nat := (byteAt b (10 + 2 * p)).toNat

/-- The contents of an image that has passed its checks. -/
def parseImage (b : List Byte) : Image :=
  { unitId := Fin.ofNat 8 (byteAt b 4).toNat, ensembleId := half b 5, lead := (byteAt b 7).toNat,
    services := (List.range (byteAt b 8).toNat).map (fun k => parseService b (serviceOffset k)),
    roles := #v[portRole b 0, portRole b 1, portRole b 2, portRole b 3, portRole b 4, portRole b 5],
    keys := #v[portKey b 0, portKey b 1, portKey b 2, portKey b 3, portKey b 4, portKey b 5],
    lines := #v[parseLine b 21, parseLine b 153], feedAlert := byteAt b 285 = 1,
    alertAudioRate := (byteAt b 286).toNat, durationLimit := beNat (slice b 287 2), attentionMask := frameAt b 289 }

/-- Field tests of R174, each with the offset of the field's first byte, in ascending offset. -/
abbrev FieldTest := Nat × Bool

def alertRateOk (n : Nat) : Bool := n == 0 || (16 ≤ n && n ≤ 192 && n % 8 == 0)

def lineTests (b : List Byte) (o : Nat) : List FieldTest :=
  [(o, (byteAt b o).toNat < 8), (o + 1, 1 ≤ (byteAt b (o + 1)).toNat && (byteAt b (o + 1)).toNat ≤ 3),
   (o + 3, 1 ≤ (byteAt b (o + 3)).toNat && (byteAt b (o + 3)).toNat ≤ 128)]

def portTests (b : List Byte) (p : Nat) : List FieldTest :=
  [(9 + 2 * p, (roleOfCode (byteAt b (9 + 2 * p))).isSome), (9 + 2 * p, (byteAt b (10 + 2 * p)).toNat ≤ 15)]

def serviceTests (b : List Byte) (o : Nat) : List FieldTest :=
  let d := parseService b o
  [(o, validService d.id), (o + 2, d.priority ≤ 3),
   (o + 3, 8 ≤ d.audioRate && d.audioRate ≤ 384 && d.audioRate % 8 == 0), (o + 5, d.sideRate ≤ 64 && d.sideRate % 4 == 0),
   (o + 6, 1 ≤ d.protClass && d.protClass ≤ 4), (o + 7, d.regions != 0), (o + 24, 1 ≤ d.cadence && d.cadence ≤ 16)]

/-- The RANGE tests (R176 order 3). -/
def rangeTests (b : List Byte) : List FieldTest :=
  ([(4, decide ((byteAt b 4).toNat ≤ 7)), (5, half b 5 != 0),
    (7, 3 ≤ (byteAt b 7).toNat && (byteAt b 7).toNat ≤ 12), (8, decide ((byteAt b 8).toNat ≤ 5))] : List FieldTest) ++
  (List.range 6).flatMap (portTests b) ++ lineTests b 21 ++ lineTests b 153 ++
  ([(285, decide ((byteAt b 285).toNat ≤ 1)), (286, alertRateOk (byteAt b 286).toNat),
    (287, decide (beNat (slice b 287 2) ≤ 3600)), (289, decide ((byteAt b 289).toNat < 128))] : List FieldTest) ++
  (List.range (byteAt b 8).toNat).flatMap (fun k => serviceTests b (serviceOffset k))

/-- The ROLE tests (R176 order 4): service definitions ascending, then ports ascending (log 14). -/
def roleTests (b : List Byte) : List FieldTest :=
  let n := (byteAt b 8).toNat
  let ids := (List.range n).map (fun k => half b (serviceOffset k))
  let roles := (List.range 6).map (portRole b)
  (List.range n).flatMap (fun k =>
    [(serviceOffset k, !(ids.take k).contains (half b (serviceOffset k))), (serviceOffset k, roles.contains (.main k))]) ++
  (List.range 6).map (fun p => (9 + 2 * p, match portRole b p with
    | .unused => true
    | .main k => k < n && !(roles.take p).contains (.main k)
    | .backup k => k < n && !(roles.take p).contains (.backup k)
    | .alert => !(roles.take p).contains .alert))

def firstFault (ts : List FieldTest) : Option Nat := (ts.find? (fun t => !t.2)).map (·.1)

/-- The outcome of the checks of R176: the image, or the fault cause and field. -/
inductive ImageCheck where
  | good (i : Image)
  | bad (cause : FaultCause) (field : Option Nat)
  deriving DecidableEq, Repr

/-- The image length field (R196). -/
def imageLength (b : List Byte) : Nat := beNat (slice b 0 2)

/-- The five checks of R176 in order, with the identity lock as it stands. -/
def checkImage (lock : Option (UnitId × BitVec 16)) (b : List Byte) : ImageCheck :=
  if BitVec.ofNat 32 (beNat (b.drop (b.length - 4))) ≠ crc32 (b.take (b.length - 4)) then .bad .check none
  else if half b 2 ≠ 0x5E4B#16 || imageLength b ≠ 296 + 25 * (byteAt b 8).toNat then .bad .format none
  else match firstFault (rangeTests b) with
    | some f => .bad .range (some f)
    | none => match firstFault (roleTests b) with
      | some f => .bad .role (some f)
      | none =>
        let i := parseImage b
        if lock.any (fun l => l != (i.unitId, i.ensembleId)) then .bad .identity none else .good i

/-- The length field is out of the range of a flash read (R175, R196). -/
def badLength (flash : List Byte) : Bool := imageLength flash < 296 || 4096 < imageLength flash

/-- The bytes read from the flash end the read: the length field is there, and it is out of range or that many bytes
are there (R175). -/
def flashEnds (flash : List Byte) : Bool :=
  2 ≤ flash.length && (badLength flash || imageLength flash ≤ flash.length)

/-- The outcome of a flash read that has ended (R175, R196): the length field, then that many bytes. -/
def checkFlash (lock : Option (UnitId × BitVec 16)) (flash : List Byte) : ImageCheck :=
  if badLength flash then .bad .length none else checkImage lock (flash.take (imageLength flash))

/-- The outcome of an image in a LOAD_CONFIG body (R179): a body of another length than its length field gives, or one
outside 296 to 4,096 bytes, fails with cause LENGTH (R195, R196, log 45). -/
def checkBody (lock : Option (UnitId × BitVec 16)) (b : List Byte) : ImageCheck :=
  if badLength b || imageLength b ≠ b.length then .bad .length none else checkImage lock b

/-! ### Supervision requests (R195) -/

/-- The requests, by code. -/
inductive RequestKind where
  | readStatus
  | readCounters
  | readView
  | readLayout
  | readAlerts
  | readText
  | readPictures
  | clearFlags
  | clearCounters
  | serviceOff
  | serviceOn
  | alertStart
  | alertTest
  | alertStop
  | textFlush
  | pictureFlush
  | rejoin
  | softReset
  | loadConfig
  deriving DecidableEq, Repr

def requestKinds : List RequestKind :=
  [.readStatus, .readCounters, .readView, .readLayout, .readAlerts, .readText, .readPictures, .clearFlags,
   .clearCounters, .serviceOff, .serviceOn, .alertStart, .alertTest, .alertStop, .textFlush, .pictureFlush, .rejoin,
   .softReset, .loadConfig]

/-- The request a code names; codes run from 0x01 in the order of R195. -/
def requestOf (code : Byte) : Option RequestKind :=
  if code = 0 then none else requestKinds[code.toNat - 1]?

/-- The body length that a request's code requires (R180, R195); that of LOAD_CONFIG is tested as the image's (log
45). -/
def RequestKind.lengthOk : RequestKind → Nat → Bool
  | .readLayout, n => n == 3
  | .readText, n => n == 2
  | .readPictures, n => n == 2
  | .clearFlags, n => n == 3
  | .serviceOff, n => n == 2
  | .serviceOn, n => n == 2
  | .alertStart, n => 2 ≤ n
  | .alertTest, n => 1 ≤ n
  | .textFlush, n => n == 2
  | .pictureFlush, n => n == 2
  | .loadConfig, _ => true
  | _, n => n == 0

/-- The states in which a request is taken (R181). -/
def RequestKind.takenIn : RequestKind → UnitState → Bool
  | .serviceOff, u => u = .listen || u = .joining || u = .onAir
  | .serviceOn, u => u = .listen || u = .joining || u = .onAir
  | .alertStart, u => u.running
  | .alertTest, u => u.running
  | .alertStop, u => u.running
  | .textFlush, u => u.running
  | .pictureFlush, u => u.running
  | .rejoin, u => u = .listen || u = .joining || u = .onAir || u = .isolated || u = .clash
  | .softReset, u => u.running
  | .loadConfig, u => u = .halted
  | _, u => u != .loading

/-- The check of a request frame (R188, R195): CRC-16 over tag, code, body length and body. -/
def requestCheckGood (r : RequestFrame) : Bool :=
  r.check = crc16 ([r.tag, r.code] ++ be16 (BitVec.ofNat 16 r.body.length) ++ r.body)

end Sys2Proof.Machine
end

