-- ==== Sys2Proof/Machine/Report.lean ====
section
/-! DEFINITION. The bytes of SUP's answers (R195): frame and check, the data, and the items of the reading requests in
the order of their rules. -/

namespace Sys2Proof.Machine

/-! ### Items -/

/-- An item's value (R195), given the request's code and the item's own: no bytes when the item is absent. -/
abbrev Item := Byte → BitVec 16 → List Byte

def absentItem : Item := fun _ _ => []

/-- A value whose encoding the spec gives. -/
def bytesItem (bs : List Byte) : Item := fun _ _ => bs

/-- A value whose encoding the spec does not give: free bytes (log 12). -/
def openItem {α : Type} (v : α) : Item := fun request code => Config.valueForm request code v

def optionItem {α : Type} (f : α → Item) (v : Option α) : Item := (v.map f).getD absentItem

/-- Counters take 4 bytes (R195). -/
def counterItem (n : Nat) : Item := bytesItem (be32 (BitVec.ofNat 32 n))

/-- Frame numbers take 3 bytes (R195). -/
def frameItem (f : FrameNo) : Item := bytesItem (be24 f)

/-- Flag sets take 3 bytes (R195). -/
def flagsItem (v : BitVec 24) : Item := bytesItem (be24 v)

/-- Service ids and object ids take 2 bytes (chapter 11, opening). -/
def idItem (v : BitVec 16) : Item := bytesItem (be16 v)

/-- An alert id takes 2 bytes, the originating unit id first (chapter 11, opening). -/
def alertIdItem (v : AlertId) : Item := bytesItem [v.unit, v.serial]

/-- A label takes 16 bytes (chapter 11, opening). -/
def labelItem (l : List Byte) : Item := bytesItem (zeroPad 16 l)

/-- A text is carried as a length and then that many bytes (chapter 11, opening); the length takes one byte (log 12). -/
def textItem (t : List Byte) : Item := bytesItem (byteOf t.length :: t)

/-- One item with its code and length. -/
def itemBytes (request : Byte) (code : BitVec 16) (i : Item) : List Byte :=
  be16 code ++ be16 (BitVec.ofNat 16 (i request code).length) ++ i request code

/-- The items from item code `n` on. -/
def itemRunFrom (request : Byte) : Nat → List Item → List Byte
  | _, [] => []
  | n, i :: is => itemBytes request (BitVec.ofNat 16 n) i ++ itemRunFrom request (n + 1) is

/-- A run of items, numbered from 1 (R195). -/
def itemRun (request : Byte) (is : List Item) : List Byte := itemRunFrom request 1 is

/-! ### READ_STATUS (R182) -/

/-- The fault cause's byte (R195). -/
def FaultCause.code : FaultCause → Byte
  | .none => 0
  | .readFailed => 1
  | .length => 2
  | .check => 3
  | .format => 4
  | .range => 5
  | .role => 6
  | .identity => 7

/-- The fault field's bytes: 0xFFFF when none is named (R195). -/
def faultFieldBytes (f : Option Nat) : List Byte := be16 ((f.map (BitVec.ofNat 16)).getD 0xFFFF)

/-- The items in the order of R182: the selection and counts of every service stand before the queue fills. R83 and R182
name the last production frame of each service; that of the alert channel stands behind them and takes an item code of
its own (log 78). -/
def statusItems (d : StatusData) : List Item :=
  [openItem d.unit, optionItem frameItem d.joinFrame, openItem d.ref, optionItem frameItem d.now, openItem d.holdover,
   openItem d.receiver, openItem d.queuedAlert, openItem d.queuedClaim, openItem d.queuedPresence,
   openItem d.queuedContrib, openItem d.seq, openItem d.peerAge, openItem d.echoAge] ++
  d.lastProduction.map (optionItem frameItem) ++ [optionItem frameItem d.alertProduction] ++
  d.ports.flatMap (fun p =>
    [optionItem (fun x => openItem x.1) p.1, optionItem (fun x => openItem x.2) p.1, openItem p.2]) ++
  d.services.flatMap (fun x => [openItem x.1, openItem x.2.1, openItem x.2.2.1, openItem x.2.2.2.1]) ++
  d.services.map (fun x => openItem x.2.2.2.2) ++
  [openItem d.alertQueueFill, openItem d.reading, bytesItem [d.cause.code], bytesItem (faultFieldBytes d.faultField)] ++
  [optionItem (fun l => openItem l.1) d.lock, optionItem (fun l => openItem l.2) d.lock,
   optionItem (fun h => openItem h.1) d.held, optionItem (fun h => openItem h.2.1) d.held,
   optionItem (fun h => openItem h.2.2.1) d.held, optionItem (fun h => openItem h.2.2.2) d.held] ++
  [flagsItem d.flags, openItem d.attention]

/-! ### READ_COUNTERS (R186) -/

def FtuCounters.list (c : FtuCounters) : List Nat :=
  [c.stray, c.badMessages, c.disagreeing, c.holdovers, c.jumps]

def OfrCounters.list (c : OfrCounters) : List Nat := [c.valid, c.idle, c.cut]

def PleCounters.list (c : PleCounters) : List Nat := [c.computed, c.changes, c.duplicates, c.invalid]

/-- LKP's counters in the order of R57; packets refused by state and removed by state are two (R40, R56, log 47). -/
def LkpCounters.list (c : LkpCounters) : List Nat :=
  [c.huntDiscards, c.syncLosses, c.headerFailures, c.foreign, c.echoes, c.clashes, c.sentAlert, c.sentClaim,
   c.sentPresence, c.sentContribution, c.contribRefused, c.contribDisplaced, c.contribExpired, c.controlRefused,
   c.refusedByState, c.removedByState]

/-- A sender record's counters but the late contributions, which R186 lists apart. -/
def SenderRecord.list (r : SenderRecord) : List Nat := [r.packets, r.headerErrors, r.bodyErrors, r.gaps]

def PvwCounters.list (c : PvwCounters) : List Nat :=
  [c.badPresences, c.absentClaims, c.ignoredByState, c.claimsIssued, c.rejoinClaims, c.toJoining, c.toOnAir,
   c.toIsolated, c.toClash, c.toOffAir]

def SlotCounters.list (c : SlotCounters) : List Nat :=
  [c.accepted, c.refreshes, c.stale, c.missed, c.divergences, c.withdrawals, c.silences]

def ProductionCounters.list (c : ProductionCounters) : List Nat := [c.produced, c.underruns]

def AsmCounters.list (c : AsmCounters) : List Nat :=
  [c.ignoredByState, c.late, c.early, c.stray, c.size, c.voidFiled, c.duplicate, c.sealed, c.empty, c.impaired]

def KindCounts.list (c : KindCounts) : List Nat :=
  [c.audio, c.textSet, c.textClear, c.picBegin, c.picData, c.picEnd, c.picDelete, c.alertReq, c.alertClear]

def PortCounters.list (c : PortCounters) : List Nat :=
  [c.huntDiscards, c.failed, c.syncLosses, c.losts, c.malformed] ++ c.taken.list ++ [c.taken.fill] ++
    c.standby.list ++ [c.standby.fill] ++ c.misplaced.list ++ [c.fills]

def IntakeCounters.list (c : IntakeCounters) : List Nat := [c.accepted, c.lengthRefusals, c.overruns, c.switches]

def AlertFeedCounters.list (c : AlertFeedCounters) : List Nat := [c.accepted, c.lengthRefusals, c.overruns, c.aged]

def TextCounters.list (c : TextCounters) : List Nat :=
  [c.badSlots, c.keyRefusals, c.emptyClears, c.substituted, c.clamped, c.fills, c.replacements, c.clears, c.flushes,
   c.expiries, c.cells, c.completions, c.abandonments, c.restarts]

def PicCounters.list (c : PicCounters) : List Nat :=
  [c.badSizes, c.keyRefusals, c.replacements, c.noRoom, c.begins, c.strayData, c.foreignData, c.gaps, c.overlengths,
   c.strayEnds, c.foreignEnds, c.completed, c.badEnds, c.loadTimeouts, c.lostLoads, c.unknownDelete, c.deletes,
   c.flushes, c.cells, c.completions, c.retirements, c.expiries, c.cuts, c.pauses]

def SourceCounters.list (c : SourceCounters) : List Nat := [c.clamps, c.lineEvents, c.disabledRequests]

/-- ALC's counters after those of its sources, in the order of R172's table. -/
def AlcCounters.list (c : AlcCounters) : List Nat :=
  [c.clears, c.feedLosses, c.originations, c.deferrals, c.escalations, c.endsByStop, c.endsByDuration, c.endsBySources,
   c.endsByEviction, c.endsByState, c.repeatsSent, c.refusedHandIns, c.accepted, c.refreshes, c.updatesStored,
   c.lateAlerts, c.lateUpdates, c.refusedFull, c.evictions, c.foreignAlerts, c.unknownEnds, c.endRefreshes,
   c.endsClamped, c.ended, c.ignoredByState, c.announcedNotHeld]

/-- The lifetime counters in the order of R186, the images refused followed by each of the seven causes (log 71). -/
def LifetimeCounters.list (c : LifetimeCounters) : List Nat :=
  [c.lineResets, c.softResets, c.rejoins, c.jumps, c.imagesAccepted, c.imagesRefused, c.refusedReadFailed,
   c.refusedLength, c.refusedCheck, c.refusedFormat, c.refusedRange, c.refusedRole, c.refusedIdentity,
   c.identityRefusals, c.clashes, c.expiries]

def SubstitutionRow.list (r : SubstitutionRow) : List Nat := [r.repeats, r.mutes, r.fills]

/-- The counters in the order of the chapters (R186): PVW's per-slot ones before its unit-wide ones (R80). A counter's
owner and key are told by its place; only a substitution row and a filing carry their key as an item (log 12). -/
def countersItems (d : CountersData) : List Item :=
  (d.ftu.list ++ d.ofr.list ++ d.ple.list ++ d.lkp.list ++ d.senders.flatMap (·.list) ++
    d.slots.flatMap (·.list) ++ d.pvw.list ++ d.cpr.flatMap (·.list) ++ d.cprAlert.list ++ d.asm.list).map counterItem ++
  d.filings.flatMap (fun x => [frameItem x.1, idItem x.2.1, openItem x.2.2]) ++
  (d.ports.flatMap (·.list) ++ d.intake.flatMap (·.list) ++ d.alertFeed.list ++ d.text.flatMap (·.list) ++
    [d.alertCells.1, d.alertCells.2] ++ d.pictures.flatMap (·.list) ++ [d.lowestFree] ++
    d.sources.flatMap (·.list) ++ d.alc.list ++ d.senders.map (·.late)).map counterItem ++
  d.rows.flatMap (fun r => idItem r.service :: r.list.map counterItem) ++
  (d.otherRow.list ++ [d.lost] ++ d.lifetime.list).map counterItem

/-! ### READ_VIEW (R80) -/

def claimEntryItems (e : ClaimEntry) : List Item :=
  [idItem e.id, openItem e.priority, openItem e.audioRate, openItem e.sideRate, openItem e.protClass, openItem e.regions,
   labelItem e.label, openItem e.clamped]

def framedClaimItems (c : Option FramedClaim) : List Item :=
  [optionItem (fun x => openItem x.version) c, optionItem (fun x => frameItem x.frame) c] ++
    ((c.map (·.entries)).getD []).flatMap claimEntryItems

def forceClaimItems (c : Option ForceClaim) : List Item :=
  [optionItem (fun x => openItem x.version) c] ++ ((c.map (·.entries)).getD []).flatMap claimEntryItems

/-- A slot's fields in the order of R67, then the sender record that is reported beside it. The version, heard set and
holdover flag of the own slot and of an ABSENT one are present items (log 62). -/
def slotItems (x : PeerSlot × SenderRecord) : List Item :=
  [openItem x.1.state, optionItem frameItem x.1.stamp, optionItem openItem x.1.reported, openItem x.1.announced,
   openItem x.1.heardSet, optionItem (fun d => frameItem d.1) x.1.digest, optionItem (fun d => openItem d.2) x.1.digest,
   optionItem alertIdItem x.1.alertId, openItem x.1.holdover] ++
  forceClaimItems x.1.inForce ++ framedClaimItems x.1.waiting ++
  [optionItem frameItem x.1.removal, openItem x.1.diverged] ++ x.1.counters.list.map counterItem ++
  [optionItem openItem x.2.last] ++ (x.2.list ++ [x.2.late]).map counterItem

def viewItems (d : ViewData) : List Item :=
  [openItem d.unit, optionItem frameItem d.joinFrame] ++ framedClaimItems d.ownClaim ++ d.switches.map openItem ++
    (d.slots.zip d.senders).flatMap slotItems ++
    d.digests.flatMap (fun x => [frameItem x.1, openItem x.2])

/-! ### READ_LAYOUT (R28, R182) -/

def entryRecordItems (e : LayoutEntry) : List Item :=
  [openItem e.owner, idItem e.id, labelItem e.label, openItem e.audioRate, openItem e.claimedSide,
   openItem e.claimedClass, openItem e.regions, openItem e.side, openItem e.cls, openItem e.start, openItem e.count,
   openItem e.placement, openItem e.follow, openItem e.clamped]

def layoutItems (frame : FrameNo) (l : Layout) : List Item :=
  [frameItem frame] ++
  [optionItem (fun a => alertIdItem a.id) l.summary, optionItem (fun a => openItem a.urgency) l.summary,
   optionItem (fun a => openItem a.mask) l.summary, optionItem (fun a => openItem a.test) l.summary,
   optionItem (fun a => openItem a.audioRate) l.summary] ++
  l.entries.flatMap entryRecordItems ++ [openItem l.placed, openItem l.endBlock, openItem l.digest]

/-! ### READ_ALERTS (R172) -/

/-- A row of the source table: its three marks, then its values. -/
def sourceItems (x : Option Bool × Option SourceValues × Source) : List Item :=
  [optionItem openItem x.1, openItem x.2.2.raised, openItem x.2.2.carried, optionItem (fun v => openItem v.urgency) x.2.1,
   optionItem (fun v => openItem v.mask) x.2.1, optionItem (fun v => textItem v.text) x.2.1]

/-- A line's mode, polarity and present level. -/
def lineItems (x : Option (LineMode × Bool × Bool)) : List Item :=
  [optionItem (fun l => openItem l.1) x, optionItem (fun l => openItem l.2.1) x, optionItem (fun l => openItem l.2.2) x]

def alertValueItems (v : Option AlertValues) : List Item :=
  [optionItem (fun x => openItem x.urgency) v, optionItem (fun x => openItem x.mask) v,
   optionItem (fun x => openItem x.test) v, optionItem (fun x => textItem x.text) v]

/-- A record's fields in the order of R163's table. -/
def alertRecordItems (r : AlertRecord) : List Item :=
  [alertIdItem r.id] ++ alertValueItems (some r.base) ++ [openItem r.audioRate, frameItem r.start] ++
  [optionItem (fun u => frameItem u.frame) r.update] ++ alertValueItems (r.update.map (·.values)) ++
  [optionItem (fun e => frameItem e.frame) r.stop, optionItem (fun e => openItem e.byRemoval) r.stop,
   optionItem frameItem r.receivedEnd, openItem r.clamped, openItem r.state]

/-- The items in the order of R172; the records of the table in the order of their entry (log 52). -/
def alertsItems (d : AlertsData) : List Item :=
  d.sources.flatMap sourceItems ++ d.lines.flatMap lineItems ++
  [openItem d.localAlert.state, optionItem alertIdItem d.localAlert.id, optionItem frameItem d.localAlert.start,
   optionItem frameItem d.localAlert.stop, openItem d.stopMark, openItem d.repeatCount] ++
  d.removals.map (optionItem frameItem) ++ d.table.flatMap alertRecordItems ++
  [optionItem alertIdItem d.governing, counterItem d.announcedNotHeld]

/-! ### READ_TEXT (R130) and READ_PICTURES (R150) -/

/-- The record that a message slot holds: none while it is EMPTY (R119). -/
def TextSlot.held (x : TextSlot) : Option TextSlot := if x.state = .empty then none else some x

/-- A slot's items in the order of R130; what an EMPTY slot does not hold is absent (R119, R195). -/
def textSlotItems (x : TextSlot) : List Item :=
  let item (f : TextSlot → Item) : Item := optionItem f x.held
  [openItem x.state, item (fun y => openItem y.weight), item (fun y => openItem y.hold),
   item (fun y => openItem y.lifetime), item (fun y => openItem y.remaining), openItem x.toggle,
   item (fun y => openItem y.key), openItem x.inList, item (fun y => textItem y.text)]

def textItems (c : Carousel) : List Item :=
  c.slots.toList.flatMap textSlotItems ++ c.cycle.map openItem ++
  [optionItem openItem c.position, optionItem (fun t => openItem t.slot) c.current,
   optionItem (fun t => openItem t.next) c.current, openItem c.holdCount, openItem c.held, openItem c.suspended,
   openItem c.gap] ++
  c.counters.list.map counterItem

def alertTextItems (c : AlertCarousel) : List Item :=
  [optionItem (fun m => textItem m.text) c.message, optionItem (fun m => alertIdItem m.id) c.message, openItem c.toggle,
   openItem c.pointer] ++ [c.cells, c.replacements].map counterItem

def picRecordItems (r : PicRecord) : List Item :=
  [idItem r.id, openItem r.state, openItem r.key, openItem r.port, openItem r.size, openItem r.received,
   openItem r.order, openItem r.repeats, openItem r.done, openItem r.lifetime, openItem r.remaining, openItem r.idle,
   openItem r.pointer, openItem r.expiring, openItem r.pages]

def picturesItems (d : PicturesData) : List Item :=
  [optionItem idItem d.carousel.current, optionItem (fun x => openItem x.1) d.carousel.last,
   optionItem (fun x => idItem x.2) d.carousel.last, openItem d.carousel.paused] ++
  d.records.flatMap picRecordItems ++ [openItem d.freePages, openItem d.freeRecords] ++
  d.carousel.counters.list.map counterItem

/-! ### The answer (R195) -/

/-- The items that an answer's data are; none for an answer that is no run of items. -/
def itemsOf : AnswerData → List Item
  | .status d => statusItems d
  | .counters d => countersItems d
  | .view d => viewItems d
  | .layout frame d => layoutItems frame d
  | .alerts d => alertsItems d
  | .text d => textItems d
  | .alertText d => alertTextItems d
  | .pictures d => picturesItems d
  | .none => []
  | .flags _ => []
  | .fault _ _ => []

/-- An answer's data in bytes. -/
def dataBytes (code : Byte) (d : AnswerData) : List Byte :=
  match d with
  | .none => []
  | .flags v => be24 v
  | .fault cause field => cause.code :: faultFieldBytes field
  | _ => itemRun code (itemsOf d)

def AnswerKind.code : AnswerKind → Byte
  | .done => 0
  | .refusedState => 1
  | .refusedArg => 2
  | .unknown => 3
  | .badCheck => 4

/-- An answer from the tag to the end of the data, which its check covers (R188, R195). -/
def answerCore (tag code : Byte) (k : AnswerKind) (d : AnswerData) : List Byte :=
  [tag, code, k.code] ++ be16 (BitVec.ofNat 16 (dataBytes code d).length) ++ dataBytes code d

/-- An answer on the supervision port: sync pair, header, data and CRC-16 (R195). -/
def answerBytes (tag code : Byte) (k : AnswerKind) (d : AnswerData) : List Byte :=
  [0x3C, 0xA5] ++ answerCore tag code k d ++ be16 (crc16 (answerCore tag code k d))

end Sys2Proof.Machine
end

