-- ==== Sys2Proof/Machine/Transmit.lean ====
section
/-! DEFINITION. LKP's transmit side (R51 to R56) and the cut of a frame in progress (R12). -/

namespace Sys2Proof.Machine

def Kind.cls : Kind → TxClass
  | .presence => .presence
  | .claim => .claim
  | .contrib => .contribution
  | .alert => .alert
  | .alertEnd => .alert

/-- The states in which the transmit queue takes packets (R40). -/
def queueOpen (u : UnitState) : Bool := u.viewing

/-- The first entry satisfying `p` taken out. -/
def dropFirst {α : Type} (p : α → Bool) : List α → List α
  | [] => []
  | x :: xs => if p x then xs else x :: dropFirst p xs

/-- The last entry satisfying `p` taken out. -/
def dropLast {α : Type} (p : α → Bool) (l : List α) : List α := (dropFirst p l.reverse).reverse

def isContrib (p : TxPacket) : Bool := p.kind = .contrib

/-- The queue without an earlier PRESENCE when another is handed in (R52). -/
def supersede (q : List TxPacket) (p : TxPacket) : List TxPacket :=
  if p.kind = .presence then q.filter (fun x => x.kind != .presence) else q

/-- Packets removed from the queue by a change of state (R56). -/
def removeByState (p : TxPacket → Bool) (s : State) : State :=
  { s with lkp.queue := s.lkp.queue.filter (fun x => !p x),
           lkp.counters.removedByState :=
             bumpBy s.lkp.counters.removedByState (s.lkp.queue.filter p).length }

/-- Every CLAIM and CONTRIB, which an entry to LISTEN removes (R56). -/
def claimOrContrib (p : TxPacket) : Bool := p.kind = .claim || p.kind = .contrib

/-- The CONTRIB with the oldest frame; the earliest arrival among equals (R53). -/
def oldestContrib (q : List TxPacket) : Option TxPacket :=
  (q.filter isContrib).foldl (fun acc p => match acc with
    | none => some p
    | some a => if later a.frameTag p.frameTag then some p else some a) none

/-- The packet the arbiter picks (R40, R53). -/
def pickNext (u : UnitState) (q : List TxPacket) : Option TxPacket :=
  let first := fun (c : TxClass) => q.find? (fun p => p.kind.cls = c)
  if u = .listen then first .presence
  else if u.computing then
    ((first .alert).or (first .claim)).or ((first .presence).or (oldestContrib q))
  else none

def countSent (k : Kind) (c : LkpCounters) : LkpCounters :=
  match k.cls with
  | .alert => { c with sentAlert := bump c.sentAlert }
  | .claim => { c with sentClaim := bump c.sentClaim }
  | .presence => { c with sentPresence := bump c.sentPresence }
  | .contribution => { c with sentContribution := bump c.sentContribution }

/-- The body as it leaves: a PRESENCE with its stamp and holdover flag (R54 step 3). -/
def sentBody (s : State) (p : TxPacket) : List Byte :=
  if p.kind = .presence then stampPresence s.ftu.now (s.ftu.ref = .holdover) p.body else p.body

/-- The header bytes 2 to 14 of a packet as it leaves (R54 steps 1, 2). -/
def sentHeader (s : State) (p : TxPacket) : List Byte :=
  headerCore (ensembleOf s) (byteOf (leadOf s)) p.kind.code (byteOf (selfOf s).val) s.lkp.seq (sentBody s p).length
    p.frameTag p.serviceTag

/-- The transmitter takes `p` from the queue (R54). -/
def takePacket (p : TxPacket) (s : State) : State :=
  let body := sentBody s p
  let core := sentHeader s p
  let check := crc16 core
  let list := s.lkp.echoes ++ [(s.lkp.seq, check)]
  { s with lkp.queue := dropFirst (fun x => x = p) s.lkp.queue,
           lkp.transmitting := some ⟨p.kind, s.lkp.seq, check, [0x6E, 0x93] ++ core ++ be16 check ++ body ++ be32 (crc32 body)⟩,
           lkp.seq := s.lkp.seq + 1,
           lkp.echoes := list.drop (list.length - Config.queueSize),
           lkp.counters := countSent p.kind s.lkp.counters }

/-- The transmitter is free: the arbiter picks the next packet, if there is one it may serve (R53). -/
def arbitrate (s : State) : State :=
  match pickNext s.pvw.unit s.lkp.queue with
  | some p => takePacket p s
  | none => s

/-- A transmitter that is free takes a packet it may serve as soon as the queue holds one (R53). -/
def serve (s : State) : State := if s.lkp.transmitting.isNone then arbitrate s else s

/-- What the transmit queue makes of a packet handed in (R40, R51, R52): the state after it, and whether it was taken. -/
def enqueue (p : TxPacket) (s : State) : State × Bool :=
  let q := supersede s.lkp.queue p
  if !queueOpen s.pvw.unit then
    ({ s with lkp.counters.refusedByState := bump s.lkp.counters.refusedByState }, false)
  else if q.length < Config.queueSize then ({ s with lkp.queue := q ++ [p] }, true)
  else if isContrib p then
    (raiseFlag .txOverflow { s with lkp.counters.contribRefused := bump s.lkp.counters.contribRefused }, false)
  else if q.any isContrib then
    (raiseFlag .txOverflow { s with lkp.queue := dropLast isContrib q ++ [p],
                                    lkp.counters.contribDisplaced := bump s.lkp.counters.contribDisplaced }, true)
  else
    (raiseFlag .txOverflow { s with lkp.queue := q,
                                    lkp.counters.controlRefused := bump s.lkp.counters.controlRefused }, false)

/-- A packet handed to LKP, and whether it was taken: the hand-in comes before the take (R51, R53, log 10). -/
def handIn (p : TxPacket) (s : State) : State × Bool := (serve (enqueue p s).1, (enqueue p s).2)

/-- Contributions expire in the queue at the boundary where `now` begins (R55). -/
def expireContributions (now : FrameNo) (s : State) : State :=
  let gone := fun (p : TxPacket) => isContrib p && !later p.frameTag (plus now 1)
  let n := (s.lkp.queue.filter gone).length
  if n = 0 then s
  else raiseFlag .txExpired { s with lkp.queue := s.lkp.queue.filter (fun p => !gone p),
                                     lkp.counters.contribExpired := bumpBy s.lkp.counters.contribExpired n }

/-- A valid frame is being streamed and has not been cut. -/
def streamingValid (s : State) : Bool := s.ofr.frame.any (fun f => f.valid && f.sentAtCut.isNone)

/-- The unit leaves ON_AIR and ISOLATED while a valid frame is being streamed: the line goes LOW at once and the frame
is cut; how many of its bytes were sent is a free value (R12, log 6), all of them included (log 74). -/
def cutFrame (s : State) : State :=
  match s.ofr.frame with
  | some f =>
    if f.valid && f.sentAtCut.isNone then
      { s with ofr.outputValid := false,
               ofr.frame := some { f with sentAtCut := some (min f.bytes.length (Config.freeSent s.freeIx)) },
               ofr.counters.cut := bump s.ofr.counters.cut, freeIx := s.freeIx + 1 }
    else s
  | none => s

end Sys2Proof.Machine
end

