-- ==== Sys2Proof/Machine/Alert.lean ====
section
/-! DEFINITION. ALC (chapter 9): the sources, the local alert, the alert table and the governing alert. -/

namespace Sys2Proof.Machine

/-! ### Sources (R152, R153) -/

def lineSource : LineIx → SourceId
  | 0 => .al0
  | 1 => .al1

def lineIxs : List LineIx := [0, 1]

/-- A source is enabled: AL0, AL1 and FEED by the image, SUPV and TEST always (R152). -/
def sourceEnabled (s : State) : SourceId → Bool
  | .al0 => (lineSettings s 0).any (·.enabled)
  | .al1 => (lineSettings s 1).any (·.enabled)
  | .feed => s.cfl.image.any (·.feedAlert)
  | .supv => true
  | .test => true

def lineValues (s : State) (l : LineIx) : Option SourceValues :=
  (lineSettings s l).map (fun c => ⟨c.urgency, c.mask, c.text⟩)

/-- The urgency, mask and text of a source (R152). -/
def sourceValues (s : State) : SourceId → Option SourceValues
  | .al0 => lineValues s 0
  | .al1 => lineValues s 1
  | .feed => s.alc.sources.feed.values
  | .supv => s.alc.sources.supv.values
  | .test => s.alc.sources.test.values

/-- The present level of an alert line, read with its polarity (R153). -/
def lineActive (s : State) (l : LineIx) : Bool :=
  (lineSettings s l).any (fun c => s.lines[l] == c.activeHigh)

def lineIsLevel (s : State) (l : LineIx) : Bool := (lineSettings s l).any (fun c => c.mode = .level)

/-- The pending mark of a source is set or cleared. -/
def setRaised (i : SourceId) (b : Bool) : State → State := modifySource i (fun x => { x with raised := b })

/-- A change of a LEVEL line's mark, or an active edge, raises the line's event count (R153). -/
def lineEvent (l : LineIx) : State → State :=
  modifySource (lineSource l) (fun x => { x with counters.lineEvents := bump x.counters.lineEvents })

/-- A LEVEL line's mark set from the line's present level (R153, R155). -/
def sampleLevel (l : LineIx) (s : State) : State :=
  let on := sourceEnabled s (lineSource l) && lineActive s l
  if (s.alc.sources.get (lineSource l)).raised = on then s else lineEvent l (setRaised (lineSource l) on s)

/-- The lines first read after a good image, and re-sampled at a reset: LEVEL marks from the line, EDGE marks clear
(R153). -/
def sampleLine (l : LineIx) (s : State) : State :=
  if lineIsLevel s l then sampleLevel l s else setRaised (lineSource l) false s

def sampleLines (s : State) : State := sampleLine 1 (sampleLine 0 s)

/-- A line in EDGE mode loses its mark; one in LEVEL mode is re-sampled (R155). -/
def stopLine (l : LineIx) (s : State) : State :=
  if lineIsLevel s l then sampleLevel l s else setRaised (lineSource l) false s

/-- The marks that ALERT_STOP and a duration end clear (R155, R160). -/
def clearSources (s : State) : State :=
  stopLine 1 (stopLine 0 (setRaised .feed false (setRaised .test false (setRaised .supv false s))))

/-- The line's level changes (R153); lines are followed in every state but LOADING and HALTED. An active edge that finds
the mark set still counts as an event (log 39). -/
def changeLine (l : LineIx) (high : Bool) (s : State) : State :=
  let t := { s with lines := s.lines.set l high }
  if !s.pvw.unit.running || !sourceEnabled s (lineSource l) then t
  else if lineIsLevel t l then sampleLevel l t
  else if lineActive t l && !lineActive s l then lineEvent l (setRaised (lineSource l) true t)
  else t

/-- A source takes values, its urgency clamped into 1 to 3 and each clamp counted, and becomes pending (R152). -/
def askSource (i : SourceId) (urgency : Nat) (mask : Byte) (text : List Byte) : State → State :=
  modifySource i (fun x =>
    { x with values := some ⟨clampUrgency urgency, mask, text⟩, raised := true,
             counters.clamps := bumpBy x.counters.clamps (bit (clampUrgency urgency != urgency) 1) })

/-- The pending sources, in the order that breaks ties, with their values. -/
def pendingSources (s : State) : List (SourceId × SourceValues) :=
  sourceIds.filterMap (fun i =>
    if (s.alc.sources.get i).raised && sourceEnabled s i then (sourceValues s i).map (fun v => (i, v)) else none)

/-- The winner: highest urgency, ties to the first (R157). -/
def winner (l : List (SourceId × SourceValues)) : Option (SourceId × SourceValues) :=
  l.foldl (fun acc x => match acc with
    | none => some x
    | some a => if x.2.urgency < a.2.urgency then some x else some a) none

/-! ### Records (R163) -/

/-- The values in force at frame `n` (R163). -/
def valuesAt (r : AlertRecord) (n : FrameNo) : AlertValues :=
  match r.update with
  | some u => if later u.frame n then r.base else u.values
  | none => r.base

/-- The values in force now; the base values while now is absent. -/
def valuesNow (r : AlertRecord) : Option FrameNo → AlertValues
  | some n => valuesAt r n
  | none => r.base

def idBefore (a b : AlertId) : Bool :=
  a.unit.toNat < b.unit.toNat || (a.unit = b.unit && a.serial.toNat < b.serial.toNat)

/-- Record `a` is worse than `b` at now: lower urgency, then later start, then higher id (R165). -/
def worseThan (now : Option FrameNo) (a b : AlertRecord) : Bool :=
  let ua := (valuesNow a now).urgency
  let ub := (valuesNow b now).urgency
  ub < ua || (ua == ub && (later a.start b.start || (a.start = b.start && idBefore b.id a.id)))

/-- The worst record of the table (R165). -/
def worstRecord (now : Option FrameNo) (t : List AlertRecord) : Option AlertRecord :=
  t.foldl (fun acc r => match acc with
    | none => some r
    | some a => if worseThan now r a then some r else some a) none

/-- A new record ranks above the worst record (R165). -/
def ranksAbove (now : Option FrameNo) (r w : AlertRecord) : Bool :=
  let uw := (valuesNow w now).urgency
  r.base.urgency < uw || (r.base.urgency == uw && (later w.start r.start || (r.start = w.start && idBefore r.id w.id)))

/-! ### The governing alert (R170) -/

/-- Record `a` governs before record `b` at frame `n`. -/
def governsBefore (n : FrameNo) (a b : AlertRecord) : Bool :=
  let va := valuesAt a n
  let vb := valuesAt b n
  if va.test != vb.test then !va.test
  else if va.urgency != vb.urgency then va.urgency < vb.urgency
  else if a.start != b.start then later b.start a.start
  else idBefore a.id b.id

/-- A candidate at frame `n`: its start is not later, and it holds no end frame not later. -/
def governCandidate (n : FrameNo) (r : AlertRecord) : Bool :=
  !later r.start n && r.stop.all (fun e => later e.frame n)

def governingRecord (t : List AlertRecord) (n : FrameNo) : Option AlertRecord :=
  (t.filter (governCandidate n)).foldl (fun acc r => match acc with
    | none => some r
    | some a => if governsBefore n r a then some r else some a) none

/-- The governing alert as ALC supplies it for frame `n` (R170). -/
def governing (t : List AlertRecord) (n : FrameNo) : Option AlertSummary :=
  (governingRecord t n).map (fun r =>
    { id := r.id, urgency := (valuesAt r n).urgency, mask := (valuesAt r n).mask, test := (valuesAt r n).test,
      audioRate := r.audioRate })

/-! ### The local alert (R156 to R162) -/

/-- The alert id PVW puts into a PRESENCE (R161). -/
def ownAlertId (s : State) : Option AlertId := if s.alc.localAlert.state = .idle then none else s.alc.localAlert.id

def isLive (st : LocalState) : Bool := st = .announced || st = .on

/-- ALC hands LKP a packet; a refusal is counted (R161). -/
def handAlert (k : Kind) (body : List Byte) (s : State) : State :=
  let r := handIn ⟨k, 0, 0, body⟩ s
  if r.2 then r.1
  else { r.1 with alc.counters.refusedHandIns := bump r.1.alc.counters.refusedHandIns }

/-- A packet of an origination, escalation or end: the repeat count restarts from it (R161). -/
def handFirst (k : Kind) (body : List Byte) (s : State) : State :=
  handAlert k body { s with alc.repeatCount := 0, progress.alertSent := true }

/-- The own record in the alert table, if it is held. -/
def ownRecord (s : State) : Option AlertRecord :=
  s.alc.localAlert.id.bind (fun i => s.alc.table.find? (fun r => r.id = i))

def modifyRecord (i : AlertId) (f : AlertRecord → AlertRecord) (s : State) : State :=
  { s with alc.table := modifyFirst (fun r => r.id = i) f s.alc.table }

/-- An end frame set on a record: an ACTIVE record becomes ENDING (R163). -/
def withStop (e : EndFrame) (r : AlertRecord) : AlertRecord :=
  { r with stop := some e, state := if r.state = .active then .ending else r.state }

/-- The own alert is ended at E = now + L + 2 (R160). -/
def endOwn (now : FrameNo) (s : State) : State :=
  match s.alc.localAlert.id with
  | none => s
  | some i =>
    let e := plus now (leadOf s + 2)
    handFirst .alertEnd (alertEndBytes i e)
      (modifyRecord i (withStop ⟨e, false⟩)
        { s with alc.localAlert.state := .ending, alc.localAlert.stop := some e })

/-- The local alert and its marks cleared, as an end frame reached or a change of state does (R158, R162). -/
def clearLocal (s : State) : State :=
  { s with alc.localAlert := .idle, alc.stopMark := false,
           alc.sources :=
             { al0 := { s.alc.sources.al0 with carried := false }, al1 := { s.alc.sources.al1 with carried := false },
               feed := { s.alc.sources.feed with carried := false }, supv := { s.alc.sources.supv with carried := false },
               test := { s.alc.sources.test with carried := false } } }

/-- The local alert dropped by a change of unit state (R162): an end by state, also of one already ENDING (log 54). -/
def dropLocal (s : State) : State :=
  clearLocal { s with alc.counters.endsByState :=
                        bumpBy s.alc.counters.endsByState (bit (s.alc.localAlert.state != .idle) 1) }

/-- The alert table and removal list emptied (R173). -/
def emptyAlerts (s : State) : State :=
  { s with alc.table := [], alc.removals := Vector.replicate 8 none, alc.repeatCount := 0 }

/-! ### The room rule (R165) -/

/-- The worst record is evicted; an own alert so evicted is ended. -/
def evict (w : AlertRecord) (s : State) : State :=
  let t := raiseFlag .alertTableFull
    { s with alc.table := s.alc.table.filter (fun r => r.id != w.id),
             alc.counters.evictions := bump s.alc.counters.evictions }
  if s.alc.localAlert.id = some w.id && isLive s.alc.localAlert.state then
    match s.ftu.now with
    | some now => endOwn now { t with alc.counters.endsByEviction := bump t.alc.counters.endsByEviction }
    | none => t
  else t

/-- A new record offered to the table: none when there is no room for it. It stands behind those held, so the table is in
the order of entry, in which READ_ALERTS lists it (log 52). -/
def enterRecord (r : AlertRecord) (s : State) : Option State :=
  if s.alc.table.length < 4 then some { s with alc.table := s.alc.table ++ [r] }
  else match worstRecord s.ftu.now s.alc.table with
    | none => none
    | some w =>
      if ranksAbove s.ftu.now r w then
        let t := evict w s
        some { t with alc.table := t.alc.table ++ [r] }
      else none

/-! ### Steps of the local alert at a numbered boundary (R156) -/

/-- The alert audio rate of an origination (R157). -/
def originationRate (s : State) : Nat :=
  match alertPort s with
  | some p => if s.sin.ports[p].state = .locked then (s.cfl.image.map (·.alertAudioRate)).getD 0 else 0
  | none => 0

/-- The record that an origination offers (R157). -/
def originRecord (now : FrameNo) (w : SourceId × SourceValues) (s : State) : AlertRecord :=
  { id := ⟨byteOf (selfOf s).val, s.alc.serial⟩,
    base := ⟨w.2.urgency, allIfZero w.2.mask, w.1 = .test, w.2.text⟩, audioRate := originationRate s,
    start := plus now (leadOf s + 2), update := none, stop := none, receivedEnd := none, clamped := false,
    state := .waiting }

/-- The origination test (R157). -/
def originate (now : FrameNo) (s : State) : State :=
  if s.alc.localAlert.state = .idle && s.pvw.unit = .onAir then
    match winner (pendingSources s) with
    | none => s
    | some w =>
      let r := originRecord now w s
      match enterRecord r s with
      | none => { s with alc.counters.deferrals := bump s.alc.counters.deferrals }
      | some t =>
        handFirst .alert (alertBytes r)
          (modifySource w.1 (fun x => { x with carried := true })
            { t with alc.serial := t.alc.serial + 1,
                     alc.localAlert := ⟨.announced, some r.id, some r.start, none⟩,
                     alc.counters.originations := bump t.alc.counters.originations })
  else s

/-- An update stored: the one held, if any, is first folded into the base values (R166). -/
def storeUpdate (u : AlertUpdate) (r : AlertRecord) : AlertRecord :=
  { r with base := (r.update.map (·.values)).getD r.base, update := some u }

/-- A pending source escalates the alert whose present values are `v` (R159). -/
def escalates (v : AlertValues) (x : SourceId × SourceValues) : Bool :=
  x.2.urgency < v.urgency || (v.test && x.1 != .test)

/-- Every carried source is TEST. -/
def onlyTestCarried (t : Sources) : Bool :=
  !t.al0.carried && !t.al1.carried && !t.feed.carried && !t.supv.carried

/-- The escalation test (R159). -/
def escalate (now : FrameNo) (s : State) : State :=
  match isLive s.alc.localAlert.state, ownRecord s with
  | true, some r =>
    if r.update.all (fun u => !later u.frame now) then
      let v := valuesAt r now
      match winner ((pendingSources s).filter (escalates v)) with
      | none => s
      | some w =>
        let t := modifySource w.1 (fun x => { x with carried := true }) s
        let u : AlertUpdate :=
          { frame := plus now (leadOf s + 2),
            values := { urgency := min v.urgency w.2.urgency, mask := allIfZero v.mask ||| allIfZero w.2.mask,
                        test := onlyTestCarried t.alc.sources, text := w.2.text } }
        let r' := storeUpdate u r
        handFirst .alert (alertBytes r')
          { modifyRecord r.id (fun _ => r') t with
            alc.counters := { s.alc.counters with
              escalations := bump s.alc.counters.escalations, updatesStored := bump s.alc.counters.updatesStored } }
    else s
  | _, _ => s

/-- The own alert's end by stop (R160). -/
def stopTest (now : FrameNo) (s : State) : State :=
  if isLive s.alc.localAlert.state && s.alc.stopMark then
    endOwn now { s with alc.counters.endsByStop := bump s.alc.counters.endsByStop }
  else s

/-- The duration limit is reached in ON (R160). -/
def durationDue (now : FrameNo) (s : State) : Bool :=
  let d := (s.cfl.image.map (·.durationLimit)).getD 0
  s.alc.localAlert.state = .on && 0 < d &&
    s.alc.localAlert.start.any (fun f => !later (plus f (25 * d)) now)

/-- The own alert's end by duration (R160). -/
def durationEnd (now : FrameNo) (s : State) : State :=
  endOwn now (clearSources { s with alc.counters.endsByDuration := bump s.alc.counters.endsByDuration })

/-- Some carried source is pending. -/
def carriedPending (t : Sources) : Bool :=
  sourceIds.any (fun i => (t.get i).carried && (t.get i).raised)

/-- The own alert's end by sources (R160). -/
def sourcesTest (now : FrameNo) (s : State) : State :=
  if isLive s.alc.localAlert.state && !carriedPending s.alc.sources then
    endOwn now { s with alc.counters.endsBySources := bump s.alc.counters.endsBySources }
  else s

/-- A repeat of the own alert's packet (R161); one that LKP refuses counts as sent and as refused (log 40). -/
def repeatAlert (s : State) : State :=
  let t := { s with alc.repeatCount := 0, alc.counters.repeatsSent := bump s.alc.counters.repeatsSent }
  if s.alc.localAlert.state = .ending then
    match s.alc.localAlert.id, s.alc.localAlert.stop with
    | some i, some e => handAlert .alertEnd (alertEndBytes i e) t
    | _, _ => t
  else match ownRecord s with
    | some r => handAlert .alert (alertBytes r) t
    | none => t

/-! ### The table half (R163 to R169) -/

/-- A PENDING record's start frame is reached (R163). -/
def startRecord (r : AlertRecord) : AlertRecord :=
  { r with state := if r.stop.isSome then .ending else .active }

/-- A record leaves the table at its end frame (R163). -/
def endRecord (i : AlertId) (s : State) : State :=
  { s with alc.table := s.alc.table.filter (fun r => r.id != i), alc.counters.ended := bump s.alc.counters.ended }

def removalOf (s : State) (unit : Byte) : Option FrameNo :=
  if h : unit.toNat < 8 then s.alc.removals[unit.toNat] else none

/-- The record of an accepted ALERT, its values clamped (R164). -/
def acceptedRecord (b : AlertBody) (s : State) : AlertRecord :=
  let u := clampUrgency b.base.urgency
  let a := clampAlertRate b.audioRate
  let up := b.update.map (fun x => { x with values.urgency := clampUrgency x.values.urgency })
  let gone := removalOf s b.id.unit
  { id := b.id, base := { b.base with urgency := u }, audioRate := a, start := b.start, update := up,
    stop := gone.map (fun f => ⟨f, true⟩), receivedEnd := none,
    clamped := u != b.base.urgency || a != b.audioRate || up != b.update,
    state := if s.ftu.now.all (fun n => later b.start n) then .waiting
             else if gone.isSome then .ending else .active }

/-- The frame is later than now + L; false while now is absent. -/
def beyondLead (s : State) (f : FrameNo) : Bool := s.ftu.now.any (fun n => later f (plus n (leadOf s)))

/-- ON_AIR or ISOLATED: the states that refuse what comes too late for a layout (R164, R166). -/
def refusesLate (s : State) : Bool := s.pvw.unit.emitting

/-- A new alert id (R164, R165); one that a full table keeps out counts as refused full alone (log 41), and an update
entered with the record is no update stored (log 70). -/
def newAlert (b : AlertBody) (s : State) : State :=
  if refusesLate s && !beyondLead s b.start then
    raiseFlag .alertLate { s with alc.counters.lateAlerts := bump s.alc.counters.lateAlerts }
  else match enterRecord (acceptedRecord b s) s with
    | some t => { t with alc.counters.accepted := bump t.alc.counters.accepted }
    | none => raiseFlag .alertTableFull { s with alc.counters.refusedFull := bump s.alc.counters.refusedFull }

/-- An alert id that is held (R166). -/
def heldAlert (b : AlertBody) (r : AlertRecord) (s : State) : State :=
  match b.update with
  | none => { s with alc.counters.refreshes := bump s.alc.counters.refreshes }
  | some u =>
    if r.update.any (fun x => x.frame = u.frame) then
      { s with alc.counters.refreshes := bump s.alc.counters.refreshes }
    else if refusesLate s && !beyondLead s u.frame then
      { s with alc.counters.lateUpdates := bump s.alc.counters.lateUpdates }
    else
      let c := clampUrgency u.values.urgency
      { modifyRecord r.id (fun x =>
          { storeUpdate { u with values.urgency := c } x with clamped := x.clamped || c != u.values.urgency }) s with
        alc.counters.updatesStored := bump s.alc.counters.updatesStored }

/-- An ALERT from unit `u`, handed on by LKP (R164, R169). -/
def takeAlert (u : UnitId) (body : List Byte) (s : State) : State :=
  let b := parseAlert body
  if !s.pvw.unit.viewing then
    { s with alc.counters.ignoredByState := bump s.alc.counters.ignoredByState }
  else if b.id.unit.toNat ≠ u.val then
    { s with alc.counters.foreignAlerts := bump s.alc.counters.foreignAlerts }
  else match s.alc.table.find? (fun r => r.id = b.id) with
    | some r => heldAlert b r s
    | none => newAlert b s

/-- The end frame an ALERT_END gives: clamped to now + L + 1 when it is not later than now + L (R167). -/
def endGiven (s : State) (e : FrameNo) : FrameNo × Bool :=
  match s.ftu.now with
  | none => (e, false)
  | some n => if later e (plus n (leadOf s)) then (e, false) else (plus n (leadOf s + 1), true)

/-- The end frame of a record after an ALERT_END: a removal's frame is kept when it is not later; the source becomes
ALERT_END (R167, log 17). -/
def endTaken (r : AlertRecord) (carried given : FrameNo) : AlertRecord :=
  let f := match r.stop with
    | some x => if x.byRemoval && !later x.frame given then x.frame else given
    | none => given
  { withStop ⟨f, false⟩ r with receivedEnd := some carried }

/-- An ALERT_END from unit `u`, handed on by LKP (R167, R169). -/
def takeAlertEnd (u : UnitId) (body : List Byte) (s : State) : State :=
  let i := alertIdAt body 0
  let e := frameAt body 2
  if !s.pvw.unit.viewing then
    { s with alc.counters.ignoredByState := bump s.alc.counters.ignoredByState }
  else if i.unit.toNat ≠ u.val then
    { s with alc.counters.foreignAlerts := bump s.alc.counters.foreignAlerts }
  else match s.alc.table.find? (fun r => r.id = i) with
    | none => { s with alc.counters.unknownEnds := bump s.alc.counters.unknownEnds }
    | some r =>
      if r.receivedEnd.isSome then { s with alc.counters.endRefreshes := bump s.alc.counters.endRefreshes }
      else
        let g := endGiven s e
        { modifyRecord i (fun x => endTaken x e g.1) s with
          alc.counters.endsClamped := bumpBy s.alc.counters.endsClamped (bit g.2 1) }

/-- A removal scheduled, or moved to an earlier frame, for unit `u` (R168). -/
def noticeRemoval (u : UnitId) (f : FrameNo) (s : State) : State :=
  { s with alc.removals := s.alc.removals.set u (some f),
           alc.table := s.alc.table.map (fun r =>
             if r.id.unit.toNat = u.val && r.stop.all (fun e => later e.frame f) then withStop ⟨f, true⟩ r else r) }

/-- A removal cancelled for unit `u` (R168). -/
def noticeCancelled (u : UnitId) (s : State) : State :=
  { s with alc.removals := s.alc.removals.set u none,
           alc.table := s.alc.table.map (fun r =>
             if r.id.unit.toNat = u.val && r.stop.any (·.byRemoval) then
               { r with stop := none, state := if r.state = .ending then .active else r.state }
             else r) }

/-- A PRESENCE's own alert id field (R169). -/
def noteAnnounced (a : Option AlertId) (s : State) : State :=
  match a with
  | none => s
  | some i =>
    if s.alc.table.any (fun r => r.id = i) then s
    else { s with alc.counters.announcedNotHeld := bump s.alc.counters.announcedNotHeld }

/-! ### The alert feed (R154) -/

/-- An ALERT_REQ from the ALERT port (R154). -/
def takeAlertReq (body : List Byte) (s : State) : State :=
  if sourceEnabled s .feed then askSource .feed (byteAt body 0).toNat (byteAt body 1) (body.drop 2) s
  else modifySource .feed (fun x => { x with counters.disabledRequests := bump x.counters.disabledRequests }) s

/-- An EDGE line's mark is cleared. -/
def clearEdge (l : LineIx) (s : State) : State := if lineIsLevel s l then s else setRaised (lineSource l) false s

/-- An ALERT_CLEAR from the ALERT port (R154). -/
def takeAlertClear (s : State) : State :=
  let t := if sourceEnabled s .feed then setRaised .feed false s else s
  clearEdge 1 (clearEdge 0 { t with alc.counters.clears := bump t.alc.counters.clears })

/-- The loss notice for the ALERT port (R154). -/
def alertFeedLost (s : State) : State :=
  let x := s.alc.sources.feed
  let t := { s with alc.counters.feedLosses := bump s.alc.counters.feedLosses }
  if x.raised && !x.carried then setRaised .feed false t else t

end Sys2Proof.Machine
end

