-- ==== Sys2Proof/Machine/Text.lean ====
section
/-! DEFINITION. TXC (chapter 7): message slots, cycle lists, notices, cells and the alert carousel. -/

namespace Sys2Proof.Machine

/-! ### Messages (R119 to R122) -/

/-- A byte stored as 0x20: 0x00 to 0x1F other than 0x0A, and 0x7F to 0x9F (R120). -/
def textSubstituted (b : Byte) : Bool :=
  (b.toNat ≤ 0x1F && b != 0x0A) || (0x7F ≤ b.toNat && b.toNat ≤ 0x9F)

def storedByte (b : Byte) : Byte := if textSubstituted b then 0x20 else b

def clampWeight (n : Nat) : Nat := if n = 0 then 1 else min n 4

def clampHold (n : Nat) : Nat := min n 250

/-- The slot emptied: its toggle is kept (R119). -/
def emptySlot (t : TextSlot) : TextSlot := .empty t.toggle

/-- The record that a TEXT_SET stores (R120): weight, hold, lifetime and text as the body carries them. -/
def storedText (key : Nat) (body : List Byte) (old : TextSlot) : TextSlot :=
  { state := .active, text := (body.drop 5).map storedByte, weight := clampWeight (byteAt body 1).toNat,
    hold := clampHold (byteAt body 2).toNat, lifetime := beNat (slice body 3 2), remaining := beNat (slice body 3 2),
    toggle := !old.toggle, key := key, inList := old.state != .empty && old.inList }

/-- The transmission of this slot, if it is the current one, is abandoned (R127). -/
def abandon (slot : SlotIx) (c : Carousel) : Carousel :=
  if c.current.any (fun t => t.slot = slot) then
    { c with current := none, counters.abandonments := bump c.counters.abandonments }
  else c

/-- A TEXT_SET that the key test has let through (R120). -/
def setText (key : Nat) (body : List Byte) (slot : SlotIx) (c : Carousel) : Carousel :=
  let old := c.slots[slot]
  let w := (byteAt body 1).toNat
  let h := (byteAt body 2).toNat
  let c1 := if old.state = .empty then { c with counters.fills := bump c.counters.fills }
            else abandon slot { c with counters.replacements := bump c.counters.replacements }
  { c1 with slots := c1.slots.set slot (storedText key body old),
            counters.substituted := bumpBy c1.counters.substituted ((body.drop 5).filter textSubstituted).length,
            counters.clamped := bumpBy c1.counters.clamped (bit (clampWeight w != w || clampHold h != h) 1) }

/-- The slot a text packet names, when it is 0 to 7. -/
def textSlotOf (body : List Byte) : Option SlotIx :=
  if h : (byteAt body 0).toNat < 8 then some ⟨(byteAt body 0).toNat, h⟩ else none

/-- The key is not allowed on an ACTIVE or EXPIRING record (R119). -/
def textRefused (key : Nat) (t : TextSlot) : Bool := t.state != .empty && !keyAllows key t.key

def refuseText (k : ServiceIx) (s : State) : State :=
  raiseFlag .keyRefused
    (modifyCarousel k (fun c => { c with counters.keyRefusals := bump c.counters.keyRefusals }) s)

def badSlot (k : ServiceIx) : State → State :=
  modifyCarousel k (fun c => { c with counters.badSlots := bump c.counters.badSlots })

/-- A TEXT_SET for service `k` with its port's key (R120). -/
def takeTextSet (k : ServiceIx) (key : Nat) (body : List Byte) (s : State) : State :=
  match textSlotOf body with
  | none => badSlot k s
  | some slot =>
    if textRefused key s.txc.carousels[k].slots[slot] then refuseText k s
    else modifyCarousel k (setText key body slot) s

/-- A TEXT_CLEAR that the key test has let through (R121). -/
def clearText (slot : SlotIx) (c : Carousel) : Carousel :=
  let c1 := abandon slot c
  { c1 with slots := c1.slots.set slot (emptySlot c1.slots[slot]), counters.clears := bump c1.counters.clears }

/-- A TEXT_CLEAR for service `k` with its port's key (R121). -/
def takeTextClear (k : ServiceIx) (key : Nat) (body : List Byte) (s : State) : State :=
  match textSlotOf body with
  | none => badSlot k s
  | some slot =>
    if s.txc.carousels[k].slots[slot].state = .empty then
      modifyCarousel k (fun c => { c with counters.emptyClears := bump c.counters.emptyClears }) s
    else if textRefused key s.txc.carousels[k].slots[slot] then refuseText k s
    else modifyCarousel k (clearText slot) s

/-- A TEXT_FLUSH of a carousel (R131). -/
def flushText (c : Carousel) : Carousel :=
  { c with slots := #v[emptySlot c.slots[0], emptySlot c.slots[1], emptySlot c.slots[2], emptySlot c.slots[3],
                       emptySlot c.slots[4], emptySlot c.slots[5], emptySlot c.slots[6], emptySlot c.slots[7]],
           cycle := [], position := none, current := none,
           counters.flushes := bump c.counters.flushes,
           counters.abandonments := bumpBy c.counters.abandonments (bit c.current.isSome 1) }

/-- The number of segments of a text (R122). -/
def segmentCount (text : List Byte) : Nat := ceilDiv text.length 16

/-- The text cell of segment `i` (R122, R192). -/
def textCell (slot : Nat) (toggle : Bool) (text : List Byte) (i : Nat) : List Byte :=
  let seg := slice text (16 * i) 16
  [0x10, byteOf (slot * 16 + bit toggle 1), byteOf (i * 16 + (segmentCount text - 1)), byteOf seg.length] ++
    zeroPad 16 seg

/-- A fill cell (R192). -/
def fillCell : List Byte := List.replicate 20 0

/-! ### The production notice (R123, R125, R128) -/

/-- Step 1 of the notice: the side rate, and a started transmission sent back to segment 0 when it is 0 (R128). -/
def textSide (side : Nat) (c : Carousel) : Carousel :=
  if side = 0 then
    match c.current with
    | some t =>
      if 0 < t.next then { c with suspended := true, current := some { t with next := 0 },
                                  counters.restarts := bump c.counters.restarts }
      else { c with suspended := true }
    | none => { c with suspended := true }
  else { c with suspended := false }

/-- A remaining lifetime lowered at a notice (R123 step 2). -/
def ageText (t : TextSlot) : TextSlot :=
  if t.state = .active && t.lifetime != 0 then { t with remaining := t.remaining - 1 } else t

def ageTexts (c : Carousel) : Carousel :=
  { c with slots := slotIxs.foldl (fun v i => modifyAt v i ageText) c.slots }

/-- The record's remaining lifetime has reached 0 (R125). -/
def textExpired (t : TextSlot) : Bool := t.state = .active && t.lifetime != 0 && t.remaining == 0

/-- The record of a slot expires (R125). -/
def expireText (slot : SlotIx) (c : Carousel) : Carousel :=
  let c1 := { c with counters.expiries := bump c.counters.expiries }
  match c.current with
  | some t =>
    if t.slot = slot then
      if 0 < t.next then { c1 with slots := modifyAt c.slots slot (fun x => { x with state := .expiring }) }
      else { c1 with slots := modifyAt c.slots slot emptySlot, current := none }
    else { c1 with slots := modifyAt c.slots slot emptySlot }
  | none => { c1 with slots := modifyAt c.slots slot emptySlot }

/-- Steps 3 and 4 of the notice: the hold and the gap (R123). -/
def textHold (c : Carousel) : Carousel :=
  { c with held := 0 < c.holdCount, holdCount := c.holdCount - 1, gap := upTo 16 c.gap }

/-! ### Cycle lists and cells (R124, R126) -/

/-- Round `k` of a list: every ACTIVE slot whose weight is at least `k`, ascending (R124). -/
def cycleRound (c : Carousel) (k : Nat) : List SlotIx :=
  slotIxs.filter (fun i => c.slots[i].state = .active && k ≤ c.slots[i].weight)

/-- A new cycle list (R124). -/
def buildCycle (c : Carousel) : Carousel :=
  { c with cycle := cycleRound c 1 ++ cycleRound c 2 ++ cycleRound c 3 ++ cycleRound c 4, position := none,
           slots := slotIxs.foldl (fun v i => modifyAt v i (fun t =>
             if t.state = .active then { t with inList := true } else t)) c.slots }

def eligible (c : Carousel) (i : SlotIx) : Bool := c.slots[i].state = .active && c.slots[i].inList

/-- The first eligible entry of the list at or after place `from_`. -/
def searchFrom (c : Carousel) (from_ : Nat) : Option (Nat × SlotIx) :=
  (((c.cycle.zipIdx).drop from_).find? (fun x => eligible c x.1)).map (fun x => (x.2, x.1))

/-- The search for a next message (R124): the carousel after it, and the entry found. -/
def findNext (c : Carousel) : Carousel × Option (Nat × SlotIx) :=
  match searchFrom c (c.position.elim 0 (· + 1)) with
  | some x => (c, some x)
  | none => let b := buildCycle c; (b, searchFrom b 0)

/-- The cell of the current transmission, and the carousel after it (R126). -/
def giveCell (t : TextTurn) (c : Carousel) : Carousel × List Byte :=
  let r := c.slots[t.slot]
  let cell := textCell t.slot.val r.toggle r.text t.next
  let c1 := { c with gap := 0, counters.cells := bump c.counters.cells }
  if segmentCount r.text ≤ t.next + 1 then
    ({ c1 with holdCount := r.hold, current := none, counters.completions := bump c1.counters.completions,
               slots := if r.state = .expiring then c1.slots.set t.slot (emptySlot r) else c1.slots }, cell)
  else ({ c1 with current := some { t with next := t.next + 1 } }, cell)

/-- CPR's request for a text cell (R126). -/
def requestText (cadence : Nat) (c : Carousel) : Carousel × Option (List Byte) :=
  if c.held || c.gap < cadence then (c, none)
  else match c.current with
    | some t => let r := giveCell t c; (r.1, some r.2)
    | none => match findNext c with
      | (c1, none) => (c1, none)
      | (c1, some (i, slot)) =>
        let r := giveCell ⟨slot, 0⟩ { c1 with position := some i, current := some ⟨slot, 0⟩ }
        (r.1, some r.2)

/-! ### The alert carousel (R129) -/

/-- The message supplied for a request (R129): none empties the carousel. -/
def supplyAlert (m : Option AlertMessage) (a : AlertCarousel) : AlertCarousel :=
  match m with
  | none => { a with message := none }
  | some x =>
    if a.message = some x then a
    else { a with message := some x, toggle := !a.toggle, pointer := 0, replacements := bump a.replacements }

/-- One cell of the alert carousel's message (R129). -/
def giveAlertCell (text : List Byte) (a : AlertCarousel) : AlertCarousel × List Byte :=
  ({ a with pointer := if segmentCount text ≤ a.pointer + 1 then 0 else a.pointer + 1, cells := bump a.cells },
   textCell 0 a.toggle text a.pointer)

/-- A request for 2 cells, with the message ALC supplies (R129); no cell when it supplies none. -/
def requestAlert (m : Option AlertMessage) (a : AlertCarousel) : AlertCarousel × List (List Byte) :=
  let b := supplyAlert m a
  match b.message with
  | none => (b, [])
  | some x =>
    let r := giveAlertCell x.text b
    let q := giveAlertCell x.text r.1
    (q.1, [r.2, q.2])

end Sys2Proof.Machine
end

