-- ==== Sys2Proof/Machine/Picture.lean ====
section
/-! DEFINITION. PIC (chapter 8): the page pool, loads, turns, expiry and flush. -/

namespace Sys2Proof.Machine

/-! ### Pages and records (R133, R134) -/

/-- Pages held by the records of a table. -/
def usedPages (t : List PicRecord) : List Nat := t.flatMap (·.pages)

/-- The free pages, lowest first (R133). -/
def freePages (t : List PicRecord) : List Nat :=
  (List.range Config.pages).filter (fun p => !(usedPages t).contains p)

/-- The pages a size takes (R133). -/
def pagesNeeded (size : Nat) : Nat := ceilDiv size Config.pageSize

/-- The record with this service and object id. -/
def isObject (k : ServiceIx) (id : ObjectId) (r : PicRecord) : Bool := r.service = k && r.id = id

def findObject (k : ServiceIx) (id : ObjectId) (s : State) : Option PicRecord := s.pic.table.find? (isObject k id)

/-- A record removed; its pages are free at once (R133). -/
def removeObject (k : ServiceIx) (id : ObjectId) (s : State) : State :=
  { s with pic.table := s.pic.table.filter (fun r => !isObject k id r) }

def modifyObject (k : ServiceIx) (id : ObjectId) (f : PicRecord → PicRecord) (s : State) : State :=
  { s with pic.table := modifyFirst (isObject k id) f s.pic.table }

def countPic (k : ServiceIx) (f : PicCounters → PicCounters) : State → State :=
  modifyPicCarousel k (fun c => { c with counters := f c.counters })

/-- The address in the page pool of byte `i` of an object (R133). -/
def byteAddress (r : PicRecord) (i : Nat) : Nat :=
  r.pages.getD (i / Config.pageSize) 0 * Config.pageSize + i % Config.pageSize

/-- Bytes written at positions `o` onward of an object. -/
def writeObject (r : PicRecord) : Nat → List Byte → List Host.Cell → List Host.Cell
  | _, [], m => m
  | o, b :: bs, m => writeObject r (o + 1) bs (memWrite m (byteAddress r o) b)

/-- The record of `k` with this id leaves the table while ON_AIR: its transmission is cut (R147). -/
def cutIfOnAir (k : ServiceIx) (r : PicRecord) (s : State) : State :=
  if r.state = .onAir then
    modifyPicCarousel k (fun c => { c with current := none, counters.cuts := bump c.counters.cuts }) s
  else s

/-! ### Loading (R136 to R141) -/

/-- The record that an admitted PIC_BEGIN creates (R136). -/
def newObject (k : ServiceIx) (port : PortId) (key : Nat) (body : List Byte) (pages : List Nat) : PicRecord :=
  { id := half body 0, service := k, key := key, port := port, size := beNat (slice body 2 2), pages := pages,
    received := 0, crc := 0xFFFF, order := (byteAt body 4).toNat, repeats := (byteAt body 5).toNat, done := 0,
    lifetime := beNat (slice body 6 2), remaining := 0, idle := 0, pointer := 0, state := .loading, expiring := false }

/-- The room test and the admission of a PIC_BEGIN (R136); a new record stands behind those held (log 52). -/
def admitObject (k : ServiceIx) (port : PortId) (key : Nat) (body : List Byte) (s : State) : State :=
  let free := freePages s.pic.table
  let need := pagesNeeded (beNat (slice body 2 2))
  if free.length < need || Config.objects ≤ s.pic.table.length then
    raiseFlag .picLoadFail (countPic k (fun c => { c with noRoom := bump c.noRoom }) s)
  else
    countPic k (fun c => { c with begins := bump c.begins })
      { s with pic.table := s.pic.table ++ [newObject k port key body (free.take need)],
               pic.lowestFree := min s.pic.lowestFree (free.length - need) }

def refusePicture (k : ServiceIx) (s : State) : State :=
  raiseFlag .keyRefused (countPic k (fun c => { c with keyRefusals := bump c.keyRefusals }) s)

/-- A PIC_BEGIN for service `k` (R136). -/
def takePicBegin (k : ServiceIx) (port : PortId) (key : Nat) (body : List Byte) (s : State) : State :=
  let size := beNat (slice body 2 2)
  if size = 0 || 65520 < size then countPic k (fun c => { c with badSizes := bump c.badSizes }) s
  else match findObject k (half body 0) s with
    | some r =>
      if !keyAllows key r.key then refusePicture k s
      else admitObject k port key body
        (countPic k (fun c => { c with replacements := bump c.replacements })
          (cutIfOnAir k r (removeObject k r.id s)))
    | none => admitObject k port key body s

/-- A PIC_DATA for service `k` (R137). -/
def takePicData (k : ServiceIx) (port : PortId) (body : List Byte) (s : State) : State :=
  let o := beNat (slice body 2 2)
  let data := body.drop 4
  match findObject k (half body 0) s with
  | none => countPic k (fun c => { c with strayData := bump c.strayData }) s
  | some r =>
    if r.state ≠ .loading then countPic k (fun c => { c with strayData := bump c.strayData }) s
    else if r.port ≠ port then countPic k (fun c => { c with foreignData := bump c.foreignData }) s
    else if o ≠ r.received then countPic k (fun c => { c with gaps := bump c.gaps }) s
    else if r.size < o + data.length then countPic k (fun c => { c with overlengths := bump c.overlengths }) s
    else
      modifyObject k r.id (fun x => { x with received := x.received + data.length, crc := crc16From x.crc data, idle := 0 })
        { s with pic.memory := writeObject r o data s.pic.memory }

/-- A PIC_END for service `k` (R138); the record keeps the idle count it had (log 76). -/
def takePicEnd (k : ServiceIx) (port : PortId) (body : List Byte) (s : State) : State :=
  match findObject k (half body 0) s with
  | none => countPic k (fun c => { c with strayEnds := bump c.strayEnds }) s
  | some r =>
    if r.state ≠ .loading then countPic k (fun c => { c with strayEnds := bump c.strayEnds }) s
    else if r.port ≠ port then countPic k (fun c => { c with foreignEnds := bump c.foreignEnds }) s
    else if r.received = r.size && r.crc = half body 2 then
      countPic k (fun c => { c with completed := bump c.completed })
        (modifyObject k r.id (fun x => { x with state := .ready, remaining := x.lifetime }) s)
    else
      raiseFlag .picLoadFail (countPic k (fun c => { c with badEnds := bump c.badEnds }) (removeObject k r.id s))

/-- A PIC_DELETE for service `k` (R141). -/
def takePicDelete (k : ServiceIx) (key : Nat) (body : List Byte) (s : State) : State :=
  match findObject k (half body 0) s with
  | none => countPic k (fun c => { c with unknownDelete := bump c.unknownDelete }) s
  | some r =>
    if !keyAllows key r.key then refusePicture k s
    else countPic k (fun c => { c with deletes := bump c.deletes }) (cutIfOnAir k r (removeObject k r.id s))

/-- A LOADING record times out (R139). -/
def timeOutLoad (k : ServiceIx) (id : ObjectId) (s : State) : State :=
  raiseFlag .picLoadFail (countPic k (fun c => { c with loadTimeouts := bump c.loadTimeouts }) (removeObject k id s))

def loadTimedOut (r : PicRecord) : Bool := r.state = .loading && r.idle == 250

/-- The LOADING records of a port, which its loss notice removes (R140). -/
def lostLoad (p : PortId) (r : PicRecord) : Bool := r.state = .loading && r.port = p

/-- The loss notice of port `p` at PIC (R140). -/
def loseLoads (p : PortId) (s : State) : State :=
  let lost := s.pic.table.filter (lostLoad p)
  if lost.isEmpty then s
  else raiseFlag .picLoadFail
    (lost.foldl (fun t r => countPic r.service (fun c => { c with lostLoads := bump c.lostLoads }) t)
      { s with pic.table := s.pic.table.filter (fun r => !lostLoad p r) })

/-! ### The production notice (R143, R146) -/

/-- Step 1 of the notice: the paused mark (R143). -/
def pictureSide (side : Nat) (c : PicCarousel) : PicCarousel :=
  if side = 0 then
    { c with paused := true, counters.pauses := bumpBy c.counters.pauses (bit (!c.paused && c.current.isSome) 1) }
  else { c with paused := false }

/-- Step 2: the idle counts of a service's LOADING records (R139). -/
def ageLoads (k : ServiceIx) (s : State) : State :=
  { s with pic.table := s.pic.table.map (fun r =>
      if r.service = k && r.state = .loading then { r with idle := upTo 250 r.idle } else r) }

/-- Step 3: the remaining lifetimes of a service's READY and ON_AIR records (R143). -/
def agePictures (k : ServiceIx) (s : State) : State :=
  { s with pic.table := s.pic.table.map (fun r =>
      if r.service = k && r.state != .loading && r.lifetime != 0 && !r.expiring then
        { r with remaining := r.remaining - 1 } else r) }

/-- The remaining lifetime has reached 0 (R146). -/
def pictureExpired (r : PicRecord) : Bool :=
  r.state != .loading && r.lifetime != 0 && r.remaining == 0 && !r.expiring

/-- An object expires: a READY one is retired, an ON_AIR one gets the expiring mark (R146). -/
def expirePicture (k : ServiceIx) (id : ObjectId) (s : State) : State :=
  match findObject k id s with
  | none => s
  | some r =>
    let t := countPic k (fun c => { c with expiries := bump c.expiries }) s
    if r.state = .ready then
      countPic k (fun c => { c with retirements := bump c.retirements }) (removeObject k id t)
    else modifyObject k id (fun x => { x with expiring := true }) t

/-! ### Turns (R142, R144, R145) -/

/-- The data segment count D (R142). -/
def dataSegments (r : PicRecord) : Nat := ceilDiv r.size 16

/-- The 16 bytes of data segment `i`, zero after the object's last byte (R142). -/
def segmentBytes (m : List Host.Cell) (r : PicRecord) (i : Nat) : List Byte :=
  (List.range 16).map (fun j =>
    if 16 * i + j < r.size then memRead m (byteAddress r (16 * i + j)) else 0)

/-- A picture data cell (R192). -/
def dataCell (m : List Host.Cell) (r : PicRecord) (i : Nat) : List Byte :=
  [byteOf (32 + i / 256), byteOf (i % 256)] ++ be16 r.id ++ segmentBytes m r i

/-- A picture closing cell (R192). -/
def closingCell (r : PicRecord) : List Byte :=
  [0x30] ++ be16 r.id ++ be16 (BitVec.ofNat 16 r.size) ++ be16 r.crc ++ [byteOf r.order] ++ List.replicate 12 0

/-- Pairs (order number, object id) in order (R144). -/
def pairBefore (a b : Nat × ObjectId) : Bool := a.1 < b.1 || (a.1 == b.1 && a.2.toNat < b.2.toNat)

def pairOf (r : PicRecord) : Nat × ObjectId := (r.order, r.id)

def smallest (l : List PicRecord) : Option PicRecord :=
  l.foldl (fun acc r => match acc with
    | none => some r
    | some a => if pairBefore (pairOf r) (pairOf a) then some r else some a) none

/-- The next READY object of service `k`, leaving out those closed in this request (R144). -/
def selectNext (k : ServiceIx) (closed : List ObjectId) (s : State) : Option PicRecord :=
  let ready := s.pic.table.filter (fun r => r.service = k && r.state = .ready && !closed.contains r.id)
  match s.pic.carousels[k].last with
  | none => smallest ready
  | some l => (smallest (ready.filter (fun r => pairBefore l (pairOf r)))).or (smallest ready)

/-- The turn of object `r` ends after its closing segment (R145). -/
def endTurn (k : ServiceIx) (r : PicRecord) (s : State) : State :=
  let done := upTo 255 r.done
  let t := modifyPicCarousel k (fun c =>
    { c with current := none, counters.completions := bump c.counters.completions }) s
  if (r.repeats != 0 && done == r.repeats) || r.expiring then
    countPic k (fun c => { c with retirements := bump c.retirements }) (removeObject k r.id t)
  else modifyObject k r.id (fun x => { x with state := .ready, pointer := 0, done := done }) t

/-- One cell of the ON_AIR object `r` (R144); true when it was the closing cell. -/
def giveSegment (k : ServiceIx) (r : PicRecord) (s : State) : State × List Byte × Bool :=
  let t := countPic k (fun c => { c with cells := bump c.cells }) s
  if r.pointer < dataSegments r then
    (modifyObject k r.id (fun x => { x with pointer := x.pointer + 1 }) t, dataCell s.pic.memory r r.pointer, false)
  else (endTurn k r t, closingCell r, true)

/-- The selected object becomes ON_AIR and current, and its pair the last position (R144). -/
def beginTurn (k : ServiceIx) (r : PicRecord) (s : State) : State :=
  modifyObject k r.id (fun x => { x with state := .onAir, pointer := 0 })
    (modifyPicCarousel k (fun c => { c with current := some r.id, last := some (pairOf r) }) s)

/-- CPR's request for up to `m` picture cells of service `k` (R144). -/
def requestPictures (k : ServiceIx) : Nat → List ObjectId → State → State × List (List Byte)
  | 0, _, s => (s, [])
  | m + 1, closed, s =>
    match s.pic.carousels[k].current.bind (fun id => findObject k id s) with
    | some r =>
      let g := giveSegment k r s
      let q := requestPictures k m (if g.2.2 then r.id :: closed else closed) g.1
      (q.1, g.2.1 :: q.2)
    | none =>
      match selectNext k closed s with
      | none => (s, [])
      | some r =>
        let g := giveSegment k { r with state := .onAir, pointer := 0 } (beginTurn k r s)
        let q := requestPictures k m closed g.1
        (q.1, g.2.1 :: q.2)

/-! ### Flush (R149) -/

/-- A PICTURE_FLUSH of service `k` (R149). -/
def flushPictures (k : ServiceIx) (s : State) : State :=
  let cut := s.pic.table.any (fun r => r.service = k && r.state = .onAir)
  modifyPicCarousel k (fun c =>
      { c with current := none, last := none,
               counters := { c.counters with flushes := bump c.counters.flushes,
                                             cuts := bumpBy c.counters.cuts (bit cut 1) } })
    { s with pic.table := s.pic.table.filter (fun r => r.service != k) }

end Sys2Proof.Machine
end

