-- ==== Sys2Proof/Machine/Assembly.lean ====
section
/-! DEFINITION. ASM and CPR (chapter 5): the frame store, arrivals, the seal, and production. -/

namespace Sys2Proof.Machine

/-! ### Frame slots (R88, R89) -/

/-- The slot of frame `n`: n mod 16. -/
def slotOf (n : FrameNo) : Fin 16 := Fin.ofNat 16 n.toNat

def slotAt (s : State) (n : FrameNo) : FrameSlot := s.asm.slots[slotOf n]

def setSlot (n : FrameNo) (x : FrameSlot) (s : State) : State :=
  { s with asm.slots := s.asm.slots.set (slotOf n) x }

/-- An EMPTY store entry for a placed entry (R89). -/
def storeEntry (e : LayoutEntry) : StoreEntry := ⟨e.id, e.owner, e.audioRate, e.side, .empty⟩

/-- Payload size of a store entry (R89). -/
def payloadSize (e : StoreEntry) : Nat := 5 * (e.audioRate + e.side)

def countAsm (f : AsmCounters → AsmCounters) (s : State) : State := { s with asm.counters := f s.asm.counters }

/-- Arrivals of a waiting list that is discarded, counted as ignored by state (R92). -/
def waitingArrivals : FrameSlot → Nat
  | .waiting _ l => l.length
  | _ => 0

/-! ### Arrivals (R90, R91) -/

/-- What the entry tests make of an arrival. -/
inductive Judged where
  | stray
  | duplicate
  | sizeVoid
  | handedVoid
  | filed
  deriving DecidableEq, Repr

/-- The entry tests on the entry of the arrival's service (R91). -/
def judgeEntry (a : Arrival) (e : StoreEntry) : Judged :=
  if e.filing ≠ .empty then .duplicate
  else match a.content with
    | none => .handedVoid
    | some c => if c.payload.length ≠ payloadSize e then .sizeVoid else .filed

/-- The entry as the arrival leaves it when it is EMPTY (R91). -/
def fileEntry (a : Arrival) (e : StoreEntry) : StoreEntry :=
  match judgeEntry a e, a.content with
  | .filed, some c =>
    { e with
      filing := .filled a.sender ⟨!c.audioVoid, c.payload.take (5 * e.audioRate)⟩
        ⟨!c.sideVoid, c.payload.drop (5 * e.audioRate)⟩ }
  | .sizeVoid, _ => { e with filing := .void a.sender }
  | .handedVoid, _ => { e with filing := .void a.sender }
  | _, _ => e

/-- The arrival's service has a placed entry whose owner is the sender (R91). -/
def isEntryOf (a : Arrival) (e : StoreEntry) : Bool := e.service = a.service && e.owner = a.sender

def countJudged (j : Judged) (c : AsmCounters) : AsmCounters :=
  match j with
  | .stray => { c with stray := bump c.stray }
  | .duplicate => { c with duplicate := bump c.duplicate }
  | .sizeVoid => { c with size := bump c.size }
  | .handedVoid => { c with voidFiled := bump c.voidFiled }
  | .filed => c

/-- The entry tests (R91). -/
def testEntry (a : Arrival) (s : State) : State :=
  match slotAt s a.frame with
  | .opened n l es =>
    if n = a.frame then
      match es.find? (isEntryOf a) with
      | none => countAsm (countJudged .stray) s
      | some e =>
        countAsm (countJudged (judgeEntry a e))
          (setSlot a.frame (.opened n l (modifyFirst (isEntryOf a) (fileEntry a) es)) s)
    else countAsm (countJudged .stray) s
  | _ => countAsm (countJudged .stray) s

/-- An arrival for now + L + 1 is held (R90). -/
def holdArrival (a : Arrival) (s : State) : State :=
  match slotAt s a.frame with
  | .free => setSlot a.frame (.waiting a.frame [a]) s
  | .waiting n l =>
    if n = a.frame then
      if l.length < 41 then setSlot a.frame (.waiting n (l ++ [a])) s
      else countAsm (fun c => { c with early := bump c.early }) s
    else countAsm (countJudged .stray) s
  | _ => countAsm (countJudged .stray) s

/-- An arrival at ASM, judged by the unit state and its frame (R90). -/
def arrive (a : Arrival) (s : State) : State :=
  match s.pvw.unit.computing, s.ftu.now with
  | true, some now =>
    if !later a.frame (plus now 1) then
      raiseFlag .contribLate
        (modifySender a.sender (fun r => { r with late := bump r.late }) (countAsm (fun c => { c with late := bump c.late }) s))
    else if later a.frame (plus now (leadOf s + 1)) then countAsm (fun c => { c with early := bump c.early }) s
    else if a.frame = plus now (leadOf s + 1) then holdArrival a s
    else testEntry a s
  | _, _ => countAsm (fun c => { c with ignoredByState := bump c.ignoredByState }) s

/-- Slot n mod 16 opens for `n` with its layout; a waiting list for `n` is classified at once (R88, R92). -/
def openSlot (n : FrameNo) (l : Layout) (s : State) : State :=
  let held := match slotAt s n with
    | .waiting m as => if m = n then as else []
    | _ => []
  held.foldl (fun t a => testEntry a t)
    (setSlot n (.opened n l ((l.entries.filter (·.isPlaced)).map storeEntry)) s)

/-- The slot of the frame before `now` becomes FREE (R88). -/
def freeSlot (now : FrameNo) (s : State) : State :=
  let n := now - 1
  let holds := match slotAt s n with
    | .free => false
    | .waiting m _ => m = n
    | .opened m _ _ => m = n
    | .sealed m _ _ => m = n
  if holds then
    setSlot n .free (countAsm (fun c => { c with ignoredByState := bumpBy c.ignoredByState (waitingArrivals (slotAt s n)) }) s)
  else s

/-- All slots FREE, hold table empty, last production frames absent (R100); waiting lists are counted (R92). -/
def clearStore (s : State) : State :=
  { s with asm.slots := Vector.replicate 16 .free, asm.hold := [],
           asm.counters.ignoredByState := bumpBy s.asm.counters.ignoredByState
             ((s.asm.slots.toList.map waitingArrivals).foldl (· + ·) 0),
           cpr.last := Vector.replicate 5 none, cpr.alertLast := none }

/-! ### The seal (R94 to R98) -/

/-- What the seal makes of one entry: payload, flag, hold record, and whether side cells were filled. -/
structure Sealed where
  audio  : List Byte
  side   : List Byte
  flag   : SealFlag
  record : HoldRecord
  filled : Bool
  deriving DecidableEq, Repr

def holdOf (h : List HoldRecord) (id : ServiceId) : HoldRecord := (h.find? (fun r => r.service = id)).getD ⟨id, none, 0⟩

/-- The bytes of a part that is good. -/
def FiledPart.goodBytes (x : FiledPart) : Option (List Byte) := if x.good then some x.bytes else none

/-- The audio part of an entry, when it is FILLED and the part is good. -/
def filedAudio : Filing → Option (List Byte)
  | .filled _ a _ => a.goodBytes
  | _ => none

@[inherit_doc filedAudio]
def filedSide : Filing → Option (List Byte)
  | .filled _ _ c => c.goodBytes
  | _ => none

/-- The audio part of a placed entry, with the flag and the hold record afterwards (R95). -/
def sealAudio (e : StoreEntry) (h : HoldRecord) : List Byte × SealFlag × HoldRecord :=
  if e.audioRate = 0 then ([], .clear, h)
  else match filedAudio e.filing with
    | some a => (a, .clear, { h with lastGood := some a, count := 0 })
    | none =>
      match h.lastGood with
      | some g =>
        if h.count < 2 && g.length == 5 * e.audioRate then (g, .impaired, { h with count := h.count + 1 })
        else (List.replicate (5 * e.audioRate) 0, .muted, { h with count := 2 })
      | none => (List.replicate (5 * e.audioRate) 0, .muted, { h with count := 2 })

def cellsOf (side : Nat) : Nat := side / 4

/-- The side part of a placed entry: the cells as filed, or fill cells (R96). -/
def sealSide (e : StoreEntry) : List Byte × Bool :=
  match filedSide e.filing with
  | some c => (c, false)
  | none => ((List.replicate (cellsOf e.side) fillCell).flatten, 1 ≤ cellsOf e.side)

def sealEntry (h : List HoldRecord) (e : StoreEntry) : Sealed :=
  let a := sealAudio e (holdOf h e.service)
  let c := sealSide e
  ⟨a.1, c.1, a.2.1, a.2.2, c.2⟩

def countRow (x : Sealed) (r : SubstitutionRow) : SubstitutionRow :=
  { r with repeats := bumpBy r.repeats (bit (x.flag = .impaired) 1), mutes := bumpBy r.mutes (bit (x.flag = .muted) 1),
           fills := bumpBy r.fills (bit x.filled 1) }

/-- A substitution of a service counted in its row, a new row, or the one further row (R99). -/
def countSubstitution (x : Sealed) (a : Asm) : Asm :=
  if x.flag = .clear && !x.filled then a
  else if a.rows.any (fun r => r.service = x.record.service) then
    { a with rows := modifyFirst (fun r => r.service = x.record.service) (countRow x) a.rows }
  else if a.rows.length < 64 then { a with rows := a.rows ++ [countRow x ⟨x.record.service, 0, 0, 0⟩] }
  else { a with otherRow := countRow x a.otherRow }

/-- The seal flag of a layout entry among the sealed entries. -/
def flagOf (xs : List Sealed) (id : ServiceId) : SealFlag :=
  ((xs.find? (fun x => x.record.service = id)).map (·.flag)).getD .clear

/-- Frame `n` sealed from an OPEN slot (R94 to R98). -/
def sealOpen (n : FrameNo) (l : Layout) (es : List StoreEntry) (s : State) : State :=
  let xs := es.map (sealEntry s.asm.hold)
  let dir := frameDirectory (ensembleOf s) n l
    (l.entries.map (fun e => (e, if e.isPlaced then flagOf xs e.id else .clear)))
  let a := xs.foldl (fun a x => countSubstitution x a) s.asm
  setSlot n (.sealed n dir (xs.map (fun x => x.audio ++ x.side)))
    { s with asm := { a with hold := xs.map (·.record),
                             counters := { a.counters with sealed := bump a.counters.sealed,
                                                           impaired := bumpBy a.counters.impaired
                                                             (bit (xs.any (fun x => x.flag != .clear)) 1) } } }

/-- Frame `n` sealed as an empty frame: no layout for it is held (R94); every hold record is removed (R97). -/
def sealEmpty (n : FrameNo) (s : State) : State :=
  setSlot n (.sealed n (emptyDirectory (ensembleOf s) n) [])
    { s with asm.hold := [],
             asm.counters := { s.asm.counters with
               sealed := bump s.asm.counters.sealed, empty := bump s.asm.counters.empty,
               ignoredByState := bumpBy s.asm.counters.ignoredByState (waitingArrivals (slotAt s n)) } }

/-- The seal of frame `n` (R94). -/
def sealFrame (n : FrameNo) (s : State) : State :=
  match slotAt s n with
  | .opened m l es => if m = n then sealOpen n l es s else sealEmpty n s
  | _ => sealEmpty n s

/-! ### Production (R83 to R87) -/

/-- A contribution's audio part and void flag, and the queue left (R84). -/
def takeAudio (rate : Nat) (q : List (List Byte)) : List Byte × Bool × List (List Byte) :=
  match q with
  | [] => (List.replicate (5 * rate) 0, true, [])
  | u :: us => (u, false, us)

/-- The side part of a local service's contribution with `c` cells for frame `n` (R85). -/
def fillSide (k : ServiceIx) (cadence c : Nat) (s : State) : State × List Byte :=
  if c = 0 then (s, [])
  else
    let t := requestText cadence s.txc.carousels[k]
    let s1 := modifyCarousel k (fun _ => t.1) s
    let text := t.2.toList
    let p := requestPictures k (c - text.length) [] s1
    let cells := text ++ p.2
    (p.1, (cells ++ List.replicate (c - cells.length) fillCell).flatten)

/-- The contribution is handed to LKP and filed in ASM as this unit's own (R87, R93). -/
def deliver (n : FrameNo) (id : ServiceId) (c : Contribution) (s : State) : State :=
  arrive ⟨selfOf s, n, id, some c⟩ (handIn ⟨.contrib, n, id, contribBytes c⟩ s).1

/-- The last production frame is absent or `n` is later than it (R83). -/
def notProduced (last : Option FrameNo) (n : FrameNo) : Bool := last.all (fun f => later n f)

/-- The contribution of local service `k` for its entry in frame `n` (R84, R85). -/
def produceService (k : ServiceIx) (n : FrameNo) (e : LayoutEntry) (s : State) : State :=
  if notProduced s.cpr.last[k] n then
    let a := takeAudio e.audioRate s.sin.services[k].queue
    let s1 := modifyIntake k (fun x => { x with queue := a.2.2 }) s
    let s2 := { s1 with cpr.last := s1.cpr.last.set k (some n),
                        cpr.counters := modifyAt s1.cpr.counters k (fun c =>
                          { produced := bump c.produced, underruns := bumpBy c.underruns (bit a.2.1 1) }) }
    let s3 := if a.2.1 then raiseFlag .underrun s2 else s2
    let x := fillSide k ((serviceDef s k).map (·.cadence) |>.getD 1) (cellsOf e.side) s3
    deliver n e.id ⟨a.2.1, false, a.1 ++ x.2⟩ x.1
  else s

/-- The message ALC supplies the alert carousel for frame `n`: the own alert that governs it (R129). -/
def suppliedAlert (n : FrameNo) (s : State) : Option AlertMessage :=
  (governingRecord s.alc.table n).bind (fun r =>
    if r.id.unit.toNat = (selfOf s).val then some ⟨r.id, (valuesAt r n).text⟩ else none)

/-- The contribution of the alert channel for its entry in frame `n` (R84, R86). -/
def produceAlert (n : FrameNo) (e : LayoutEntry) (s : State) : State :=
  if notProduced s.cpr.alertLast n then
    let a := if e.audioRate = 0 then ([], false, s.sin.alertQueue) else takeAudio e.audioRate s.sin.alertQueue
    let c := requestAlert (suppliedAlert n s) s.txc.alert
    let s1 := { s with sin.alertQueue := a.2.2, txc.alert := c.1, cpr.alertLast := some n,
                       cpr.alertCounters := { produced := bump s.cpr.alertCounters.produced,
                                              underruns := bumpBy s.cpr.alertCounters.underruns (bit a.2.1 1) } }
    let s2 := if a.2.1 then raiseFlag .underrun s1 else s1
    deliver n e.id ⟨a.2.1, c.2.isEmpty, a.1 ++ (c.2 ++ List.replicate (2 - c.2.length) fillCell).flatten⟩ s2
  else s

/-- One own placed entry produced for frame `n` (R83). -/
def produceEntry (n : FrameNo) (s : State) (e : LayoutEntry) : State :=
  if e.id = alertService (selfOf s).val then produceAlert n e s
  else match serviceIx s e.id with
    | some k => produceService k n e s
    | none => s

/-- CPR's own entries of a layout, in block order (R83). -/
def ownEntries (self : UnitId) (l : Layout) : List LayoutEntry :=
  l.entries.filter (fun e => e.isPlaced && e.owner = self)

/-- Production for frame `n`, whose layout PLE has computed (R83). -/
def produce (n : FrameNo) (s : State) : State :=
  match layoutAt s.ple n with
  | some l => if s.ple.last = some n then (ownEntries (selfOf s) l).foldl (produceEntry n) s else s
  | none => s

/-- PLE's computation of the layout for `n`, and the frame slot it opens (R30, R88). -/
def computeAt (n : FrameNo) (s : State) : State :=
  let c := computeLayout (selfOf s) (claimSet s.pvw.slots n) (governing s.alc.table n)
  let s1 := { s with ple := pleAfter s.ple n c }
  openSlot n c.layout (if c.ownParty then raiseFlag .duplicateId s1 else s1)

/-- The computation at a numbered boundary (R30): none for a frame already computed. -/
def computeStep (now : FrameNo) (s : State) : State :=
  let n := plus now (leadOf s)
  if s.pvw.unit.computing && s.ple.last.all (fun h => later n h) then computeAt n s else s

end Sys2Proof.Machine
end

