-- ==== Sys2Proof/Machine/Transitions.lean ====
section
/-! DEFINITION. PVW's unit state: what it hands LKP, and the changes of state (R59 to R66, R74, R75). -/

namespace Sys2Proof.Machine

/-! ### PRESENCE and the own claim (R74, R75) -/

/-- The ids of every slot that is PRESENT, one bit per unit id (R75, R190). -/
def heardSet (v : Vector PeerSlot 8) : Byte :=
  unitIds.foldl (fun h u => if v[u].state = .present then h ||| (1#8 <<< u.val) else h) 0

/-- The PRESENCE body as PVW sets it at hand-in (R75). -/
def ownPresence (s : State) : List Byte :=
  presenceBytes s.pvw.unit ((s.pvw.ownClaim.map (·.version)).getD 0) (heardSet s.pvw.slots)
    (if streamingValid s then s.pvw.digests.getLast? else none) (ownAlertId s)

/-- PVW hands LKP a PRESENCE; the presence count restarts (R59, R75). -/
def sendPresence (s : State) : State :=
  let t := (handIn ⟨.presence, 0, 0, ownPresence s⟩ s).1
  { t with pvw.presenceCount := 0, progress.presenceSent := true }

/-- The claim entry of a service definition; configured values are in range, so it is not clamped (R74). -/
def entryOfDef (d : ServiceDef) : ClaimEntry :=
  { id := d.id, priority := d.priority, audioRate := d.audioRate, sideRate := d.sideRate, protClass := d.protClass,
    regions := d.regions, label := d.label, clamped := false }

/-- One entry for each configured service whose switch is ON, in the image's order (R74). -/
def claimEntries (s : State) : List ClaimEntry :=
  ((configured s).filter (fun k => s.pvw.switches[k])).filterMap (fun k => (serviceDef s k).map entryOfDef)

/-- PVW hands LKP a CLAIM; the claim count restarts (R74, R75). -/
def sendClaim (c : FramedClaim) (s : State) : State :=
  let t := (handIn ⟨.claim, 0, 0, claimBytes c⟩ s).1
  { t with pvw.claimCount := 0, progress.claimSent := true }

/-- The own slot takes a claim as its pending claim (R74). -/
def pendOwn (c : FramedClaim) : State → State := fun s =>
  modifyPeer (selfOf s)
    (fun p => { p with waiting := some c, state := if p.state = .absent then .heard else p.state }) s

/-- The claim that PVW issues at now (R74). -/
def newClaim (now : FrameNo) (s : State) : FramedClaim :=
  ⟨s.pvw.version + 1, plus now (2 * leadOf s + 2), claimEntries s⟩

/-- PVW issues a new own claim (R74). -/
def issueClaim (now : FrameNo) (s : State) : State :=
  let c := newClaim now s
  sendClaim c (pendOwn c
    { s with pvw.version := c.version, pvw.ownClaim := some c,
             pvw.counters.claimsIssued := bump s.pvw.counters.claimsIssued })

/-! ### Entries to the unit states -/

/-- PVW's own items and table cleared (R61, R81). -/
def clearView (s : State) : State :=
  { s with pvw := { s.pvw with
      listenCount := 0, joinFrame := none, peerMark := false, echoMark := false, peerWaiver := false,
      presenceCount := 0, claimCount := 0, rejoinHold := 25, ownClaim := none, digests := [],
      slots := mapAll (fun p => .absent p.counters) s.pvw.slots } }

def setUnit (u : UnitState) (s : State) : State := { s with pvw.unit := u }

/-- What REJOIN and a jump do to every block but the unit state (R11, R56, R61, R100, R173). -/
def clearForListen (s : State) : State :=
  removeByState claimOrContrib (clearStore (emptyChain (emptyAlerts (dropLocal (clearView s)))))

/-- Entry to LISTEN, from any state and for any cause (R61). -/
def enterListen (s : State) : State :=
  sendPresence (clearForListen (setUnit .listen (cutFrame s)))

/-- What entry to CLASH and entry to OFF_AIR share (R12, R35, R56, R100, R162). -/
def fallSilent (u : UnitState) (s : State) : State :=
  removeByState (fun _ => true) (clearStore (emptyChain (dropLocal (setUnit u (cutFrame s)))))

/-- Entry to CLASH (R65). -/
def enterClash (s : State) : State :=
  let t := fallSilent .clash s
  { t with pvw.counters.toClash := bump t.pvw.counters.toClash, sup.lifetime.clashes := bump t.sup.lifetime.clashes }

/-- Entry to OFF_AIR (R66). -/
def enterOffAir (s : State) : State :=
  let t := fallSilent .offAir s
  { t with pvw.counters.toOffAir := bump t.pvw.counters.toOffAir }

/-- No slot but the own one is HEARD, PRESENT or SILENT (R64). -/
def noPeer (s : State) : Bool := unitIds.all (fun u => u = selfOf s || s.pvw.slots[u].state = .absent)

/-- Entry to ISOLATED (R64). -/
def enterIsolated (s : State) : State :=
  sendPresence (raiseFlag .linkIsolated
    { s with pvw := { s.pvw with unit := .isolated, peerMark := false, echoMark := false, peerWaiver := noPeer s,
                                 counters.toIsolated := bump s.pvw.counters.toIsolated } })

/-- Entry to JOINING: the first claim goes out, J is its effective frame, and every class is served from now on (R40,
R53, R62). -/
def enterJoining (now : FrameNo) (s : State) : State :=
  let t := issueClaim now s
  sendPresence (serve
    { t with pvw := { t.pvw with unit := .joining, joinFrame := t.pvw.ownClaim.map (·.frame),
                                 counters.toJoining := bump t.pvw.counters.toJoining } })

/-- Entry to ON_AIR (R63). -/
def enterOnAir (s : State) : State :=
  sendPresence { s with pvw := { s.pvw with unit := .onAir, counters.toOnAir := bump s.pvw.counters.toOnAir } }

/-- The unit states that a jump notice takes to LISTEN (R11). -/
def jumpsToListen : UnitState → Bool
  | .listen | .joining | .onAir | .isolated | .offAir => true
  | .loading | .halted | .clash => false

/-- A jump notice at every block (R11). -/
def jumpEffects (s : State) : State := if jumpsToListen s.pvw.unit then enterListen s else clearForListen s

/-- The echo mark with the peer mark or the peer waiver: the link has returned (R64). -/
def linkReturn (s : State) : State :=
  if s.pvw.unit = .isolated && s.pvw.echoMark && (s.pvw.peerMark || s.pvw.peerWaiver) then enterListen s else s

/-- A slot's LISTEN count goes to 0 at once when the reference or the receiver leaves LOCKED (R62). -/
def breakListen (s : State) : State :=
  if s.pvw.unit = .listen then { s with pvw.listenCount := 0 } else s

end Sys2Proof.Machine
end

