-- ==== Sys2Proof/Machine/View.lean ====
section
/-! DEFINITION. PVW's peer table (R67 to R73, R76, R79): PRESENCE, CLAIM, silence, removal, claims in force. -/

namespace Sys2Proof.Machine

/-! ### Removals (R69, R70, R71) -/

/-- A removal frame that must be later than now + L, or becomes now + L + 1 (R69, R70). -/
def removalFrom (now : FrameNo) (lead : Nat) (f : FrameNo) : FrameNo :=
  if later f (plus now lead) then f else plus now (lead + 1)

/-- A removal scheduled for a slot, and ALC told: a frame already held is kept when it is reached first (R69, R70,
R71, log 18). -/
def schedule (u : UnitId) (f : FrameNo) (s : State) : State :=
  if s.pvw.slots[u].removal.all (fun g => later g f) then
    noticeRemoval u f (modifyPeer u (fun p => { p with removal := some f }) s)
  else s

/-- A slot is tested for silence at now (R69). -/
def silenceDue (now : FrameNo) (p : PeerSlot) : Bool :=
  (p.state = .heard || p.state = .present) && p.stamp.any (fun t => later now (plus t 25))

/-- A slot falls silent (R69). -/
def goSilent (u : UnitId) (now : FrameNo) (s : State) : State :=
  match s.pvw.slots[u].stamp with
  | none => s
  | some t =>
    schedule u (removalFrom now (leadOf s) (plus t (leadOf s + 27)))
      (raiseFlag .peerSilent (modifyPeer u (fun p =>
        { p with state := .silent, counters.silences := bump p.counters.silences }) s))

/-- A slot whose removal frame is reached becomes ABSENT, and ALC's entry for it is cleared (R73, R168, log 21). -/
def removeSlot (u : UnitId) (s : State) : State :=
  let t := modifyPeer u (fun p => .absent p.counters) s
  { t with alc.removals := t.alc.removals.set u none }

/-- A pending claim is put in force (R73). -/
def putInForce (p : PeerSlot) : PeerSlot :=
  match p.waiting with
  | none => p
  | some c => { p with inForce := some ⟨c.version, c.entries⟩, waiting := none,
                       state := if p.state = .heard then .present else p.state }

/-! ### PRESENCE (R68, R70, R76, R79) -/

/-- The announced version differs from the version in force and from the pending one (R68). -/
def missesClaim (p : PeerSlot) (v : Byte) : Bool :=
  p.inForce.all (fun c => c.version != v) && p.waiting.all (fun c => c.version != v)

/-- The slot state after a PRESENCE, before the withdrawal test (R68). -/
def heardState : SlotState → SlotState
  | .absent => .heard
  | .heard => .heard
  | .present => .present
  | .silent => .heard

/-- A slot takes a PRESENCE's fields (R68). -/
def storePresence (st : UnitState) (b : PresenceBody) (p : PeerSlot) : PeerSlot :=
  { p with state := heardState p.state, reported := some st, announced := b.version, heardSet := b.heard,
           holdover := b.holdover, alertId := b.alertId, stamp := b.stamp.or p.stamp, digest := b.digest.or p.digest,
           counters.missed := bumpBy p.counters.missed (bit (missesClaim p b.version) 1) }

/-- A PRESENCE showing LISTEN is a withdrawal (R70). -/
def withdraws (p : PeerSlot) (st : UnitState) : Bool :=
  st = .listen && (p.state = .present || (p.state = .heard && p.waiting.isSome))

/-- A withdrawal (R70). -/
def withdraw (u : UnitId) (stamp : Option FrameNo) (s : State) : State :=
  let t := modifyPeer u (fun p => { p with state := .heard, counters.withdrawals := bump p.counters.withdrawals }) s
  match s.ftu.now, stamp with
  | some n, _ => schedule u (removalFrom n (leadOf s) (plus (stamp.getD n) (leadOf s + 2))) t
  | none, some f => schedule u (plus f (leadOf s + 2)) t
  | none, none => t

/-- The digest of a PRESENCE compared with the history (R79). -/
def compareDigest (u : UnitId) (d : Option (FrameNo × BitVec 16)) (s : State) : State :=
  match d.bind (fun x => (s.pvw.digests.find? (fun y => y.1 = x.1)).map (fun y => decide (y.2 = x.2))) with
  | none => s
  | some true => modifyPeer u (fun p => { p with diverged := false }) s
  | some false =>
    raiseFlag .viewDiverged (modifyPeer u (fun p =>
      { p with diverged := true, counters.divergences := bump p.counters.divergences }) s)

/-- The rejoin condition (R76). -/
def rejoinDue (u : UnitId) (st : UnitState) (b : PresenceBody) (s : State) : Bool :=
  s.pvw.unit = .onAir && s.pvw.slots[u].state = .present && (st = .joining || st = .onAir || st = .isolated) &&
    !b.heard.getLsbD (selfOf s).val && s.pvw.rejoinHold = 25 &&
    b.stamp.any (fun f => s.pvw.ownClaim.any (fun c => !later c.frame f))

/-- The rejoin test (R76). -/
def rejoinTest (u : UnitId) (st : UnitState) (b : PresenceBody) (s : State) : State :=
  match s.ftu.now with
  | none => s
  | some n =>
    if rejoinDue u st b s then
      issueClaim n { s with pvw.rejoinHold := 0, pvw.counters.rejoinClaims := bump s.pvw.counters.rejoinClaims }
    else s

/-- A packet LKP hands on in CLASH or OFF_AIR (R65, R66). -/
def ignorePacket (s : State) : State :=
  { s with pvw.counters.ignoredByState := bump s.pvw.counters.ignoredByState }

/-- A PRESENCE whose unit state field is good, at the sender's slot (R68; an ABSENT slot and no stamp: log 16). -/
def meetPresence (u : UnitId) (st : UnitState) (b : PresenceBody) (s : State) : State :=
  let p := s.pvw.slots[u]
  if p.state = .absent && b.stamp.isNone then s
  else
    let t := modifyPeer u (storePresence st b) s
    rejoinTest u st b (compareDigest u b.digest (if withdraws p st then withdraw u b.stamp t else t))

/-- A PRESENCE from unit `u`, handed on by LKP (R68, R169). -/
def takePresence (u : UnitId) (body : List Byte) (s : State) : State :=
  let b := parsePresence body
  if !s.pvw.unit.viewing then ignorePacket s
  else match b.unit with
    | none => { s with pvw.counters.badPresences := bump s.pvw.counters.badPresences }
    | some st => noteAnnounced b.alertId (meetPresence u st b s)

/-! ### CLAIM (R71, R72) -/

/-- The version equals the one in force or the pending one (R71). -/
def isRefresh (p : PeerSlot) (v : Byte) : Bool := !missesClaim p v

/-- A claim taken at once in LISTEN (R71); it counts as accepted (log 38). -/
def takeAtOnce (c : FramedClaim) (p : PeerSlot) : PeerSlot :=
  { p with inForce := some ⟨c.version, c.entries⟩, waiting := none, removal := none, state := .present,
           counters.accepted := bump p.counters.accepted }

/-- A claim accepted as pending; `cancel` when it cancels the slot's removal (R71). -/
def acceptPending (c : FramedClaim) (cancel : Bool) (p : PeerSlot) : PeerSlot :=
  { p with waiting := some c, removal := if cancel then none else p.removal,
           state := if cancel && p.state = .silent then .heard else p.state,
           counters.accepted := bump p.counters.accepted }

/-- ALC is told of a cancellation (R71, R168). -/
def tellCancelled (u : UnitId) (cancel : Bool) (s : State) : State := if cancel then noticeCancelled u s else s

/-- A new version at a slot that is not ABSENT (R71). -/
def newVersion (u : UnitId) (c : FramedClaim) (s : State) : State :=
  let p := s.pvw.slots[u]
  if s.pvw.unit = .listen then tellCancelled u p.removal.isSome (modifyPeer u (takeAtOnce c) s)
  else if beyondLead s c.frame then
    let cancel := p.removal.any (fun r => !later c.frame r)
    tellCancelled u cancel (modifyPeer u (acceptPending c cancel) s)
  else
    raiseFlag .claimStale (modifyPeer u (fun p => { p with counters.stale := bump p.counters.stale }) s)

/-- A CLAIM from unit `u`, handed on by LKP (R71). -/
def takeClaim (u : UnitId) (body : List Byte) (s : State) : State :=
  let c := parseClaim body
  let p := s.pvw.slots[u]
  if !s.pvw.unit.viewing then ignorePacket s
  else if p.state = .absent then { s with pvw.counters.absentClaims := bump s.pvw.counters.absentClaims }
  else if isRefresh p c.version then
    modifyPeer u (fun p => { p with counters.refreshes := bump p.counters.refreshes }) s
  else newVersion u c s

end Sys2Proof.Machine
end

