-- ==== Sys2Proof/Machine/Link.lean ====
section
/-! DEFINITION. LKP's receive side (R41 to R48). -/

namespace Sys2Proof.Machine

/-! ### Hunting and keeping lock (R41 to R43) -/

/-- A packet read whole while hunting, `inner` its bytes behind the sync pair; the second in a row brings the lock
(R41). -/
def huntPacket (inner : List Byte) (s : State) : State :=
  let t := { s with lkp.counters.huntDiscards := bump s.lkp.counters.huntDiscards }
  if s.lkp.huntCount + 1 < 2 then { t with lkp.huntCount := s.lkp.huntCount + 1, lkp.held := inner }
  else { t with lkp.receiver := .locked, lkp.huntCount := 0, lkp.held := [], lkp.failures := 0, lkp.nextKnown := true }

/-- The run of good packets breaks while hunting (R41). -/
def huntBroken (s : State) : State := { s with lkp.huntCount := 0, lkp.held := [] }

/-- The receiver goes from LOCKED to HUNT (R42, R62). -/
def loseSync (s : State) : State :=
  raiseFlag .linkSyncLost (breakListen
    { s with lkp.receiver := .hunt, lkp.huntCount := 0, lkp.held := [], lkp.nextKnown := false,
             lkp.counters.syncLosses := bump s.lkp.counters.syncLosses })

/-- A header failure in LOCKED: a failed check, or a malformed header (R42, R43). -/
def headerFailure (s : State) : State :=
  let n := upTo 3 s.lkp.failures
  let t := { s with lkp.failures := n, lkp.nextKnown := false,
                    lkp.counters.headerFailures := bump s.lkp.counters.headerFailures }
  if n = 3 then loseSync t else t

/-- A malformed header is counted in its sender's record when the sender id is 0 to 7 (R43). -/
def malformedFrom (sender : Byte) (s : State) : State :=
  if h : sender.toNat < 8 then
    modifySender ⟨sender.toNat, h⟩ (fun r => { r with headerErrors := bump r.headerErrors }) s
  else s

/-! ### Sorting (R44 to R48) -/

/-- A foreign packet (R44). -/
def isForeign (p : LinkPacket) (s : State) : Bool := p.ensemble != ensembleOf s || p.lead != byteOf (leadOf s)

def foreignPacket (s : State) : State :=
  raiseFlag .paramMismatch { s with lkp.counters.foreign := bump s.lkp.counters.foreign }

/-- The packet equals an entry of the echo list; `check` is the header check value received (R45). -/
def isEcho (check : BitVec 16) (p : LinkPacket) (s : State) : Bool := s.lkp.echoes.contains (p.seq, check)

/-- The body's CRC-32 is the body check received (R47). -/
def bodyCheckGood (p : LinkPacket) : Bool := p.bodyCheck = crc32 p.body

/-- An isolation mark is set while the unit is ISOLATED (R64). -/
def markEcho (s : State) : State := if s.pvw.unit = .isolated then { s with pvw.echoMark := true } else s

@[inherit_doc markEcho]
def markPeer (s : State) : State := if s.pvw.unit = .isolated then { s with pvw.peerMark := true } else s

/-- An echo (R45): its body check is still tested. -/
def takeEcho (p : LinkPacket) (s : State) : State :=
  let t := modifySender (selfOf s) (fun r => { r with bodyErrors := bumpBy r.bodyErrors (bit (!bodyCheckGood p) 1) }) s
  linkReturn (markEcho
    { t with lkp.echoAge := 0, lkp.counters.echoes := bump t.lkp.counters.echoes })

/-- A clash (R45), reported to PVW (R65). -/
def takeClash (s : State) : State :=
  let t := raiseFlag .idClash { s with lkp.counters.clashes := bump s.lkp.counters.clashes }
  if t.pvw.unit.viewing then enterClash t else t

/-- The sequence test (R46). -/
def testSequence (q : Byte) (r : SenderRecord) : SenderRecord :=
  { r with last := some q, gaps := bumpBy r.gaps (bit (r.last.any (fun l => q != l + 1)) 1) }

/-- A body error counted in the sender's record (R47). -/
def bodyError (u : UnitId) : State → State :=
  modifySender u (fun r => { r with bodyErrors := bump r.bodyErrors })

/-- A valid packet: the peer age, the sender's count, and the peer mark (R48, R64; the return of the link comes before
the packet is handed on, log 26). -/
def noteValid (u : UnitId) (s : State) : State :=
  let t := modifySender u (fun r => { r with packets := bump r.packets }) s
  linkReturn (markPeer { t with lkp.peerAge := 0 })

/-- A packet handed on by kind; `good` says its body is (R48). -/
def handOn (k : Kind) (u : UnitId) (p : LinkPacket) (good : Bool) : State → State :=
  match k with
  | .presence => takePresence u p.body
  | .claim => takeClaim u p.body
  | .contrib => arrive ⟨u, p.frameTag, p.serviceTag, if good then some (parseContrib p.body) else none⟩
  | .alert => takeAlert u p.body
  | .alertEnd => takeAlertEnd u p.body

/-- The body is good and its contents hold together (R47). -/
def bodyGood (k : Kind) (p : LinkPacket) : Bool := bodyCheckGood p && bodyHolds k p.body

/-- A packet from another unit (R46 to R48). -/
def peerPacket (k : Kind) (u : UnitId) (p : LinkPacket) (s : State) : State :=
  let t := modifySender u (testSequence p.seq) s
  if bodyGood k p then handOn k u p true (noteValid u t)
  else if k = .contrib then handOn k u p false (noteValid u (bodyError u t))
  else bodyError u t

/-- A packet whose header, with the check value `check`, is good and well formed (R44, R45, R46). -/
def sortPacket (k : Kind) (check : BitVec 16) (p : LinkPacket) (s : State) : State :=
  if isForeign p s then foreignPacket s
  else if p.sender.toNat = (selfOf s).val then (if isEcho check p s then takeEcho p s else takeClash s)
  else peerPacket k (Fin.ofNat 8 p.sender.toNat) p s

/-- A good header in LOCKED (R42). -/
def headerGood (s : State) : State := { s with lkp.failures := 0, lkp.nextKnown := true }

/-! ### The receive line byte by byte (R41, R42) -/

/-- The packet at the head of `f`, whose header is good and well formed, is sorted by what of it is there (R42, R43,
log 23). -/
def sortAt (f : List Byte) (s : State) : State :=
  match kindOfCode (byteAt f 5) with
  | some k => sortPacket k (half f 15) (linkPacketAt f) (headerGood s)
  | none => s

/-- A hunting receiver at the sync pair that begins `f`: a good header counts and its body and body check are skipped;
else scanning resumes behind the pair (R41). Only a packet whose header check is good is a hunt discard (log 37). -/
def linkHuntAt (f : List Byte) (s : State) : Turn :=
  if f = [] then ⟨s, none⟩
  else if linkHeaderGood f then ⟨huntPacket (slice f 2 (19 + linkLength f)) s, some (f.drop (21 + linkLength f))⟩
  else ⟨huntBroken s, some (f.drop 2)⟩

/-- A LOCKED receiver at the sync pair that begins `f` (R42, R43): behind a failed or malformed header scanning begins at
the byte behind the sync pair, for a hunt after the third such header too (log 75). -/
def linkLockedAt (f : List Byte) (s : State) : Turn :=
  if f = [] then ⟨s, none⟩
  else if !linkHeaderGood f then ⟨headerFailure s, some (f.drop 2)⟩
  else if !linkHeaderForm f then ⟨headerFailure (malformedFrom (byteAt f 6) s), some (f.drop 2)⟩
  else ⟨sortAt f s, some (f.drop (21 + linkLength f))⟩

/-- A turn of a hunting receiver: it scans for a sync pair, or finds the next packet, or not, where it must start
(R41). -/
def linkHuntTurn (bs : List Byte) (s : State) : Turn :=
  let next := skipIdle 0x00 bs
  if s.lkp.huntCount = 0 then linkHuntAt (seekPair 0x6E 0x93 bs) s
  else if next = [] then ⟨{ s with lkp.held := s.lkp.held ++ bs }, none⟩
  else if hasLinkSync next then linkHuntAt next s
  else ⟨huntBroken s, some (s.lkp.held ++ bs)⟩

/-- A turn of a LOCKED receiver: a missing sync is tested only where the next start is known (R42). -/
def linkLockedTurn (bs : List Byte) (s : State) : Turn :=
  let next := skipIdle 0x00 bs
  if !s.lkp.nextKnown then linkLockedAt (seekPair 0x6E 0x93 bs) s
  else if next = [] then ⟨s, none⟩
  else if hasLinkSync next then linkLockedAt next s
  else ⟨loseSync s, some next⟩

/-- A turn of the receiver. -/
def linkTurn (bs : List Byte) (s : State) : Turn :=
  match s.lkp.receiver with
  | .hunt => linkHuntTurn bs s
  | .locked => linkLockedTurn bs s

/-- The receiver reads bytes, turn by turn. -/
def readLine (bs : List Byte) (s : State) : State := runTurns linkTurn (turnsFor s.lkp.held bs) bs s

/-! ### Whole packets and the receive commands -/

/-- A packet of kind `k` with a good header check arrives (R40 to R48): a hunting receiver counts it toward the lock
(log 25), and behind the sync pair of a malformed one a LOCKED receiver reads on for the next sync pair (R43). -/
def receive (k : Kind) (p : LinkPacket) (s : State) : State :=
  if !s.pvw.unit.running then s
  else match s.lkp.receiver with
    | .hunt => huntPacket (linkInner k p) s
    | .locked =>
      if headerWellFormed k p then sortPacket k (headerCheck k p) p (headerGood s)
      else readLine (linkInner k p) (headerFailure (malformedFrom p.sender s))

/-- Bytes on the receive line; a receiver in LOADING or HALTED takes none (R40). -/
def receiveBytes (bs : List Byte) (s : State) : State := if s.pvw.unit.running then readLine bs s else s

/-- LINK_HUNT_PACKET (R41): the receiver reads the bytes in the state it is in (log 51). -/
def linkHunt (bs : List Byte) (s : State) : State := receiveBytes bs s

/-- LINK_HEADER_FAILED (R42): the receiver reads the bytes in the state it is in (log 51). -/
def linkFailed (bs : List Byte) (s : State) : State := receiveBytes bs s

/-- TRANSMIT_DONE: the transmitter is free, and the arbiter picks again at once (R53). -/
def transmitterFree (s : State) : State := arbitrate { s with lkp.transmitting := none }

end Sys2Proof.Machine
end

