-- ==== Sys2Proof/Machine/Intake.lean ====
section
/-! DEFINITION. SIN (chapter 6): feed ports, selection, and the audio queues. -/

namespace Sys2Proof.Machine

/-! ### Port states (R101 to R106) -/

/-- The port takes bytes: none in LOADING, in HALTED, or DISABLED (R101). -/
def portTakes (s : State) (p : PortId) : Bool := s.pvw.unit.running && s.sin.ports[p].state != .disabled

/-- The service place of a number of the image's order. -/
def ixOf (k : Nat) : Option ServiceIx := if h : k < 5 then some ⟨k, h⟩ else none

def onIntake (k : Nat) (f : Intake → Intake) (s : State) : State :=
  match ixOf k with
  | some i => modifyIntake i f s
  | none => s

/-- A port enters LOCKED: its service's down count goes to 0 at once (R109). -/
def lockSeen (p : PortId) (s : State) : State :=
  match roleOf s p with
  | .main k => onIntake k (fun x => { x with mainDown := 0 }) s
  | .backup k => onIntake k (fun x => { x with backupDown := 0 }) s
  | _ => s

/-- A port leaves LOCKED: a main port's up count goes to 0 at once (R109). -/
def unlockSeen (p : PortId) (s : State) : State :=
  match roleOf s p with
  | .main k => onIntake k (fun x => { x with mainUp := 0 }) s
  | _ => s

/-- A packet read whole while hunting, `inner` its bytes behind the sync pair; the second in a row brings the lock
(R102). -/
def feedHuntGood (p : PortId) (inner : List Byte) (s : State) : State :=
  let n := s.sin.ports[p].huntCount + 1
  let t := modifyPort p (fun x => { x with counters.huntDiscards := bump x.counters.huntDiscards }) s
  if n < 2 then modifyPort p (fun x => { x with huntCount := n, held := inner }) t
  else lockSeen p (modifyPort p (fun x =>
    { x with state := .locked, huntCount := 0, held := [], failures := 0, nextKnown := true }) t)

/-- The run of good packets breaks while hunting (R102). -/
def feedHuntBroken (p : PortId) : State → State := modifyPort p (fun x => { x with huntCount := 0, held := [] })

/-- A packet fails in LOCKED (R103). -/
def feedFailure (p : PortId) (s : State) : State :=
  let n := s.sin.ports[p].failures + 1
  let t := modifyPort p (fun x => { x with nextKnown := false, counters.failed := bump x.counters.failed }) s
  if n < 3 then modifyPort p (fun x => { x with failures := n }) t
  else unlockSeen p (modifyPort p (fun x =>
    { x with state := .hunt, huntCount := 0, held := [], failures := 0,
             counters.syncLosses := bump x.counters.syncLosses }) t)

/-- The first sync pair found by a LOST port (R105). -/
def feedFound (p : PortId) : State → State := modifyPort p (fun x => { x with state := .hunt, idleCount := 0 })

/-- Bytes other than idle fill make the port active (R105, R193). -/
def markActive (p : PortId) (bs : List Byte) (s : State) : State :=
  if bs.any (· != 0xFF#8) then modifyPort p (fun x => { x with active := true }) s else s

/-! ### The alert and service audio queues (R112 to R114) -/

/-- A queue of 16 with a newest unit (R113). -/
def pushUnit (u : List Byte) (q : List (List Byte)) : List (List Byte) :=
  if q.length < 16 then q ++ [u] else q.drop 1 ++ [u]

/-- An AUDIO packet for service `k` (R112, R113). -/
def takeAudioFor (k : ServiceIx) (body : List Byte) (s : State) : State :=
  match serviceDef s k with
  | none => s
  | some d =>
    if body.length ≠ 5 * d.audioRate then
      modifyIntake k (fun x => { x with counters.lengthRefusals := bump x.counters.lengthRefusals }) s
    else
      let full := 16 ≤ s.sin.services[k].queue.length
      let t := modifyIntake k (fun x =>
        { x with queue := pushUnit body x.queue,
                 counters := { x.counters with accepted := bump x.counters.accepted,
                                               overruns := bumpBy x.counters.overruns (bit full 1) } }) s
      if full then raiseFlag .overrun t else t

/-- An AUDIO packet from the ALERT port (R114). -/
def takeAlertAudio (body : List Byte) (s : State) : State :=
  let rate := (s.cfl.image.map (·.alertAudioRate)).getD 0
  let c := s.sin.alertCounters
  if rate = 0 || body.length ≠ 5 * rate then
    { s with sin.alertCounters.lengthRefusals := bump c.lengthRefusals }
  else
    let full := 16 ≤ s.sin.alertQueue.length
    let live := isLive s.alc.localAlert.state
    let t := { s with sin.alertQueue := pushUnit body s.sin.alertQueue,
                      sin.alertCounters := { c with accepted := bump c.accepted,
                                                    overruns := bumpBy c.overruns (bit (full && live) 1),
                                                    aged := bumpBy c.aged (bit (full && !live) 1) } }
    if full && live then raiseFlag .overrun t else t

/-! ### Which packets are taken (R104, R107, R108) -/

def bumpKind (k : FeedKind) (c : KindCounts) : KindCounts :=
  match k with
  | .audio => { c with audio := bump c.audio }
  | .textSet => { c with textSet := bump c.textSet }
  | .textClear => { c with textClear := bump c.textClear }
  | .picBegin => { c with picBegin := bump c.picBegin }
  | .picData => { c with picData := bump c.picData }
  | .picEnd => { c with picEnd := bump c.picEnd }
  | .picDelete => { c with picDelete := bump c.picDelete }
  | .alertReq => { c with alertReq := bump c.alertReq }
  | .alertClear => { c with alertClear := bump c.alertClear }
  | .fill => { c with fill := bump c.fill }

def countPort (p : PortId) (f : PortCounters → PortCounters) : State → State :=
  modifyPort p (fun x => { x with counters := f x.counters })

/-- The port's content is in use (R107). -/
def inUse (s : State) (p : PortId) : Bool :=
  match roleOf s p with
  | .alert => true
  | .main k => (ixOf k).any (fun i => s.sin.services[i].selection = .onMain)
  | .backup k => (ixOf k).any (fun i => s.sin.services[i].selection = .onBackup)
  | .unused => false

def misplaced (p : PortId) (k : FeedKind) : State → State :=
  countPort p (fun c => { c with misplaced := bumpKind k c.misplaced })

def fillPacket (p : PortId) : State → State := countPort p (fun c => { c with fills := bump c.fills })

/-- A taken packet from a MAIN or BACKUP port of service `k` (R108). -/
def forService (i : ServiceIx) (p : PortId) (k : FeedKind) (body : List Byte) (s : State) : State :=
  match k with
  | .audio => takeAudioFor i body s
  | .textSet => takeTextSet i (keyOf s p) body s
  | .textClear => takeTextClear i (keyOf s p) body s
  | .picBegin => takePicBegin i p (keyOf s p) body s
  | .picData => takePicData i p body s
  | .picEnd => takePicEnd i p body s
  | .picDelete => takePicDelete i (keyOf s p) body s
  | .alertReq => misplaced p k s
  | .alertClear => misplaced p k s
  | .fill => fillPacket p s

/-- A taken packet from the ALERT port (R108). -/
def forAlert (p : PortId) (k : FeedKind) (body : List Byte) (s : State) : State :=
  match k with
  | .audio => takeAlertAudio body s
  | .alertReq => takeAlertReq body s
  | .alertClear => takeAlertClear s
  | .fill => fillPacket p s
  | .textSet => misplaced p k s
  | .textClear => misplaced p k s
  | .picBegin => misplaced p k s
  | .picData => misplaced p k s
  | .picEnd => misplaced p k s
  | .picDelete => misplaced p k s

/-- A taken packet handed on by its kind and its port's role (R108). -/
def dispatchFeed (p : PortId) (k : FeedKind) (body : List Byte) (s : State) : State :=
  match roleOf s p with
  | .alert => forAlert p k body s
  | .main n => match ixOf n with
    | some i => forService i p k body s
    | none => s
  | .backup n => match ixOf n with
    | some i => forService i p k body s
    | none => s
  | .unused => s

/-- A well-formed packet (R107). -/
def wellFormedFeed (p : PortId) (k : FeedKind) (body : List Byte) (s : State) : State :=
  if inUse s p then
    dispatchFeed p k body (countPort p (fun c => { c with taken := bumpKind k c.taken }) s)
  else countPort p (fun c => { c with standby := bumpKind k c.standby }) s

/-- A packet with a good check in LOCKED (R103, R104). -/
def goodFeed (p : PortId) (code : Byte) (body : List Byte) (s : State) : State :=
  let t := modifyPort p (fun x => { x with failures := 0, nextKnown := true }) s
  match feedKindOf code with
  | none => countPort p (fun c => { c with malformed := bump c.malformed }) t
  | some k =>
    if k.lengthOk body.length then wellFormedFeed p k body t
    else countPort p (fun c => { c with malformed := bump c.malformed }) t

/-! ### The bytes of a port, one by one (R102, R103, R105) -/

/-- A hunting port at the sync pair that begins `f`: a packet with a good check counts; else scanning resumes behind
the pair (R102). Only a packet whose check is good is a hunt discard (log 37). -/
def feedHuntAt (p : PortId) (f : List Byte) (s : State) : Turn :=
  if f = [] then ⟨s, none⟩
  else if feedGood f then ⟨feedHuntGood p (slice f 2 (5 + feedLength f)) s, some (f.drop (7 + feedLength f))⟩
  else ⟨feedHuntBroken p s, some (f.drop 2)⟩

/-- A LOCKED port at the sync pair that begins `f`: a good packet is taken, a failed one counted and scanned on from
behind its pair (R103). -/
def feedLockedAt (p : PortId) (f : List Byte) (s : State) : Turn :=
  if f = [] then ⟨s, none⟩
  else if feedGood f then
    ⟨goodFeed p (byteAt f 2) (slice f 5 (feedLength f)) s, some (f.drop (7 + feedLength f))⟩
  else ⟨feedFailure p s, some (f.drop 2)⟩

/-- A turn of a port in HUNT: it scans for a sync pair, or finds the next packet, or not, at its expected start
(R102). -/
def feedHuntTurn (p : PortId) (bs : List Byte) (s : State) : Turn :=
  let next := skipIdle 0xFF bs
  let x := s.sin.ports[p]
  if x.huntCount = 0 then feedHuntAt p (seekPair 0xB7 0x4E bs) s
  else if next = [] then ⟨modifyPort p (fun x => { x with held := x.held ++ bs }) s, none⟩
  else if hasFeedSync next then feedHuntAt p next s
  else ⟨feedHuntBroken p s, some (x.held ++ bs)⟩

/-- A turn of a port in LOST: the first sync pair takes it to HUNT, and the header behind it is read there (R105). -/
def feedLostTurn (p : PortId) (bs : List Byte) (s : State) : Turn :=
  if seekPair 0xB7 0x4E bs = [] then ⟨s, none⟩ else feedHuntAt p (seekPair 0xB7 0x4E bs) (feedFound p s)

/-- A turn of a LOCKED port: a missing sync is a failed packet where the next start is known (R103). -/
def feedLockedTurn (p : PortId) (bs : List Byte) (s : State) : Turn :=
  let next := skipIdle 0xFF bs
  if !s.sin.ports[p].nextKnown then feedLockedAt p (seekPair 0xB7 0x4E bs) s
  else if next = [] then ⟨s, none⟩
  else if hasFeedSync next then feedLockedAt p next s
  else ⟨feedFailure p s, some next⟩

/-- A turn of a port. -/
def feedTurn (p : PortId) (bs : List Byte) (s : State) : Turn :=
  match s.sin.ports[p].state with
  | .disabled => ⟨s, none⟩
  | .hunt => feedHuntTurn p bs s
  | .lost => feedLostTurn p bs s
  | .locked => feedLockedTurn p bs s

/-- The port reads bytes, turn by turn. -/
def readPort (p : PortId) (bs : List Byte) (s : State) : State :=
  runTurns (feedTurn p) (turnsFor s.sin.ports[p].held bs) bs s

/-- Bytes on a port that takes bytes (R101 to R105). -/
def feedBytes (p : PortId) (bs : List Byte) (s : State) : State :=
  if portTakes s p then readPort p bs (markActive p bs s) else s

/-- FEED_HUNT_PACKET (R102, R105): the port reads the bytes in the state it is in (log 51). -/
def feedHunt (p : PortId) (bs : List Byte) (s : State) : State := feedBytes p bs s

/-- FEED_PACKET_FAILED (R103): the port reads the bytes in the state it is in (log 51). -/
def feedFail (p : PortId) (bs : List Byte) (s : State) : State := feedBytes p bs s

/-- A packet whose check is good, at a port that takes bytes (R102 to R105). One whose length field is above 1,920 is
found too long, and its bytes are read on as any others. -/
def feedPacket (p : PortId) (code : Byte) (body : List Byte) (s : State) : State :=
  if !portTakes s p then s
  else if 1920 < body.length then feedBytes p ([0xB7, 0x4E] ++ feedInner code body) s
  else
    let t := modifyPort p (fun x => { x with active := true }) s
    match s.sin.ports[p].state with
    | .hunt => feedHuntGood p (feedInner code body) t
    | .lost => feedHuntGood p (feedInner code body) (feedFound p t)
    | .locked => goodFeed p code body t
    | .disabled => s

/-! ### At a boundary (R105, R109 to R111) -/

/-- The activity test of a port (R105). -/
def testActivity (p : PortId) (s : State) : State :=
  if portTakes s p then
    modifyPort p (fun x => { x with idleCount := if x.active then 0 else upTo 8 x.idleCount, active := false }) s
  else s

/-- A port's idle count has reached 8 in HUNT or LOCKED (R105). -/
def lossDue (s : State) (p : PortId) : Bool :=
  let x := s.sin.ports[p]
  s.pvw.unit.running && x.idleCount == 8 && (x.state = .hunt || x.state = .locked)

/-- Entry to LOST, and the loss notice to PIC and ALC (R105, R140, R154). -/
def losePort (p : PortId) (s : State) : State :=
  let t := raiseFlag .feedLost (unlockSeen p (modifyPort p (fun x =>
    { x with state := .lost, huntCount := 0, held := [], failures := 0, nextKnown := false,
             counters.losts := bump x.counters.losts }) s))
  let u := loseLoads p t
  if roleOf s p = .alert then alertFeedLost u else u

def portLocked (s : State) (p : Option PortId) : Bool := p.any (fun q => s.sin.ports[q].state = .locked)

/-- The three counts of a service (R109). -/
def countSelection (k : ServiceIx) (s : State) : State :=
  let m := portLocked s (mainPort s k)
  let b := portLocked s (backupPort s k)
  let hasBackup := (backupPort s k).isSome
  if s.pvw.unit.running then
    modifyIntake k (fun x =>
      { x with mainDown := if m then 0 else upTo 8 x.mainDown, mainUp := if m then upTo 125 x.mainUp else 0,
               backupDown := if b || !hasBackup then 0 else upTo 8 x.backupDown }) s
  else s

/-- A service ON_MAIN switches (R110). -/
def switchDue (s : State) (k : ServiceIx) : Bool :=
  let x := s.sin.services[k]
  s.pvw.unit.running && x.selection = .onMain && x.mainDown == 8 && portLocked s (backupPort s k)

/-- A service ON_BACKUP reverts (R111). -/
def revertDue (s : State) (k : ServiceIx) : Bool :=
  let x := s.sin.services[k]
  s.pvw.unit.running && x.selection = .onBackup &&
    (x.mainUp == 125 || (x.backupDown == 8 && portLocked s (mainPort s k)))

def selectPort (k : ServiceIx) (dest : Selection) (s : State) : State :=
  raiseFlag .feedSwitched (modifyIntake k (fun x =>
    { x with selection := dest, counters.switches := bump x.counters.switches }) s)

/-! ### Roles (R101) -/

/-- A port as it stands when the roles are taken (R101). -/
def portAtRoles (r : PortRole) (x : Port) : Port :=
  { x with state := if r = .unused then .disabled else .hunt, huntCount := 0, held := [], failures := 0,
           nextKnown := false, idleCount := 0, active := false }

/-- SIN takes roles and keys from the held image: ports hunt, and every service is ON_MAIN with empty queues (R101,
R116). -/
def takeRoles (s : State) : State :=
  let t := portIds.foldl (fun t p => modifyPort p (portAtRoles (roleOf s p)) t) s
  { t with sin.services := mapAll (fun x : Intake =>
             { x with selection := .onMain, mainDown := 0, mainUp := 0, backupDown := 0, queue := [] }) t.sin.services,
           sin.alertQueue := [] }

end Sys2Proof.Machine
end

