-- ==== Sys2Proof/Machine/Loader.lean ====
section
/-! DEFINITION. CFL's outcomes (R177 to R179): an image accepted, an image refused. -/

namespace Sys2Proof.Machine

/-- CFL takes a good image: it locks the identity when it is unlocked (R177, R178). -/
def takeImage (i : Image) (s : State) : State :=
  holdImage (some i)
    { s with cfl := { s.cfl with reading := false, cause := .none, faultField := none,
                                 lock := s.cfl.lock.or (some (i.unitId, i.ensembleId)) },
             sup.lifetime.imagesAccepted := bump s.sup.lifetime.imagesAccepted }

/-- A good image: the blocks take their values, and the unit enters LISTEN (R101, R153, R178, R179). -/
def acceptImage (i : Image) (s : State) : State :=
  enterListen (sampleLines (takeRoles (takeImage i s)))

/-- The images-refused counters: the whole, one for each cause, and identity refusals (R177, R186). -/
def countRefused (c : FaultCause) (l : LifetimeCounters) : LifetimeCounters :=
  let m := { l with imagesRefused := bump l.imagesRefused }
  match c with
  | .none => m
  | .readFailed => { m with refusedReadFailed := bump m.refusedReadFailed }
  | .length => { m with refusedLength := bump m.refusedLength }
  | .check => { m with refusedCheck := bump m.refusedCheck }
  | .format => { m with refusedFormat := bump m.refusedFormat }
  | .range => { m with refusedRange := bump m.refusedRange }
  | .role => { m with refusedRole := bump m.refusedRole }
  | .identity => { m with refusedIdentity := bump m.refusedIdentity, identityRefusals := bump m.identityRefusals }

/-- A bad image: no image is held, and the unit is in HALTED (R60, R178, R179). -/
def refuseImage (c : FaultCause) (field : Option Nat) (s : State) : State :=
  raiseFlag .configFault (holdImage none
    { s with cfl := { s.cfl with reading := false, cause := c, faultField := field },
             sup.lifetime := countRefused c s.sup.lifetime, pvw.unit := .halted })

/-- The outcome of a check acted on. -/
def judgeImage (c : ImageCheck) (s : State) : State :=
  match c with
  | .good i => acceptImage i s
  | .bad cause field => refuseImage cause field s

end Sys2Proof.Machine
end

