-- ==== Sys2Proof/Machine/Boundary.lean ====
section
/-! DEFINITION. The frame boundary (R4): what each block does, action by action, and how the actions of a boundary
are run (log 1, log 2). -/

namespace Sys2Proof.Machine

/-! ### OFR (R12 to R14, R78) -/

/-- OFR ends the frame it was streaming; it is not cut (R12). -/
def endFrame (s : State) : State := { s with ofr.frame := none }

/-- The bytes of valid frame `n`: its sealed slot, or an empty frame (R13). -/
def frameBytes (s : State) (n : FrameNo) : List Byte :=
  match slotAt s n with
  | .sealed m dir pays => if m = n then dir ++ pays.flatten else emptyDirectory (ensembleOf s) n
  | _ => emptyDirectory (ensembleOf s) n

/-- The digest history with a newest pair; 16 pairs at most (R78). -/
def addDigest (x : FrameNo × BitVec 16) (h : List (FrameNo × BitVec 16)) : List (FrameNo × BitVec 16) :=
  (h ++ [x]).drop (h.length + 1 - 16)

/-- Frame `n` is streamed as a valid frame, and its digest joins the history (R13, R78). -/
def startValid (n : FrameNo) (s : State) : State :=
  let bs := frameBytes s n
  { s with ofr := { outputValid := true, frame := some ⟨some n, true, bs, none⟩,
                    counters := { s.ofr.counters with valid := bump s.ofr.counters.valid } },
           pvw.digests := addDigest (n, half bs 5) s.pvw.digests }

/-- The idle pattern is streamed (R14). -/
def startIdle (s : State) : State :=
  { s with ofr := { outputValid := false,
                    frame := some ⟨s.ftu.now, false, idleDirectory (ensembleOf s) s.ftu.now, none⟩,
                    counters := { s.ofr.counters with idle := bump s.ofr.counters.idle } } }

/-- OFR begins a new frame (R12). -/
def startFrame (s : State) : State :=
  match s.ftu.now with
  | some n => if s.pvw.unit.emitting then startValid n s else startIdle s
  | none => startIdle s

/-! ### FTU, LKP, CFL and PVW at a boundary -/

/-- A jump notice (R11): the flag, the counters, and every block. -/
def frameJump (s : State) : State :=
  jumpEffects (raiseFlag .frameJump
    { s with ftu.counters.jumps := bump s.ftu.counters.jumps, sup.lifetime.jumps := bump s.sup.lifetime.jumps })

/-- An expiry notice (R9, R66). -/
def holdoverExpired (s : State) : State :=
  let t := raiseFlag .holdoverExpired { s with sup.lifetime.expiries := bump s.sup.lifetime.expiries }
  if t.pvw.unit = .listen || t.pvw.unit = .onAir || t.pvw.unit = .isolated then enterOffAir t else t

/-- A consistent relock takes OFF_AIR to LISTEN (R10). -/
def relocked (s : State) : State := if s.pvw.unit = .offAir then enterListen s else s

/-- The ages of the link (R49). -/
def ageLink (s : State) : State :=
  { s with lkp.peerAge := upTo 25 s.lkp.peerAge, lkp.echoAge := upTo 25 s.lkp.echoAge }

/-- The read age (R175); it stands still once the read has ended (log 61). -/
def ageRead (s : State) : State :=
  if s.cfl.reading then { s with cfl.readAge := upTo 25 s.cfl.readAge } else s

/-- The rejoin hold (R76). -/
def ageHold (s : State) : State := { s with pvw.rejoinHold := upTo 25 s.pvw.rejoinHold }

/-- The LISTEN count (R62). -/
def countListen (s : State) : State :=
  if s.pvw.unit = .listen then
    if s.ftu.ref = .locked && s.lkp.receiver = .locked then
      (if s.ftu.now.isSome then { s with pvw.listenCount := upTo 32 s.pvw.listenCount } else s)
    else { s with pvw.listenCount := 0 }
  else s

/-- A packet of the own claim sent again, with its version and F (R75). -/
def resendClaim (s : State) : State :=
  match s.pvw.ownClaim with
  | some c => sendClaim c s
  | none => s

/-- JOINING or ON_AIR: the states in which the own claim is re-sent and isolation is tested (R64, R75). -/
def joined (u : UnitState) : Bool := u = .joining || u = .onAir

/-! ### The production notice (R82, R123, R143) -/

/-- The side rate PLE answers for a service at the production frame now + L (R37). -/
def noticeSide (s : State) (k : ServiceIx) : Nat :=
  match s.ftu.now, serviceDef s k with
  | some n, some d => sideRateAt s.ple (selfOf s) d.id (plus n (leadOf s))
  | _, _ => 0

def noticeTextSide (k : ServiceIx) (s : State) : State :=
  modifyCarousel k (fun c => ageTexts (textSide (noticeSide s k) c)) s

def noticePictureSide (k : ServiceIx) (s : State) : State :=
  ageLoads k (modifyPicCarousel k (pictureSide (noticeSide s k)) s)

/-! ### The actions -/

/-- The actions that are rows of the opcode table: the events of a boundary. -/
def isEvent : Act → Bool
  | .frameJump | .holdoverExpired | .readFailed | .feedLost _ | .feedSwitch _ | .feedRevert _ | .slotRemoval _
  | .claimInForce _ | .peerSilent _ | .enterJoining | .enterOnAir | .textExpiry _ _ | .pictureLoadTimeout _ _
  | .pictureExpiry _ _ | .presenceSend | .claimResend | .enterIsolated | .alertRecordStart _ | .alertRecordEnded _
  | .localAlertOn | .localAlertIdle | .alertDurationLimit | .alertRepeat => true
  | _ => false

/-- PVW's table follows the frame numbers in every state but CLASH and OFF_AIR (R73). -/
def tableRuns (u : UnitState) : Bool := !(u = .clash || u = .offAir)

def nowReaches (s : State) (f : FrameNo) : Bool := s.ftu.now.any (fun n => !later f n)

def recordOf (s : State) (i : AlertId) : Option AlertRecord := s.alc.table.find? (fun r => r.id = i)

/-- The event of an action is due, in the state in which the action's turn comes. -/
def due (a : Act) (s : State) : Bool :=
  match a with
  | .frameJump => true
  | .holdoverExpired => true
  | .readFailed => s.cfl.reading && s.cfl.readAge == 25
  | .feedLost p => lossDue s p
  | .feedSwitch k => switchDue s k
  | .feedRevert k => revertDue s k
  | .slotRemoval u => tableRuns s.pvw.unit && u != selfOf s && s.pvw.slots[u].removal.any (nowReaches s)
  | .claimInForce u => tableRuns s.pvw.unit && s.pvw.slots[u].waiting.any (fun c => nowReaches s c.frame)
  | .peerSilent u =>
    (s.pvw.unit = .listen || joined s.pvw.unit) && u != selfOf s && s.ftu.now.any (fun n => silenceDue n s.pvw.slots[u])
  | .enterJoining => s.pvw.unit = .listen && s.pvw.listenCount == 32 && s.ftu.now.isSome
  | .enterOnAir => s.pvw.unit = .joining && s.pvw.joinFrame.isSome && s.pvw.joinFrame == s.ftu.now
  | .enterIsolated => joined s.pvw.unit && s.lkp.echoAge == 25
  | .textExpiry k i => textExpired s.txc.carousels[k].slots[i]
  | .pictureLoadTimeout k o => (findObject k o s).any loadTimedOut
  | .pictureExpiry k o => (findObject k o s).any pictureExpired
  | .presenceSend => s.pvw.unit.viewing && !s.progress.presenceSent && s.pvw.presenceCount == 4
  | .claimResend => joined s.pvw.unit && s.pvw.ownClaim.isSome && !s.progress.claimSent && s.pvw.claimCount == 24
  | .alertRecordStart i =>
    s.pvw.unit.viewing && (recordOf s i).any (fun r => r.state = .waiting && nowReaches s r.start)
  | .alertRecordEnded i =>
    s.pvw.unit.viewing && (recordOf s i).any (fun r => r.stop.any (fun e => nowReaches s e.frame))
  | .localAlertOn => s.alc.localAlert.state = .announced && s.alc.localAlert.start.any (nowReaches s)
  | .localAlertIdle => s.alc.localAlert.state = .ending && s.alc.localAlert.stop.any (nowReaches s)
  | .alertDurationLimit => s.ftu.now.any (fun n => durationDue n s)
  | .alertRepeat => s.alc.localAlert.state != .idle && !s.progress.alertSent && s.alc.repeatCount == 4
  | _ => true

/-- An action of a numbered boundary, with the frame that begins. -/
def atNow (f : FrameNo → State → State) (s : State) : State :=
  match s.ftu.now with
  | some n => f n s
  | none => s

/-- What an action does when its turn comes: an event's own effect, or the block's part of the boundary. -/
def fire (a : Act) (s : State) : State :=
  match a with
  | .endFrame => endFrame s
  | .frameJump => frameJump s
  | .holdoverExpired => holdoverExpired s
  | .relocked => relocked s
  | .linkAges => ageLink s
  | .readAge => ageRead s
  | .readFailed => refuseImage .readFailed none s
  | .portActivity p => testActivity p s
  | .feedLost p => losePort p s
  | .feedCounts k => countSelection k s
  | .feedSwitch k => selectPort k .onBackup s
  | .feedRevert k => selectPort k .onMain s
  | .slotRemoval u => removeSlot u s
  | .claimInForce u => modifyPeer u putInForce s
  | .peerSilent u => atNow (goSilent u) s
  | .rejoinHold => ageHold s
  | .listenCount => countListen s
  | .enterJoining => atNow enterJoining s
  | .enterOnAir => enterOnAir s
  | .startFrame => startFrame s
  | .freeSlot => atNow freeSlot s
  | .computeLayout => atNow computeStep s
  | .pruneChain => atNow (fun n t => { t with ple.chain := pruneChain n t.ple.chain }) s
  | .sealFrame => atNow (fun n t => if t.pvw.unit.computing then sealFrame (plus n 1) t else t) s
  | .expireContributions => atNow expireContributions s
  | .textSide k => noticeTextSide k s
  | .textExpiry k i => modifyCarousel k (expireText i) s
  | .textHold k => modifyCarousel k textHold s
  | .pictureSide k => noticePictureSide k s
  | .pictureLoadTimeout k o => timeOutLoad k o s
  | .pictureLife k => agePictures k s
  | .pictureExpiry k o => expirePicture k o s
  | .produce => atNow (fun n t => produce (plus n (leadOf t)) t) s
  | .presenceSend => sendPresence s
  | .claimResend => resendClaim s
  | .enterIsolated => enterIsolated s
  | .alertRecordStart i => modifyRecord i startRecord s
  | .alertRecordEnded i => endRecord i s
  | .localAlertOn => { s with alc.localAlert.state := .on }
  | .localAlertIdle => clearLocal s
  | .alertStopTest => atNow stopTest s
  | .alertDurationLimit => atNow durationEnd s
  | .alertSourcesTest => atNow sourcesTest s
  | .escalate => atNow escalate s
  | .originate => atNow originate s
  | .alertRepeat => repeatAlert s

/-- An event that is not due: the counts of boundaries since the last PRESENCE, CLAIM and ALERT rise (R75, R161). -/
def pass (a : Act) (s : State) : State :=
  match a with
  | .presenceSend =>
    if s.pvw.unit.viewing && !s.progress.presenceSent then
      { s with pvw.presenceCount := upTo 4 s.pvw.presenceCount } else s
  | .claimResend =>
    if joined s.pvw.unit && s.pvw.ownClaim.isSome && !s.progress.claimSent then
      { s with pvw.claimCount := upTo 24 s.pvw.claimCount } else s
  | .alertRepeat =>
    if s.alc.localAlert.state != .idle && !s.progress.alertSent then
      { s with alc.repeatCount := upTo 4 s.alc.repeatCount } else s
  | _ => s

/-- An action's turn. -/
def takeTurn (a : Act) (s : State) : State := if due a s then fire a s else pass a s

/-- All the actions of a list, in order. -/
def runAll : List Act → State → State
  | [], s => s
  | a :: as, s => runAll as (takeTurn a s)

/-- The rest of the boundary in progress is run. -/
def settle (s : State) : State := runAll s.progress.agenda { s with progress.agenda := [] }

/-- The actions of a list in order, up to the first event that is due: that event and what follows it wait. -/
def advance : List Act → State → State
  | [], s => s
  | a :: as, s => if isEvent a && due a s then { s with progress.agenda := a :: as } else advance as (takeTurn a s)

/-- An event's command: what stands before it is run, the event is taken when it is due, and the boundary goes on to
the next event that is due. An event that is not part of the boundary in progress does nothing (log 4). -/
def runEvent (a : Act) (s : State) : State :=
  if s.progress.agenda.contains a then
    advance (s.progress.agenda.dropWhile (· != a)).tail
      (takeTurn a (runAll (s.progress.agenda.takeWhile (· != a)) { s with progress.agenda := [] }))
  else s

/-! ### The agenda of a boundary (log 2) -/

/-- The notices of a boundary: a jump, an expiry, a consistent relock (R4, R10). -/
structure Notices where
  jump     : Bool
  expiry   : Bool
  relocked : Bool
  deriving DecidableEq, Repr

def onlyIf (b : Bool) (as : List Act) : List Act := if b then as else []

/-- SIN's part, the same at numbered and unnumbered boundaries (R105, R109 to R111). -/
def intakeActs (s : State) : List Act :=
  portIds.flatMap (fun p => [.portActivity p, .feedLost p]) ++ (configured s).map .feedCounts ++
    (configured s).flatMap (fun k => [.feedSwitch k, .feedRevert k])

/-- PVW's table at a numbered boundary (R69, R73): removals come first, so a slot removed there does not fall silent
(log 59). -/
def tableActs : List Act :=
  unitIds.map .slotRemoval ++ unitIds.map .claimInForce ++ unitIds.map .peerSilent

/-- The LISTEN count and the move to JOINING (R62); a boundary that itself brings the unit to LISTEN counts (log 48). -/
def joinActs : List Act := [.listenCount, .enterJoining]

/-- PIC's records of a service. -/
def objectsOf (s : State) (k : ServiceIx) : List ObjectId :=
  (s.pic.table.filter (fun r => r.service = k)).map (·.id)

/-- The production notice of a service at TXC and PIC (R82, R123, R143). -/
def noticeActs (s : State) (k : ServiceIx) : List Act :=
  [.textSide k] ++ slotIxs.map (.textExpiry k) ++ [.textHold k, .pictureSide k] ++
    (objectsOf s k).map (.pictureLoadTimeout k) ++ [.pictureLife k] ++ (objectsOf s k).map (.pictureExpiry k)

/-- ALC's part (R156, R163): the table's records are brought up to now before the local steps (log 69); of the three end
tests stop comes first, then duration, then sources (log 53). -/
def alertActs (s : State) : List Act :=
  s.alc.table.flatMap (fun r => [.alertRecordStart r.id, .alertRecordEnded r.id]) ++
    [.localAlertOn, .localAlertIdle, .alertStopTest, .alertDurationLimit, .alertSourcesTest, .escalate, .originate,
     .alertRepeat]

/-- What every boundary begins with (R9 to R12, R49, R175): the notices act before the blocks' own work (log 65), and a
read that ends here fails before OFR starts the frame (log 73). -/
def openingActs (n : Notices) : List Act :=
  [.endFrame] ++ onlyIf n.jump [.frameJump] ++ onlyIf n.expiry [.holdoverExpired] ++ onlyIf n.relocked [.relocked] ++
    [.linkAges, .readAge, .readFailed]

/-- The counts and tests that every boundary has (R64, R75): a packet that is due goes out before the move to ISOLATED
(log 50), a PRESENCE before a CLAIM (log 60). -/
def countActs : List Act := [.presenceSend, .claimResend, .enterIsolated]

/-- The actions of a numbered boundary. The entry to ON_AIR, with its PRESENCE, comes before the start of the frame
(log 42); the notices come before the LISTEN count (log 48), the move to JOINING before the isolation test (log 49),
every PRESENCE and every move of PVW before ALC's steps (logs 55 and 56), the peer table and the start of the frame
before what is due of PVW's packets and the isolation test (logs 63, 64 and 66). The PRESENCE of the entry to ON_AIR and
the packets of JOINING are handed in before the expiry of R55 and CPR's packets; what is due of PVW's, and ALC's, after
both (log 68). An entry to JOINING, ON_AIR or LISTEN comes before the test of the due PRESENCE: its own PRESENCE restarts
the count, and the one that was due is not handed in (log 77). -/
def numberedActs (s : State) (o : BoundaryOrder) (n : Notices) : List Act :=
  openingActs n ++ onlyIf o.lossFirst (intakeActs s) ++ tableActs ++ [.rejoinHold, .enterOnAir, .startFrame, .freeSlot] ++
    onlyIf o.moveFirst joinActs ++ [.computeLayout, .pruneChain, .sealFrame] ++ onlyIf (!o.moveFirst) joinActs ++
    onlyIf o.expiryFirst [.expireContributions] ++
    onlyIf s.pvw.unit.running ((configured s).flatMap (noticeActs s)) ++ [.produce] ++
    onlyIf (!o.expiryFirst) [.expireContributions] ++ onlyIf (!o.lossFirst) (intakeActs s) ++ countActs ++ alertActs s

/-- The actions of an unnumbered boundary. -/
def unnumberedActs (s : State) (n : Notices) : List Act :=
  openingActs n ++ intakeActs s ++ [.rejoinHold, .startFrame, .listenCount] ++ countActs

def agendaOf (s : State) (o : BoundaryOrder) (n : Notices) : List Act :=
  if s.ftu.now.isSome then numberedActs s o n else unnumberedActs s n

/-- The boundary whose number FTU has set begins: every block receives the event (R4). -/
def beginBoundary (o : BoundaryOrder) (n : Notices) (s : State) : State :=
  advance (agendaOf s o n) { s with progress := .none }

end Sys2Proof.Machine
end

