-- ==== Sys2Proof/Machine/Timing.lean ====
section
/-! DEFINITION. FTU (chapter 1.1): pulses, time messages, the reference state, and the raising of boundaries. -/

namespace Sys2Proof.Machine

/-- What a pulse is judged to be (R3). -/
inductive PulseKind where
  | matched
  | stray
  | raises
  deriving DecidableEq, Repr

/-- A pulse judged by the microseconds since the last boundary and by what raised it (R3; 40 ms or later: log 5). Before
the first boundary after a reset they are counted from the reset (log 67). -/
def judgePulse (f : Ftu) (elapsed : Nat) : PulseKind :=
  if 30000 ≤ elapsed then .raises
  else if f.source = .timer && !f.matched && elapsed < 10000 then .matched
  else .stray

/-- The number the boundary gives now (R4, R5, R7, R10). -/
def nextNow (f : Ftu) : Option FrameNo :=
  match f.next with
  | some x => some x.frame
  | none => f.now.map (· + 1)

/-- FTU at a boundary, before the test of a message at its labelled pulse. -/
def atBoundary (src : BoundarySource) (f : Ftu) : Ftu :=
  { f with now := nextNow f, next := none, source := src, matched := false, timerStart := 0 }

/-- A message with second count `s` is consistent with the candidate (R5). -/
def consistent (s : BitVec 32) (c : Option Candidate) : Bool :=
  c.any (fun c => s == c.second + 1 && c.pulses == 25)

/-- The number that follows a labelled pulse of second count `s`. -/
def afterLabel (s : BitVec 32) : FrameNo := refFrame s + 1

/-- A candidate whose only pulse so far is its labelled one. -/
def newCandidate (s : BitVec 32) (differs : Bool) : Candidate := ⟨s, 1, differs⟩

/-- An accepted pulse that labels no message is counted for the candidate (R3). -/
def countPulse (f : Ftu) : Ftu :=
  { f with candidate := f.candidate.map (fun c => { c with pulses := c.pulses + 1 }) }

/-- UNLOCKED: a consistent message locks the reference (R5; the candidate is kept, log 15). -/
def testUnlocked (s : BitVec 32) (f : Ftu) : Ftu :=
  if consistent s f.candidate then { countPulse f with ref := .locked, next := some ⟨afterLabel s, false⟩ }
  else { f with candidate := some (newCandidate s false) }

/-- LOCKED: the message is checked against the unit's own count (R7). -/
def testLocked (s : BitVec 32) (f : Ftu) : Ftu :=
  if f.now = some (refFrame s) then { f with candidate := some (newCandidate s false) }
  else
    let g := { f with counters.disagreeing := bump f.counters.disagreeing }
    if f.candidate.any (·.differs) && consistent s f.candidate then
      { g with next := some ⟨afterLabel s, true⟩, candidate := none }
    else { g with candidate := some (newCandidate s true) }

/-- HOLDOVER: a consistent message relocks the reference, consistently or with a jump (R10). -/
def testHoldover (s : BitVec 32) (f : Ftu) : Ftu :=
  if consistent s f.candidate then
    let g := { f with ref := .locked, holdover := 0, candidate := none }
    if f.now = some (refFrame s) then g else { g with next := some ⟨afterLabel s, true⟩ }
  else { f with candidate := some (newCandidate s false) }

/-- A message tested by the reference state (R2). -/
def testMessage (s : BitVec 32) (f : Ftu) : Ftu :=
  match f.ref with
  | .unlocked => testUnlocked s f
  | .locked => testLocked s f
  | .holdover => testHoldover s f

/-- An accepted pulse: the pending message's labelled pulse, or one more pulse of the candidate (R2, R3). -/
def acceptPulse (f : Ftu) : Ftu :=
  match f.message with
  | some s => testMessage s { f with message := none }
  | none => countPulse f

/-- The relock of `g` from `f` is consistent (R10). -/
def relocks (f g : Ftu) : Bool := f.ref = .holdover && g.ref = .locked && g.next.isNone

/-- The holdover count at a boundary: it rises while the reference is in HOLDOVER after the pulse's own test, as the
worked example of chapter 1.1 counts it (R8, log 28). -/
def countHoldover (f : Ftu) : Ftu :=
  if f.ref = .holdover then { f with holdover := upTo 250 f.holdover } else f

/-- The boundary carries the expiry notice (R4, R9). -/
def expires (f g : Ftu) : Bool := g.ref = .holdover && f.holdover != 250 && g.holdover == 250

/-- A boundary raised by a pulse or by the local timer (R3, R4). -/
def raiseBoundary (src : BoundarySource) (o : BoundaryOrder) (s : State) : State :=
  let f := s.ftu
  let b := atBoundary src f
  let p := if src = .pulse then acceptPulse b else b
  let g := countHoldover p
  beginBoundary o ⟨f.next.any (·.jump), expires f g, relocks b p⟩ { s with ftu := g }

/-- A pulse matched to the last TIMER boundary (R3). -/
def matchPulse (elapsed : Nat) (s : State) : State :=
  let f := { s.ftu with matched := true, timerStart := elapsed }
  let g := acceptPulse f
  let t := { s with ftu := g }
  if relocks f g then relocked t else t

/-- FRAME_PULSE (R3). -/
def takePulse (elapsed : Nat) (o : BoundaryOrder) (s : State) : State :=
  match judgePulse s.ftu elapsed with
  | .stray => { s with ftu.counters.stray := bump s.ftu.counters.stray }
  | .matched => matchPulse elapsed s
  | .raises => raiseBoundary .pulse o s

/-- A missed pulse can have occurred: the timer raised the last boundary and no pulse has been matched to it (R3). -/
def pulseMissing (f : Ftu) : Bool := f.source = .timer && !f.matched

/-- MISSED_PULSE in LOCKED starts holdover; JOINING returns to LISTEN (R8, R63). -/
def missPulse (s : State) : State :=
  if pulseMissing s.ftu && s.ftu.ref = .locked then
    let t := { s with ftu := { s.ftu with ref := .holdover, holdover := 1, candidate := none,
                                          counters.holdovers := bump s.ftu.counters.holdovers } }
    if t.pvw.unit = .joining then enterListen t else breakListen t
  else s

/-- TIME_MESSAGE (R2). -/
def takeTime (bs : List Byte) (s : State) : State :=
  match parseTime bs with
  | none => { s with ftu.counters.badMessages := bump s.ftu.counters.badMessages }
  | some n => { s with ftu.message := some n }

end Sys2Proof.Machine
end

