-- ==== Sys2Proof/Machine/Supervision.lean ====
section
/-! DEFINITION. SUP (chapter 10): requests and answers, what the reading requests report, counters, and the resets. -/

namespace Sys2Proof.Machine

/-! ### Requests and answers (R180, R181) -/

/-- An answer handed to the port transmitter (R180, R195). -/
def hand (r : Request) (k : AnswerKind) (d : AnswerData) (s : State) : State :=
  { s with sup.answers := s.sup.answers ++ [⟨r.tag, r.code, k, d, answerBytes r.tag r.code k d⟩] }

/-- The requests at the head of the queue with a bad check or an unknown code are answered; the rest stay (R180). -/
def serveBad : List Request → State → State
  | [], s => { s with sup.queue := [] }
  | r :: rs, s =>
    if !r.checkGood then serveBad rs (hand r .badCheck .none s)
    else if (requestOf r.code).isNone then serveBad rs (hand r .unknown .none s)
    else { s with sup.queue := r :: rs }

/-- A request that meets a full queue (R180). -/
def loseRequest (s : State) : State := raiseFlag .requestLost { s with sup.lost := bump s.sup.lost }

/-- REQUEST_RECEIVED (R180). -/
def takeFrame (r : RequestFrame) (s : State) : State :=
  if s.sup.queue.length < 4 then
    serveBad (s.sup.queue ++ [⟨r.tag, r.code, r.body, requestCheckGood r⟩]) s
  else loseRequest s

/-- What acting on a request gives: the state, the answer kind and the answer's data. -/
structure Acted where
  state : State
  kind  : AnswerKind
  data  : AnswerData
  deriving DecidableEq, Repr

/-- The tests of R180 after check and code, and the request's own action. -/
def actOn (k : RequestKind) (f : List Byte → State → Acted) (body : List Byte) (s : State) : Acted :=
  if !k.takenIn s.pvw.unit then ⟨s, .refusedState, .none⟩
  else if !k.lengthOk body.length then ⟨s, .refusedArg, .none⟩
  else f body s

/-- The oldest request is of kind `k`. -/
def headIs (k : RequestKind) (q : List Request) : Bool :=
  q.head?.any (fun r => r.checkGood && requestOf r.code == some k)

/-- SUP takes the oldest request when it is of kind `k`, acts on it and answers it (R180, R181; another request at the
head, or none, leaves the state, log 11). -/
def takeRequest (k : RequestKind) (f : List Byte → State → Acted) (s : State) : State :=
  match s.sup.queue with
  | [] => s
  | r :: rs =>
    if r.checkGood && requestOf r.code = some k then
      let a := actOn k f r.body { s with sup.queue := rs, sup.inHand := some r }
      serveBad rs (hand r a.kind a.data { a.state with sup.inHand := none })
    else s

def done (s : State) : Acted := ⟨s, .done, .none⟩

def refuseArg (s : State) : Acted := ⟨s, .refusedArg, .none⟩

/-! ### The reading requests (R80, R130, R150, R172, R182, R186) -/

def classCount (q : List TxPacket) (c : TxClass) : Nat := (q.filter (fun p => p.kind.cls = c)).length

/-- READ_STATUS (R182): a service's values for each configured service. -/
def statusData (s : State) : StatusData :=
  { unit := s.pvw.unit, joinFrame := s.pvw.joinFrame, ref := s.ftu.ref, now := s.ftu.now, holdover := s.ftu.holdover,
    receiver := s.lkp.receiver, queuedAlert := classCount s.lkp.queue .alert, queuedClaim := classCount s.lkp.queue .claim,
    queuedPresence := classCount s.lkp.queue .presence, queuedContrib := classCount s.lkp.queue .contribution,
    seq := s.lkp.seq, peerAge := s.lkp.peerAge, echoAge := s.lkp.echoAge, lastProduction := (configured s).map (fun k => s.cpr.last[k]),
    alertProduction := s.cpr.alertLast,
    ports := portIds.map (fun p => (s.cfl.image.map (fun i => (i.roles[p], i.keys[p])), s.sin.ports[p].state)),
    services := ((configured s).map (fun k => s.sin.services[k])).map (fun x =>
      (x.selection, x.mainDown, x.mainUp, x.backupDown, x.queue.length)),
    alertQueueFill := s.sin.alertQueue.length, reading := s.cfl.reading, cause := s.cfl.cause,
    faultField := s.cfl.faultField, lock := s.cfl.lock,
    held := s.cfl.image.map (fun i => (i.unitId, i.ensembleId, i.lead, i.services.length)), flags := s.sup.flags,
    attention := s.sup.attention }

/-- The source of each filing in the frame store (R89). -/
def filingSources (x : FrameSlot) : List (FrameNo × ServiceId × UnitId) :=
  match x with
  | .opened n _ es => es.filterMap (fun e => match e.filing with
      | .empty => none
      | .filled u _ _ => some (n, e.service, u)
      | .void u => some (n, e.service, u))
  | _ => []

/-- READ_COUNTERS (R186): a service's counters for each configured service (R99, R118). -/
def countersData (s : State) : CountersData :=
  { ftu := s.ftu.counters, ofr := s.ofr.counters, ple := s.ple.counters, lkp := s.lkp.counters,
    senders := s.lkp.senders.toList, pvw := s.pvw.counters, slots := s.pvw.slots.toList.map (·.counters),
    cpr := (configured s).map (fun k => s.cpr.counters[k]), cprAlert := s.cpr.alertCounters, asm := s.asm.counters, rows := s.asm.rows,
    otherRow := s.asm.otherRow, filings := s.asm.slots.toList.flatMap filingSources,
    ports := s.sin.ports.toList.map (·.counters), intake := (configured s).map (fun k => s.sin.services[k].counters),
    alertFeed := s.sin.alertCounters, text := (configured s).map (fun k => s.txc.carousels[k].counters),
    alertCells := (s.txc.alert.cells, s.txc.alert.replacements), pictures := (configured s).map (fun k => s.pic.carousels[k].counters),
    lowestFree := s.pic.lowestFree, sources := sourceIds.map (fun i => (s.alc.sources.get i).counters),
    alc := s.alc.counters, lost := s.sup.lost, lifetime := s.sup.lifetime }

/-- READ_VIEW (R80): one switch for each configured service. -/
def viewData (s : State) : ViewData :=
  { unit := s.pvw.unit, joinFrame := s.pvw.joinFrame, ownClaim := s.pvw.ownClaim, switches := (configured s).map (fun k => s.pvw.switches[k]),
    slots := s.pvw.slots.toList, senders := s.lkp.senders.toList, digests := s.pvw.digests }

/-- A line's mode, polarity and present level (R153), of a line that is not enabled too (log 58); none while no image is
held (R173, log 57). -/
def lineData (s : State) (l : LineIx) : Option (LineMode × Bool × Bool) :=
  (lineSettings s l).map (fun c => (c.mode, c.activeHigh, lineActive s l))

/-- A source's enabled mark (R152); AL0, AL1 and FEED have none while no image is held (R173, log 57). -/
def enabledMark (s : State) (i : SourceId) : Option Bool :=
  if i = .supv || i = .test then some true else s.cfl.image.map (fun _ => sourceEnabled s i)

def alertsData (s : State) : AlertsData :=
  { sources := sourceIds.map (fun i => (enabledMark s i, sourceValues s i, s.alc.sources.get i)),
    lines := lineIxs.map (lineData s), localAlert := s.alc.localAlert, stopMark := s.alc.stopMark,
    repeatCount := s.alc.repeatCount, removals := s.alc.removals.toList, table := s.alc.table,
    governing := (s.ftu.now.bind (governing s.alc.table)).map (·.id),
    announcedNotHeld := s.alc.counters.announcedNotHeld }

/-- READ_PICTURES (R150): the records of the service in the order in which they were admitted (log 52). -/
def picturesData (s : State) (k : ServiceIx) : PicturesData :=
  { carousel := s.pic.carousels[k], records := s.pic.table.filter (fun r => r.service = k),
    freePages := (freePages s.pic.table).length, freeRecords := Config.objects - s.pic.table.length }

def readStatus (_ : List Byte) (s : State) : Acted := ⟨s, .done, .status (statusData s)⟩

def readCounters (_ : List Byte) (s : State) : Acted := ⟨s, .done, .counters (countersData s)⟩

def readView (_ : List Byte) (s : State) : Acted := ⟨s, .done, .view (viewData s)⟩

def readAlerts (_ : List Byte) (s : State) : Acted := ⟨s, .done, .alerts (alertsData s)⟩

/-- READ_LAYOUT (R34, R182). -/
def readLayout (body : List Byte) (s : State) : Acted :=
  match chainPair s.ple (frameAt body 0) with
  | some x => ⟨s, .done, .layout x.1 x.2⟩
  | none => refuseArg s

/-- The id of this unit's alert channel, while an image is held. -/
def namesAlertChannel (s : State) (id : ServiceId) : Bool :=
  s.cfl.image.isSome && id = alertService (selfOf s).val

/-- READ_TEXT (R130, R181). -/
def readText (body : List Byte) (s : State) : Acted :=
  match serviceIx s (half body 0) with
  | some k => ⟨s, .done, .text s.txc.carousels[k]⟩
  | none => if namesAlertChannel s (half body 0) then ⟨s, .done, .alertText s.txc.alert⟩ else refuseArg s

/-- READ_PICTURES (R150, R181). -/
def readPictures (body : List Byte) (s : State) : Acted :=
  match serviceIx s (half body 0) with
  | some k => ⟨s, .done, .pictures (picturesData s k)⟩
  | none => refuseArg s

/-! ### Counters (R186) -/

def clearSlotCounters (p : PeerSlot) : PeerSlot := { p with counters := .zero }

def clearSender (r : SenderRecord) : SenderRecord := { SenderRecord.zero with last := r.last }

def clearSource (x : Source) : Source := { x with counters := .zero }

def clearSourceCounters (t : Sources) : Sources :=
  ⟨clearSource t.al0, clearSource t.al1, clearSource t.feed, clearSource t.supv, clearSource t.test⟩

/-- Every ordinary counter cleared to 0, the substitution count table emptied (R186). -/
def clearOrdinary (s : State) : State :=
  { s with
    ftu.counters := ⟨0, 0, 0, 0, 0⟩, ofr.counters := ⟨0, 0, 0⟩, ple.counters := ⟨0, 0, 0, 0⟩,
    lkp.counters := .zero, lkp.senders := mapAll clearSender s.lkp.senders, pvw.counters := .zero,
    pvw.slots := mapAll clearSlotCounters s.pvw.slots, cpr.counters := Vector.replicate 5 ⟨0, 0⟩,
    cpr.alertCounters := ⟨0, 0⟩, asm.counters := .zero, asm.rows := [], asm.otherRow := ⟨0, 0, 0, 0⟩,
    sin.ports := mapAll (fun x : Port => { x with counters := .zero }) s.sin.ports,
    sin.services := mapAll (fun x : Intake => { x with counters := .zero }) s.sin.services, sin.alertCounters := ⟨0, 0, 0, 0⟩,
    txc.carousels := mapAll (fun c : Carousel => { c with counters := .zero }) s.txc.carousels, txc.alert.cells := 0,
    txc.alert.replacements := 0, pic.carousels := mapAll (fun c : PicCarousel => { c with counters := .zero }) s.pic.carousels,
    alc.sources := clearSourceCounters s.alc.sources, alc.counters := .zero, sup.lost := 0 }

/-- CLEAR_COUNTERS (R186). -/
def clearCounters (_ : List Byte) (s : State) : Acted :=
  let t := clearOrdinary s
  done { t with pic.lowestFree := (freePages s.pic.table).length }

/-- CLEAR_FLAGS (R184). -/
def clearFlags (body : List Byte) (s : State) : Acted :=
  ⟨clearFlagSet (frameAt body 0) s, .done, .flags s.sup.flags⟩

/-! ### Requests to PVW, ALC, TXC and PIC -/

/-- SERVICE_OFF and SERVICE_ON (R77). -/
def switchService (on : Bool) (body : List Byte) (s : State) : Acted :=
  match serviceIx s (half body 0) with
  | none => refuseArg s
  | some k =>
    if s.pvw.switches[k] = on then done s
    else
      let t := { s with pvw.switches := s.pvw.switches.set k on }
      if joined s.pvw.unit then done (atNow issueClaim t) else done t

/-- A text of 1 to 128 characters (R155). -/
def alertTextOk (text : List Byte) : Bool := 1 ≤ text.length && text.length ≤ 128

/-- ALERT_START (R155). -/
def alertStart (body : List Byte) (s : State) : Acted :=
  if alertTextOk (body.drop 2) then
    done (askSource .supv (byteAt body 0).toNat (byteAt body 1) (body.drop 2) s)
  else refuseArg s

/-- ALERT_TEST: TEST's urgency is always 3 (R152, R155). -/
def alertTest (body : List Byte) (s : State) : Acted :=
  if alertTextOk (body.drop 1) then done (askSource .test 3 (byteAt body 0) (body.drop 1) s)
  else refuseArg s

/-- ALERT_STOP (R155). -/
def alertStop (_ : List Byte) (s : State) : Acted :=
  let t := clearSources s
  done (if isLive s.alc.localAlert.state then { t with alc.stopMark := true } else t)

/-- TEXT_FLUSH (R131). -/
def textFlush (body : List Byte) (s : State) : Acted :=
  match serviceIx s (half body 0) with
  | some k => done (modifyCarousel k flushText s)
  | none => refuseArg s

/-- PICTURE_FLUSH (R149). -/
def pictureFlush (body : List Byte) (s : State) : Acted :=
  match serviceIx s (half body 0) with
  | some k => done (flushPictures k s)
  | none => refuseArg s

/-! ### Resets (R183, R187) -/

/-- REJOIN (R183): every block acts on the entry to LISTEN. -/
def rejoin (_ : List Byte) (s : State) : Acted :=
  let t := enterListen s
  done { t with sup.lifetime.rejoins := bump t.sup.lifetime.rejoins }

/-- The source's mark and values cleared by a soft reset (R173). -/
def dropSource (x : Source) : Source := { x with raised := false, values := none }

/-- What a soft reset clears before the entry to LISTEN (R58, R81, R116, R132, R151, R173); the page pool's bytes too
(log 8). -/
def softClear (s : State) : State :=
  { s with lkp.queue := [], pvw.switches := Vector.replicate 5 true,
           sin.services := mapAll (fun x : Intake => { x with queue := [] }) s.sin.services, sin.alertQueue := [],
           txc := .reset, pic := .reset,
           alc.sources := { s.alc.sources with feed := dropSource s.alc.sources.feed,
                                               supv := dropSource s.alc.sources.supv,
                                               test := dropSource s.alc.sources.test } }

/-- SOFT_RESET (R183, R187): flags and ordinary counters are cleared last. -/
def softReset (_ : List Byte) (s : State) : Acted :=
  let t := clearOrdinary (clearFlagSet (BitVec.allOnes 24) (enterListen (sampleLines (softClear s))))
  done { t with pic.lowestFree := Config.pages, sup.lifetime.softResets := bump t.sup.lifetime.softResets }

/-- LOAD_CONFIG (R179). -/
def loadConfig (body : List Byte) (s : State) : Acted :=
  match checkBody s.cfl.lock body with
  | .good i => done (acceptImage i s)
  | .bad cause field => ⟨refuseImage cause field s, .refusedArg, .fault cause field⟩

/-- POWER_ON: the values of the chapters' reset tables; what is outside the unit (waiting commands, the level of the
lines) and the count of free values stay. -/
def powerOn (s : State) : State :=
  { State.reset with pending := s.pending, lines := s.lines, freeIx := s.freeIx }

/-- LINE_RESET: as power-on, but the held image stays during the read, and the identity lock and the lifetime counters
are kept (R175, R177, R187). The fault cause and field are cleared at the reset (log 43), and what was left of a
boundary is dropped (log 44). -/
def lineReset (s : State) : State :=
  { powerOn s with
    cfl := { Cfl.reset with image := s.cfl.image, lock := s.cfl.lock },
    sup := { Sup.reset with
      lifetime := { s.sup.lifetime with lineResets := bump s.sup.lifetime.lineResets } } }

/-- CONFIG_READ_COMPLETE (R175, R178): it ends a read that is in progress. While the last byte has not arrived the read
goes on. -/
def readComplete (flash : List Byte) (s : State) : State :=
  if s.cfl.reading && flashEnds flash then judgeImage (checkFlash s.cfl.lock flash) s else s

end Sys2Proof.Machine
end

