-- ==== Sys2Proof/Machine/Outcome.lean ====
section
/-! DEFINITION. The outcome of a command. Every command of this model has a next state. -/

namespace Sys2Proof.Machine

abbrev Result := Host.Outcome State Fault Refusal

end Sys2Proof.Machine
end

