-- ==== Sys2Proof/Machine/AlertEvents.lean ====
section
/-! DEFINITION. The commands of the alert lines, and the alerts at a boundary: one meaning each. -/

namespace Sys2Proof.Machine

/-- ALERT_LINE_CHANGE (R153). -/
def execAlertLineChange (line : LineIx) (high : Bool) (s : State) : Result :=
  .next (changeLine line high (settle s))

/-- ALERT_DURATION_LIMIT (R160). -/
def execAlertDurationLimit (s : State) : Result :=
  .next (runEvent .alertDurationLimit s)

/-- LOCAL_ALERT_ON (R158). -/
def execLocalAlertOn (s : State) : Result :=
  .next (runEvent .localAlertOn s)

/-- LOCAL_ALERT_IDLE (R158). -/
def execLocalAlertIdle (s : State) : Result :=
  .next (runEvent .localAlertIdle s)

/-- ALERT_REPEAT (R161). -/
def execAlertRepeat (s : State) : Result :=
  .next (runEvent .alertRepeat s)

/-- ALERT_RECORD_START (R163). -/
def execAlertRecordStart (id : AlertId) (s : State) : Result :=
  .next (runEvent (.alertRecordStart id) s)

/-- ALERT_RECORD_ENDED (R163). -/
def execAlertRecordEnded (id : AlertId) (s : State) : Result :=
  .next (runEvent (.alertRecordEnded id) s)

end Sys2Proof.Machine
end

