-- ==== Sys2Proof/Machine/ContentEvents.lean ====
section
/-! DEFINITION. The commands of texts and pictures at a boundary: one meaning each. -/

namespace Sys2Proof.Machine

/-- TEXT_EXPIRY (R125). -/
def execTextExpiry (service : ServiceIx) (slot : SlotIx) (s : State) : Result :=
  .next (runEvent (.textExpiry service slot) s)

/-- PICTURE_LOAD_TIMEOUT (R139). -/
def execPictureLoadTimeout (service : ServiceIx) (object : ObjectId) (s : State) : Result :=
  .next (runEvent (.pictureLoadTimeout service object) s)

/-- PICTURE_EXPIRY (R146). -/
def execPictureExpiry (service : ServiceIx) (object : ObjectId) (s : State) : Result :=
  .next (runEvent (.pictureExpiry service object) s)

end Sys2Proof.Machine
end

