-- ==== Sys2Proof/Machine/FeedCommands.lean ====
section
/-! DEFINITION. The commands of the feed ports, and the loss, switch and revert at a boundary: one meaning each. -/

namespace Sys2Proof.Machine

/-- FEED_HUNT_PACKET (R102). -/
def execFeedHuntPacket (port : PortId) (bytes : List Byte) (s : State) : Result :=
  .next (feedHunt port bytes (settle s))

/-- FEED_PACKET_FAILED (R103). -/
def execFeedPacketFailed (port : PortId) (bytes : List Byte) (s : State) : Result :=
  .next (feedFail port bytes (settle s))

/-- FEED_PACKET_MALFORMED (R104). -/
def execFeedPacketMalformed (port : PortId) (kind : Byte) (body : List Byte) (s : State) : Result :=
  .next (feedPacket port kind body (settle s))

/-- AUDIO (R112). -/
def execAudio (port : PortId) (body : List Byte) (s : State) : Result :=
  .next (feedPacket port FeedKind.audio.code body (settle s))

/-- TEXT_SET (R120). -/
def execTextSet (port : PortId) (body : List Byte) (s : State) : Result :=
  .next (feedPacket port FeedKind.textSet.code body (settle s))

/-- TEXT_CLEAR (R121). -/
def execTextClear (port : PortId) (body : List Byte) (s : State) : Result :=
  .next (feedPacket port FeedKind.textClear.code body (settle s))

/-- PIC_BEGIN (R136). -/
def execPicBegin (port : PortId) (body : List Byte) (s : State) : Result :=
  .next (feedPacket port FeedKind.picBegin.code body (settle s))

/-- PIC_DATA (R137). -/
def execPicData (port : PortId) (body : List Byte) (s : State) : Result :=
  .next (feedPacket port FeedKind.picData.code body (settle s))

/-- PIC_END (R138). -/
def execPicEnd (port : PortId) (body : List Byte) (s : State) : Result :=
  .next (feedPacket port FeedKind.picEnd.code body (settle s))

/-- PIC_DELETE (R141). -/
def execPicDelete (port : PortId) (body : List Byte) (s : State) : Result :=
  .next (feedPacket port FeedKind.picDelete.code body (settle s))

/-- ALERT_REQ (R154). -/
def execAlertReq (port : PortId) (body : List Byte) (s : State) : Result :=
  .next (feedPacket port FeedKind.alertReq.code body (settle s))

/-- ALERT_CLEAR (R154). -/
def execAlertClear (port : PortId) (body : List Byte) (s : State) : Result :=
  .next (feedPacket port FeedKind.alertClear.code body (settle s))

/-- FILL (R108). -/
def execFill (port : PortId) (body : List Byte) (s : State) : Result :=
  .next (feedPacket port FeedKind.fill.code body (settle s))

/-- FEED_LOST (R105). -/
def execFeedLost (port : PortId) (s : State) : Result :=
  .next (runEvent (.feedLost port) s)

/-- FEED_SWITCH (R110). -/
def execFeedSwitch (service : ServiceIx) (s : State) : Result :=
  .next (runEvent (.feedSwitch service) s)

/-- FEED_REVERT (R111). -/
def execFeedRevert (service : ServiceIx) (s : State) : Result :=
  .next (runEvent (.feedRevert service) s)

end Sys2Proof.Machine
end

