-- ==== Sys2Proof/Machine/LinkCommands.lean ====
section
/-! DEFINITION. The commands of the ensemble link: one meaning each. -/

namespace Sys2Proof.Machine

/-- LINK_HUNT_PACKET (R41). -/
def execLinkHuntPacket (bytes : List Byte) (s : State) : Result :=
  .next (linkHunt bytes (settle s))

/-- LINK_HEADER_FAILED (R42). -/
def execLinkHeaderFailed (bytes : List Byte) (s : State) : Result :=
  .next (linkFailed bytes (settle s))

/-- PRESENCE (R68). -/
def execPresence (packet : LinkPacket) (s : State) : Result :=
  .next (receive .presence packet (settle s))

/-- CLAIM (R71). -/
def execClaim (packet : LinkPacket) (s : State) : Result :=
  .next (receive .claim packet (settle s))

/-- CONTRIB (R90). -/
def execContrib (packet : LinkPacket) (s : State) : Result :=
  .next (receive .contrib packet (settle s))

/-- ALERT (R164). -/
def execAlert (packet : LinkPacket) (s : State) : Result :=
  .next (receive .alert packet (settle s))

/-- ALERT_END (R167). -/
def execAlertEnd (packet : LinkPacket) (s : State) : Result :=
  .next (receive .alertEnd packet (settle s))

/-- TRANSMIT_DONE (R53). -/
def execTransmitDone (s : State) : Result :=
  .next (transmitterFree (settle s))

end Sys2Proof.Machine
end

