-- ==== Sys2Proof/Machine/Reference.lean ====
section
/-! DEFINITION. The commands of the frame reference: one meaning each. -/

namespace Sys2Proof.Machine

/-- TIME_MESSAGE (R2). -/
def execTimeMessage (bytes : List Byte) (s : State) : Result :=
  .next (takeTime bytes (settle s))

/-- FRAME_PULSE (R3). -/
def execFramePulse (elapsed : Nat) (order : BoundaryOrder) (s : State) : Result :=
  .next (takePulse elapsed order (settle s))

/-- LOCAL_TIMER_EXPIRY (R3). -/
def execLocalTimerExpiry (order : BoundaryOrder) (s : State) : Result :=
  .next (raiseBoundary .timer order (settle s))

/-- MISSED_PULSE (R8). -/
def execMissedPulse (s : State) : Result :=
  .next (missPulse (settle s))

/-- HOLDOVER_EXPIRED (R9). -/
def execHoldoverExpired (s : State) : Result :=
  .next (runEvent .holdoverExpired s)

/-- FRAME_JUMP (R11). -/
def execFrameJump (s : State) : Result :=
  .next (runEvent .frameJump s)

end Sys2Proof.Machine
end

