-- ==== Sys2Proof/Machine/Requests.lean ====
section
/-! DEFINITION. The commands of the supervision requests: one meaning each. -/

namespace Sys2Proof.Machine

/-- REQUEST_RECEIVED (R180). -/
def execRequestReceived (request : RequestFrame) (s : State) : Result :=
  .next (takeFrame request (settle s))

/-- READ_STATUS (R182). -/
def execReadStatus (s : State) : Result :=
  .next (takeRequest .readStatus readStatus (settle s))

/-- READ_COUNTERS (R186). -/
def execReadCounters (s : State) : Result :=
  .next (takeRequest .readCounters readCounters (settle s))

/-- READ_VIEW (R80). -/
def execReadView (s : State) : Result :=
  .next (takeRequest .readView readView (settle s))

/-- READ_LAYOUT (R182). -/
def execReadLayout (s : State) : Result :=
  .next (takeRequest .readLayout readLayout (settle s))

/-- READ_ALERTS (R172). -/
def execReadAlerts (s : State) : Result :=
  .next (takeRequest .readAlerts readAlerts (settle s))

/-- READ_TEXT (R130). -/
def execReadText (s : State) : Result :=
  .next (takeRequest .readText readText (settle s))

/-- READ_PICTURES (R150). -/
def execReadPictures (s : State) : Result :=
  .next (takeRequest .readPictures readPictures (settle s))

/-- CLEAR_FLAGS (R184). -/
def execClearFlags (s : State) : Result :=
  .next (takeRequest .clearFlags clearFlags (settle s))

/-- CLEAR_COUNTERS (R186). -/
def execClearCounters (s : State) : Result :=
  .next (takeRequest .clearCounters clearCounters (settle s))

/-- SERVICE_OFF (R77). -/
def execServiceOff (s : State) : Result :=
  .next (takeRequest .serviceOff (switchService false) (settle s))

/-- SERVICE_ON (R77). -/
def execServiceOn (s : State) : Result :=
  .next (takeRequest .serviceOn (switchService true) (settle s))

/-- ALERT_START (R155). -/
def execAlertStart (s : State) : Result :=
  .next (takeRequest .alertStart alertStart (settle s))

/-- ALERT_TEST (R155). -/
def execAlertTest (s : State) : Result :=
  .next (takeRequest .alertTest alertTest (settle s))

/-- ALERT_STOP (R155). -/
def execAlertStop (s : State) : Result :=
  .next (takeRequest .alertStop alertStop (settle s))

/-- TEXT_FLUSH (R131). -/
def execTextFlush (s : State) : Result :=
  .next (takeRequest .textFlush textFlush (settle s))

/-- PICTURE_FLUSH (R149). -/
def execPictureFlush (s : State) : Result :=
  .next (takeRequest .pictureFlush pictureFlush (settle s))

/-- REJOIN (R183). -/
def execRejoin (s : State) : Result :=
  .next (takeRequest .rejoin rejoin (settle s))

/-- SOFT_RESET (R183). -/
def execSoftReset (s : State) : Result :=
  .next (takeRequest .softReset softReset (settle s))

/-- LOAD_CONFIG (R179). -/
def execLoadConfig (s : State) : Result :=
  .next (takeRequest .loadConfig loadConfig (settle s))

end Sys2Proof.Machine
end

