-- ==== Sys2Proof/Machine/Start.lean ====
section
/-! DEFINITION. The commands of the start of the unit and its configuration read: one meaning each. -/

namespace Sys2Proof.Machine

/-- POWER_ON (R175). -/
def execPowerOn (s : State) : Result :=
  .next (powerOn s)

/-- LINE_RESET (R175). -/
def execLineReset (s : State) : Result :=
  .next (lineReset s)

/-- CONFIG_READ_COMPLETE (R178). -/
def execConfigReadComplete (flash : List Byte) (s : State) : Result :=
  .next (readComplete flash (settle s))

/-- READ_FAILED (R175). -/
def execReadFailed (s : State) : Result :=
  .next (runEvent .readFailed s)

end Sys2Proof.Machine
end

