-- ==== Sys2Proof/Machine/UnitEvents.lean ====
section
/-! DEFINITION. The commands of the unit state, the own PRESENCE and CLAIM, and the peer table at a boundary: one meaning each. -/

namespace Sys2Proof.Machine

/-- ENTER_JOINING (R62). -/
def execEnterJoining (s : State) : Result :=
  .next (runEvent .enterJoining s)

/-- ENTER_ON_AIR (R63). -/
def execEnterOnAir (s : State) : Result :=
  .next (runEvent .enterOnAir s)

/-- ENTER_ISOLATED (R64). -/
def execEnterIsolated (s : State) : Result :=
  .next (runEvent .enterIsolated s)

/-- PRESENCE_SEND (R75). -/
def execPresenceSend (s : State) : Result :=
  .next (runEvent .presenceSend s)

/-- CLAIM_RESEND (R75). -/
def execClaimResend (s : State) : Result :=
  .next (runEvent .claimResend s)

/-- PEER_SILENT (R69). -/
def execPeerSilent (unit : UnitId) (s : State) : Result :=
  .next (runEvent (.peerSilent unit) s)

/-- SLOT_REMOVAL (R73). -/
def execSlotRemoval (unit : UnitId) (s : State) : Result :=
  .next (runEvent (.slotRemoval unit) s)

/-- CLAIM_IN_FORCE (R73). -/
def execClaimInForce (unit : UnitId) (s : State) : Result :=
  .next (runEvent (.claimInForce unit) s)

end Sys2Proof.Machine
end

