-- ==== Sys2Proof/Machine/Dispatch.lean ====
section
/-! DEFINITION. One arm per constructor of Instr. -/

namespace Sys2Proof.Machine

def exec (i : Instr) (s : State) : Host.Outcome State Fault Refusal :=
  match i with
  | .powerOn => Sys2Proof.Machine.execPowerOn s
  | .lineReset => Sys2Proof.Machine.execLineReset s
  | .configReadComplete flash => Sys2Proof.Machine.execConfigReadComplete flash s
  | .readFailed => Sys2Proof.Machine.execReadFailed s
  | .timeMessage bytes => Sys2Proof.Machine.execTimeMessage bytes s
  | .framePulse elapsed order => Sys2Proof.Machine.execFramePulse elapsed order s
  | .localTimerExpiry order => Sys2Proof.Machine.execLocalTimerExpiry order s
  | .missedPulse => Sys2Proof.Machine.execMissedPulse s
  | .holdoverExpired => Sys2Proof.Machine.execHoldoverExpired s
  | .frameJump => Sys2Proof.Machine.execFrameJump s
  | .enterJoining => Sys2Proof.Machine.execEnterJoining s
  | .enterOnAir => Sys2Proof.Machine.execEnterOnAir s
  | .enterIsolated => Sys2Proof.Machine.execEnterIsolated s
  | .presenceSend => Sys2Proof.Machine.execPresenceSend s
  | .claimResend => Sys2Proof.Machine.execClaimResend s
  | .peerSilent unit => Sys2Proof.Machine.execPeerSilent unit s
  | .slotRemoval unit => Sys2Proof.Machine.execSlotRemoval unit s
  | .claimInForce unit => Sys2Proof.Machine.execClaimInForce unit s
  | .linkHuntPacket bytes => Sys2Proof.Machine.execLinkHuntPacket bytes s
  | .linkHeaderFailed bytes => Sys2Proof.Machine.execLinkHeaderFailed bytes s
  | .presence packet => Sys2Proof.Machine.execPresence packet s
  | .claim packet => Sys2Proof.Machine.execClaim packet s
  | .contrib packet => Sys2Proof.Machine.execContrib packet s
  | .alert packet => Sys2Proof.Machine.execAlert packet s
  | .alertEnd packet => Sys2Proof.Machine.execAlertEnd packet s
  | .transmitDone => Sys2Proof.Machine.execTransmitDone s
  | .feedHuntPacket port bytes => Sys2Proof.Machine.execFeedHuntPacket port bytes s
  | .feedPacketFailed port bytes => Sys2Proof.Machine.execFeedPacketFailed port bytes s
  | .feedPacketMalformed port kind body => Sys2Proof.Machine.execFeedPacketMalformed port kind body s
  | .audio port body => Sys2Proof.Machine.execAudio port body s
  | .textSet port body => Sys2Proof.Machine.execTextSet port body s
  | .textClear port body => Sys2Proof.Machine.execTextClear port body s
  | .picBegin port body => Sys2Proof.Machine.execPicBegin port body s
  | .picData port body => Sys2Proof.Machine.execPicData port body s
  | .picEnd port body => Sys2Proof.Machine.execPicEnd port body s
  | .picDelete port body => Sys2Proof.Machine.execPicDelete port body s
  | .alertReq port body => Sys2Proof.Machine.execAlertReq port body s
  | .alertClear port body => Sys2Proof.Machine.execAlertClear port body s
  | .fill port body => Sys2Proof.Machine.execFill port body s
  | .feedLost port => Sys2Proof.Machine.execFeedLost port s
  | .feedSwitch service => Sys2Proof.Machine.execFeedSwitch service s
  | .feedRevert service => Sys2Proof.Machine.execFeedRevert service s
  | .textExpiry service slot => Sys2Proof.Machine.execTextExpiry service slot s
  | .pictureLoadTimeout service object => Sys2Proof.Machine.execPictureLoadTimeout service object s
  | .pictureExpiry service object => Sys2Proof.Machine.execPictureExpiry service object s
  | .alertLineChange line high => Sys2Proof.Machine.execAlertLineChange line high s
  | .alertDurationLimit => Sys2Proof.Machine.execAlertDurationLimit s
  | .localAlertOn => Sys2Proof.Machine.execLocalAlertOn s
  | .localAlertIdle => Sys2Proof.Machine.execLocalAlertIdle s
  | .alertRepeat => Sys2Proof.Machine.execAlertRepeat s
  | .alertRecordStart id => Sys2Proof.Machine.execAlertRecordStart id s
  | .alertRecordEnded id => Sys2Proof.Machine.execAlertRecordEnded id s
  | .requestReceived request => Sys2Proof.Machine.execRequestReceived request s
  | .readStatus => Sys2Proof.Machine.execReadStatus s
  | .readCounters => Sys2Proof.Machine.execReadCounters s
  | .readView => Sys2Proof.Machine.execReadView s
  | .readLayout => Sys2Proof.Machine.execReadLayout s
  | .readAlerts => Sys2Proof.Machine.execReadAlerts s
  | .readText => Sys2Proof.Machine.execReadText s
  | .readPictures => Sys2Proof.Machine.execReadPictures s
  | .clearFlags => Sys2Proof.Machine.execClearFlags s
  | .clearCounters => Sys2Proof.Machine.execClearCounters s
  | .serviceOff => Sys2Proof.Machine.execServiceOff s
  | .serviceOn => Sys2Proof.Machine.execServiceOn s
  | .alertStart => Sys2Proof.Machine.execAlertStart s
  | .alertTest => Sys2Proof.Machine.execAlertTest s
  | .alertStop => Sys2Proof.Machine.execAlertStop s
  | .textFlush => Sys2Proof.Machine.execTextFlush s
  | .pictureFlush => Sys2Proof.Machine.execPictureFlush s
  | .rejoin => Sys2Proof.Machine.execRejoin s
  | .softReset => Sys2Proof.Machine.execSoftReset s
  | .loadConfig => Sys2Proof.Machine.execLoadConfig s

end Sys2Proof.Machine
end

