-- ==== Sys2Proof/Safety.lean ====
section
/-! DEFINITION. What holds in a sound run of the unit, in the terms the claims use. -/

namespace Sys2Proof.Machine

/-- The attention line is as R185 gives it: ASSERTED while a set flag is enabled in the mask in force. -/
def AttentionFollows (s : State) : Prop := s.sup.attention = attentionDue s

/-- The page pool's memory has its canonical form (log 8). -/
def MemorySound (s : State) : Prop := Memory.wf s.pic.memory = true

/-- What ties the unit state to the read, the held image, the layout chain and the transmit queue: a read is in progress
in LOADING alone (R175, R178); a running unit holds an image (R60, R178), a HALTED one none (R178); outside JOINING,
ON_AIR and ISOLATED the chain is empty and H absent (R35); outside the four states that take packets the queue is empty
(R40, R56). -/
structure ModeSound (s : State) : Prop where
  reading : s.cfl.reading = decide (s.pvw.unit = .loading)
  running : s.pvw.unit.running = true → s.cfl.image.isSome = true
  halted  : s.pvw.unit = .halted → s.cfl.image = none
  chain   : s.pvw.unit.computing = false → s.ple.chain = [] ∧ s.ple.last = none
  queue   : s.pvw.unit.viewing = false → s.lkp.queue = []

/-- The bounded stores: 64 packets and 64 echoes (R51, R54), 16 audio units (R112, R114), 4 requests (R180), 4 alert
records (R163), 16 digests (R78). -/
structure StoresSound (s : State) : Prop where
  queue   : s.lkp.queue.length ≤ 64
  echoes  : s.lkp.echoes.length ≤ 64
  audio   : ∀ k : ServiceIx, s.sin.services[k].queue.length ≤ 16
  alert   : s.sin.alertQueue.length ≤ 16
  request : s.sup.queue.length ≤ 4
  records : s.alc.table.length ≤ 4
  digests : s.pvw.digests.length ≤ 16

/-- The boundary in progress when event `a` is taken: `t` is the state when the event's turn comes, `rest` what is left
of the agenda after it. -/
def EventTurn (a : Act) (s t : State) (rest : List Act) : Prop :=
  ∃ before, s.progress.agenda = before ++ a :: rest ∧ a ∉ before ∧
    t = runAll before { s with progress.agenda := [] }

/-- A flag raised on top of the other effects that `t` shows: the flag set gains it, and the attention line follows. -/
def supWith (f : Flag) (s : State) : Sup := (raiseFlag f s).sup

/-! ### Link packets -/

/-- The command that brings a link packet of kind `k`. -/
def packetCommand : Kind → LinkPacket → Instr
  | .presence, p => .presence p
  | .claim, p => .claim p
  | .contrib, p => .contrib p
  | .alert, p => .alert p
  | .alertEnd, p => .alertEnd p

/-- The receiver sorts packet `p`: it is LOCKED in a unit that takes bytes, and the header is well formed (R40, R43). -/
structure Sorted (k : Kind) (p : LinkPacket) (r : State) : Prop where
  running : r.pvw.unit.running = true
  locked  : r.lkp.receiver = .locked
  form    : headerWellFormed k p = true

/-- Packet `p` comes from peer `u` of this ensemble (R44, R46). -/
structure PeerPacket (k : Kind) (p : LinkPacket) (u : UnitId) (r : State) : Prop where
  sorted : Sorted k p r
  ours   : p.ensemble = ensembleOf r ∧ p.lead = byteOf (leadOf r)
  sender : p.sender.toNat = u.val
  other  : u ≠ selfOf r

/-- `r` after a valid packet from `u` has been noted, before it is handed on (R42, R46, R48, R64). -/
def noted (p : LinkPacket) (u : UnitId) (r : State) : State :=
  let x := r.lkp.senders[u]
  linkReturn (markPeer
    { r with lkp := { r.lkp with
        failures := 0, nextKnown := true, peerAge := 0,
        senders := r.lkp.senders.set u
          { x with last := some p.seq, packets := bump x.packets,
                   gaps := if x.last.any (fun l => p.seq != l + 1) then bump x.gaps else x.gaps } } })

/-- The packet that PVW hands in when it sends a PRESENCE, and one of the claim `c` (R74, R75). -/
def presencePacket (s : State) : TxPacket := ⟨.presence, 0, 0, ownPresence s⟩

@[inherit_doc presencePacket]
def claimPacket (c : FramedClaim) : TxPacket := ⟨.claim, 0, 0, claimBytes c⟩

/-- The transmit queue with a PRESENCE handed in where there is room (R52). -/
def withPresence (p : TxPacket) (q : List TxPacket) : List TxPacket := q.filter (fun x => x.kind != .presence) ++ [p]

/-- LKP in unit `s`, with `l` its state, once a free transmitter has taken the packet it may serve, if there is one
(R53). -/
def servedLkp (s : State) (l : Lkp) : Lkp := (serve { s with lkp := l }).lkp

/-! ### Bytes on a line -/

/-- The bytes hold no sync pair. -/
def NoPair (a b : Byte) (l : List Byte) : Prop := ∀ u v, l ≠ u ++ a :: b :: v

/-- What may stand before the next sync pair: idle fill alone where a packet is expected to start, any bytes without a
sync pair where the receiver scans (R41, R42). -/
def linkLead (l : Lkp) (bs : List Byte) : Prop :=
  match l.receiver with
  | .hunt => if l.huntCount = 0 then NoPair 0x6E 0x93 bs else ∀ b ∈ bs, b = 0x00
  | .locked => if l.nextKnown then ∀ b ∈ bs, b = 0x00 else NoPair 0x6E 0x93 bs

/-- What may stand before the next sync pair of a port (R102, R103, R105). -/
def feedLead (x : Port) (bs : List Byte) : Prop :=
  match x.state with
  | .hunt => if x.huntCount = 0 then NoPair 0xB7 0x4E bs else ∀ b ∈ bs, b = 0xFF
  | .locked => if x.nextKnown then ∀ b ∈ bs, b = 0xFF else NoPair 0xB7 0x4E bs
  | _ => NoPair 0xB7 0x4E bs

/-! ### Feed packets -/

/-- The command that brings a feed packet of kind `f`. -/
def feedCommand : FeedKind → PortId → List Byte → Instr
  | .audio, p, b => .audio p b
  | .textSet, p, b => .textSet p b
  | .textClear, p, b => .textClear p b
  | .picBegin, p, b => .picBegin p b
  | .picData, p, b => .picData p b
  | .picEnd, p, b => .picEnd p b
  | .picDelete, p, b => .picDelete p b
  | .alertReq, p, b => .alertReq p b
  | .alertClear, p, b => .alertClear p b
  | .fill, p, b => .fill p b

/-- A well-formed packet of kind `f` at a LOCKED port whose content is in use (R104, R107). -/
structure FeedTaken (f : FeedKind) (p : PortId) (body : List Byte) (r : State) : Prop where
  running : r.pvw.unit.running = true
  locked  : r.sin.ports[p].state = .locked
  length  : f.lengthOk body.length = true
  inUse   : inUse r p = true

/-- The port carries the feed of service `k`, main or backup (R101). -/
def FeedsService (p : PortId) (k : ServiceIx) (r : State) : Prop :=
  roleOf r p = .main k.val ∨ roleOf r p = .backup k.val

/-- `r` after port `p` has taken a packet of kind `f`, before it is handed on (R103, R105, R107). -/
def tookFeed (f : FeedKind) (p : PortId) (r : State) : State :=
  let x := r.sin.ports[p]
  let y := { x with active := true, failures := 0, nextKnown := true, counters.taken := bumpKind f x.counters.taken }
  { r with sin.ports := r.sin.ports.set p y }

/-! ### Requests -/

/-- The command in which SUP takes a request of kind `k`. -/
def requestCommand : RequestKind → Instr
  | .readStatus => .readStatus
  | .readCounters => .readCounters
  | .readView => .readView
  | .readLayout => .readLayout
  | .readAlerts => .readAlerts
  | .readText => .readText
  | .readPictures => .readPictures
  | .clearFlags => .clearFlags
  | .clearCounters => .clearCounters
  | .serviceOff => .serviceOff
  | .serviceOn => .serviceOn
  | .alertStart => .alertStart
  | .alertTest => .alertTest
  | .alertStop => .alertStop
  | .textFlush => .textFlush
  | .pictureFlush => .pictureFlush
  | .rejoin => .rejoin
  | .softReset => .softReset
  | .loadConfig => .loadConfig

/-- The oldest request of the queue is `q`, with a good check and the code of kind `k`; `rs` wait behind it (R180). -/
structure Asked (k : RequestKind) (q : Request) (rs : List Request) (r : State) : Prop where
  queue : r.sup.queue = q :: rs
  check : q.checkGood = true
  code  : requestOf q.code = some k

/-- The request is one the unit state takes, and its body has the length of its kind (R180, R181). -/
structure Taken (k : RequestKind) (q : Request) (rs : List Request) (r : State) : Prop where
  asked  : Asked k q rs r
  state  : k.takenIn r.pvw.unit = true
  length : k.lengthOk q.body.length = true

/-- SUP has the request in hand (R180). -/
def inHand (q : Request) (rs : List Request) (r : State) : State :=
  { r with sup := { r.sup with queue := rs, inHand := some q } }

/-- `t` after the request `q` has been answered and SUP has gone on through the queue (R180). -/
def answered (q : Request) (k : AnswerKind) (d : AnswerData) (rs : List Request) (t : State) : State :=
  serveBad rs { t with sup := { t.sup with inHand := none, answers := t.sup.answers ++ [⟨q.tag, q.code, k, d, answerBytes q.tag q.code k d⟩] } }

end Sys2Proof.Machine
end

