-- ==== Sys2Proof/Certificates/Slice0/Obligations.lean ====
section
/-! DEFINITION. The statements for the provers. Each docstring opens with the title; what it claims in words, and
the spec's sections it rests on, stand in OBLIGATIONS.json. `settle s` is the state a command finds: the boundary in
progress is first run to its end; `EventTurn` and `advance` cut a boundary at its events (log 1). -/

open Sys2Proof Sys2Proof.Machine

/-- A step takes the command at the front of the queue and runs it on the state with the rest of the queue. The
model's choice in part: log 22. -/
def Obligations.StepRunsFrontCommand : Prop :=
  ∀ (c : Instr) (cs : List Instr) (s : State), s.pending = c :: cs → step s = exec c { s with pending := cs }

/-- On an empty queue a step runs what is left of the boundary in progress, and nothing else (model choice, logs 1 and
3). -/
def Obligations.IdleStepRunsTheBoundary : Prop :=
  (∀ s : State, s.pending = [] → step s = .next (settle s)) ∧
  (∀ s : State, (settle s).progress.agenda = []) ∧
  (∀ s : State, s.progress.agenda = [] → settle s = s)

/-- Every command answers a next state, and touches neither the queue of commands nor, but for a line change, the
alert lines. -/
def Obligations.ExecAnswersNext : Prop :=
  ∀ (c : Instr) (s : State), ∃ t, exec c s = .next t ∧ t.pending = s.pending ∧
    ((∀ l h, c ≠ .alertLineChange l h) → t.lines = s.lines)

/-- A boundary's actions in their order, when each event of it is due, and that taking events as commands of their own
changes nothing. The model's choice in part: log 1, 2, 4, 42, 48, 49, 50, 53, 55, 56, 59, 60, 61, 63, 64, 65, 66, 68,
69, 73, 77. -/
def Obligations.EventsOnlyCutTheBoundary : Prop :=
  (∀ (a : Act) (s : State), settle (runEvent a s) = settle s) ∧
  (∀ (o : BoundaryOrder) (n : Notices) (s : State),
    settle (beginBoundary o n s) = runAll (agendaOf s o n) { s with progress := .none }) ∧
  (∀ (s : State) (o : BoundaryOrder) (n : Notices),
    let opt (b : Bool) (as : List Act) : List Act := if b then as else []
    let ports : List PortId := [0, 1, 2, 3, 4, 5]
    let units : List UnitId := [0, 1, 2, 3, 4, 5, 6, 7]
    let slots : List SlotIx := [0, 1, 2, 3, 4, 5, 6, 7]
    let opening : List (List Act) := [[.endFrame], opt n.jump [.frameJump], opt n.expiry [.holdoverExpired],
      opt n.relocked [.relocked], [.linkAges, .readAge, .readFailed]]
    let intake : List Act := List.flatten [ports.flatMap (fun p => [.portActivity p, .feedLost p]),
      (configured s).map .feedCounts, (configured s).flatMap (fun k => [.feedSwitch k, .feedRevert k])]
    let join : List Act := [.listenCount, .enterJoining]
    let sent : List Act := [.presenceSend, .claimResend, .enterIsolated]
    let held (k : ServiceIx) : List ObjectId := (s.pic.table.filter (fun r => r.service = k)).map (·.id)
    let content (k : ServiceIx) : List Act := List.flatten [[.textSide k], slots.map (.textExpiry k),
      [.textHold k, .pictureSide k], (held k).map (.pictureLoadTimeout k), [.pictureLife k],
      (held k).map (.pictureExpiry k)]
    let alerts : List (List Act) := [s.alc.table.flatMap (fun r => [.alertRecordStart r.id, .alertRecordEnded r.id]),
      [.localAlertOn, .localAlertIdle, .alertStopTest, .alertDurationLimit, .alertSourcesTest, .escalate, .originate,
       .alertRepeat]]
    let unnumbered : List (List Act) := [intake, [.rejoinHold, .startFrame, .listenCount], sent]
    let numbered : List (List Act) := [opt o.lossFirst intake, units.map .slotRemoval, units.map .claimInForce,
      units.map .peerSilent, [.rejoinHold, .enterOnAir, .startFrame, .freeSlot], opt o.moveFirst join,
      [.computeLayout, .pruneChain, .sealFrame], opt (!o.moveFirst) join, opt o.expiryFirst [.expireContributions],
      opt s.pvw.unit.running ((configured s).flatMap content), [.produce],
      opt (!o.expiryFirst) [.expireContributions], opt (!o.lossFirst) intake, sent]
    (s.ftu.now = none → agendaOf s o n = (opening ++ unnumbered).flatten) ∧
    (s.ftu.now.isSome = true → agendaOf s o n = (opening ++ numbered ++ alerts).flatten)) ∧
  (∀ (a : Act) (rest : List Act) (t : State), advance [] t = t ∧ runAll [] t = t ∧
    runAll (a :: rest) t = runAll rest (takeTurn a t) ∧
    (isEvent a = true → due a t = true → advance (a :: rest) t = { t with progress.agenda := a :: rest }) ∧
    (isEvent a = false ∨ due a t = false → advance (a :: rest) t = advance rest (takeTurn a t)) ∧
    (due a t = false → a ≠ .presenceSend → a ≠ .claimResend → a ≠ .alertRepeat → takeTurn a t = t) ∧
    (isEvent a = false → due a t = true) ∧
    (isEvent a = false ↔ a ∈ ([.endFrame, .relocked, .linkAges, .readAge, .rejoinHold, .listenCount, .startFrame,
        .freeSlot, .computeLayout, .pruneChain, .sealFrame, .expireContributions, .produce, .alertStopTest,
        .alertSourcesTest, .escalate, .originate] : List Act) ∨ (∃ p, a = .portActivity p) ∨
      ∃ k, a = .feedCounts k ∨ a = .textSide k ∨ a = .textHold k ∨ a = .pictureSide k ∨ a = .pictureLife k)) ∧
  (∀ t : State,
    let reached (f : FrameNo) : Prop := ∃ n, t.ftu.now = some n ∧ later f n = false
    let joined : Prop := t.pvw.unit = .joining ∨ t.pvw.unit = .onAir
    let follows : Prop := t.pvw.unit ≠ .clash ∧ t.pvw.unit ≠ .offAir
    let locked (q : Option PortId) : Prop := ∃ p, q = some p ∧ t.sin.ports[p].state = .locked
    due .frameJump t = true ∧ due .holdoverExpired t = true ∧
    (due .readFailed t = true ↔ t.cfl.reading = true ∧ t.cfl.readAge = 25) ∧
    (∀ p, due (.feedLost p) t = true ↔ t.pvw.unit.running = true ∧ t.sin.ports[p].idleCount = 8 ∧
      (t.sin.ports[p].state = .hunt ∨ t.sin.ports[p].state = .locked)) ∧
    (∀ k, due (.feedSwitch k) t = true ↔ t.pvw.unit.running = true ∧ t.sin.services[k].selection = .onMain ∧
      t.sin.services[k].mainDown = 8 ∧ locked (backupPort t k)) ∧
    (∀ k, due (.feedRevert k) t = true ↔ t.pvw.unit.running = true ∧ t.sin.services[k].selection = .onBackup ∧
      (t.sin.services[k].mainUp = 125 ∨ (t.sin.services[k].backupDown = 8 ∧ locked (mainPort t k)))) ∧
    (∀ u, due (.slotRemoval u) t = true ↔
      follows ∧ u ≠ selfOf t ∧ ∃ f, t.pvw.slots[u].removal = some f ∧ reached f) ∧
    (∀ u, due (.claimInForce u) t = true ↔ follows ∧ ∃ c, t.pvw.slots[u].waiting = some c ∧ reached c.frame) ∧
    (∀ u, due (.peerSilent u) t = true ↔ (t.pvw.unit = .listen ∨ joined) ∧ u ≠ selfOf t ∧
      (t.pvw.slots[u].state = .heard ∨ t.pvw.slots[u].state = .present) ∧
      ∃ n f, t.ftu.now = some n ∧ t.pvw.slots[u].stamp = some f ∧ later n (plus f 25) = true) ∧
    (due .enterJoining t = true ↔ t.pvw.unit = .listen ∧ t.pvw.listenCount = 32 ∧ t.ftu.now.isSome = true) ∧
    (due .enterOnAir t = true ↔ t.pvw.unit = .joining ∧ ∃ n, t.pvw.joinFrame = some n ∧ t.ftu.now = some n) ∧
    (due .enterIsolated t = true ↔ joined ∧ t.lkp.echoAge = 25) ∧
    (∀ k i, due (.textExpiry k i) t = true ↔
      let x := t.txc.carousels[k].slots[i]
      x.state = .active ∧ x.lifetime ≠ 0 ∧ x.remaining = 0) ∧
    (∀ k o, due (.pictureLoadTimeout k o) t = true ↔
      ∃ x, findObject k o t = some x ∧ x.state = .loading ∧ x.idle = 250) ∧
    (∀ k o, due (.pictureExpiry k o) t = true ↔ ∃ x, findObject k o t = some x ∧ x.state ≠ .loading ∧
      x.lifetime ≠ 0 ∧ x.remaining = 0 ∧ x.expiring = false) ∧
    (due .presenceSend t = true ↔ t.pvw.unit.viewing = true ∧ t.progress.presenceSent = false ∧
      t.pvw.presenceCount = 4) ∧
    (due .claimResend t = true ↔ joined ∧ t.pvw.ownClaim.isSome = true ∧ t.progress.claimSent = false ∧
      t.pvw.claimCount = 24) ∧
    (∀ i, due (.alertRecordStart i) t = true ↔ t.pvw.unit.viewing = true ∧
      ∃ x, t.alc.table.find? (fun y => y.id = i) = some x ∧ x.state = .waiting ∧ reached x.start) ∧
    (∀ i, due (.alertRecordEnded i) t = true ↔ t.pvw.unit.viewing = true ∧
      ∃ x e, t.alc.table.find? (fun y => y.id = i) = some x ∧ x.stop = some e ∧ reached e.frame) ∧
    (due .localAlertOn t = true ↔
      t.alc.localAlert.state = .announced ∧ ∃ f, t.alc.localAlert.start = some f ∧ reached f) ∧
    (due .localAlertIdle t = true ↔
      t.alc.localAlert.state = .ending ∧ ∃ f, t.alc.localAlert.stop = some f ∧ reached f) ∧
    (due .alertDurationLimit t = true ↔ t.alc.localAlert.state = .on ∧ ∃ n f m, t.ftu.now = some n ∧
      t.alc.localAlert.start = some f ∧ t.cfl.image = some m ∧ 1 ≤ m.durationLimit ∧
      later (plus f (25 * m.durationLimit)) n = false) ∧
    (due .alertRepeat t = true ↔
      t.alc.localAlert.state ≠ .idle ∧ t.progress.alertSent = false ∧ t.alc.repeatCount = 4)) ∧
  (∀ t : State, takeTurn .endFrame t = { t with ofr.frame := none } ∧
    takeTurn .linkAges t = { t with lkp := { t.lkp with
      peerAge := min (t.lkp.peerAge + 1) 25, echoAge := min (t.lkp.echoAge + 1) 25 } } ∧
    takeTurn .readAge t = (if t.cfl.reading then { t with cfl.readAge := min (t.cfl.readAge + 1) 25 } else t))

/-- The state after reset holds the values of the chapters' power-on tables; the alert carousel's pointer is the
model's 0 (log 24). The model's choice in part: log 24. -/
def Obligations.ResetValues : Prop :=
  let s := State.reset
  s.ftu.ref = .unlocked ∧ s.ftu.now = none ∧ s.ftu.holdover = 0 ∧ s.ftu.message = none ∧ s.ftu.candidate = none ∧
  s.ftu.source = .timer ∧ s.ofr.outputValid = false ∧ s.ple.chain = [] ∧ s.ple.last = none ∧
  s.lkp.receiver = .hunt ∧ s.lkp.queue = [] ∧ s.lkp.transmitting = none ∧ s.lkp.seq = 0 ∧ s.lkp.echoes = [] ∧
  s.lkp.peerAge = 25 ∧ s.lkp.echoAge = 25 ∧ s.pvw.unit = .loading ∧ (∀ u : UnitId, s.pvw.slots[u].state = .absent) ∧
  (∀ k : ServiceIx, s.pvw.switches[k] = true) ∧ s.pvw.rejoinHold = 25 ∧ s.pvw.ownClaim = none ∧ s.pvw.digests = [] ∧
  (∀ k : ServiceIx, s.cpr.last[k] = none) ∧ (∀ i : Fin 16, s.asm.slots[i] = .free) ∧ s.asm.hold = [] ∧
  (∀ p : PortId, s.sin.ports[p].state = .hunt ∧ s.sin.ports[p].idleCount = 0) ∧
  (∀ k : ServiceIx, s.sin.services[k].selection = .onMain ∧ s.sin.services[k].queue = []) ∧ s.sin.alertQueue = [] ∧
  (∀ (k : ServiceIx) (i : SlotIx), s.txc.carousels[k].slots[i].state = .empty) ∧
  (∀ k : ServiceIx, s.txc.carousels[k].gap = 16 ∧ s.txc.carousels[k].current = none) ∧ s.txc.alert.message = none ∧
  s.pic.table = [] ∧ s.pic.lowestFree = 384 ∧ (freePages s.pic.table).length = 384 ∧
  s.alc.localAlert.state = .idle ∧ s.alc.table = [] ∧ s.alc.serial = 0 ∧ s.sup.queue = [] ∧ s.sup.inHand = none ∧
  s.sup.flags = 0 ∧ s.sup.attention = false ∧ s.cfl.image = none ∧ s.cfl.reading = true ∧ s.cfl.readAge = 0 ∧
  s.cfl.lock = none ∧ s.cfl.cause = .none ∧ s.cfl.faultField = none ∧
  s.ftu.matched = false ∧ s.ftu.next = none ∧ s.ofr.frame = none ∧
  s.lkp.huntCount = 0 ∧ s.lkp.failures = 0 ∧ s.lkp.nextKnown = false ∧ s.lkp.held = [] ∧ (∀ u : UnitId, s.lkp.senders[u].last = none) ∧
  s.pvw.version = 0 ∧ s.pvw.listenCount = 0 ∧ s.pvw.joinFrame = none ∧ s.pvw.peerMark = false ∧ s.pvw.echoMark = false ∧
  s.pvw.peerWaiver = false ∧ s.pvw.presenceCount = 0 ∧ s.pvw.claimCount = 0 ∧ s.cpr.alertLast = none ∧ s.asm.rows = [] ∧
  (∀ p : PortId, s.sin.ports[p].huntCount = 0 ∧ s.sin.ports[p].failures = 0 ∧ s.sin.ports[p].nextKnown = false ∧
    s.sin.ports[p].held = []) ∧
  (∀ k : ServiceIx, s.sin.services[k].mainDown = 0 ∧ s.sin.services[k].mainUp = 0 ∧ s.sin.services[k].backupDown = 0) ∧
  (∀ (k : ServiceIx) (i : SlotIx), s.txc.carousels[k].slots[i].toggle = false) ∧
  (∀ k : ServiceIx, s.txc.carousels[k].cycle = [] ∧ s.txc.carousels[k].position = none ∧
    s.txc.carousels[k].holdCount = 0 ∧ s.txc.carousels[k].held = false ∧ s.txc.carousels[k].suspended = false) ∧
  s.txc.alert.toggle = false ∧ s.txc.alert.pointer = 0 ∧
  (∀ k : ServiceIx, s.pic.carousels[k].current = none ∧ s.pic.carousels[k].last = none ∧
    s.pic.carousels[k].paused = false) ∧
  (∀ i : SourceId, (s.alc.sources.get i).raised = false ∧ (s.alc.sources.get i).carried = false ∧
    (s.alc.sources.get i).values = none) ∧
  s.alc.localAlert = ⟨.idle, none, none, none⟩ ∧ s.alc.stopMark = false ∧ s.alc.repeatCount = 0 ∧
  (∀ u : UnitId, s.alc.removals[u] = none) ∧ s.sup.answers = [] ∧
  (∀ n ∈ s.ftu.counters.list ++ s.ofr.counters.list ++ s.ple.counters.list ++ s.lkp.counters.list ++
    s.lkp.senders.toList.flatMap (fun x => x.late :: x.list) ++ s.pvw.counters.list ++
    s.pvw.slots.toList.flatMap (·.counters.list) ++ s.cpr.counters.toList.flatMap (·.list) ++ s.cpr.alertCounters.list ++
    s.asm.counters.list ++ s.asm.otherRow.list ++ s.sin.ports.toList.flatMap (·.counters.list) ++
    s.sin.services.toList.flatMap (·.counters.list) ++ s.sin.alertCounters.list ++
    s.txc.carousels.toList.flatMap (·.counters.list) ++ [s.txc.alert.cells, s.txc.alert.replacements] ++
    s.pic.carousels.toList.flatMap (·.counters.list) ++ sourceIds.flatMap (fun i => (s.alc.sources.get i).counters.list) ++
    s.alc.counters.list ++ [s.sup.lost] ++ s.sup.lifetime.list, n = 0)

/-- The invariants that every step keeps hold right after reset. The model's choice in part: log 8. -/
def Obligations.InvariantsHoldAtReset : Prop :=
  AttentionFollows State.reset ∧ MemorySound State.reset ∧ ModeSound State.reset ∧ StoresSound State.reset

/-- Every step keeps the attention line at what the set flags and the mask in force give. -/
def Obligations.AttentionInvariant : Prop :=
  ∀ s t : State, AttentionFollows s → step s = .next t → AttentionFollows t

/-- Every step keeps the page memory in its canonical form (the form is the model's, log 8). -/
def Obligations.PageMemoryInvariant : Prop :=
  ∀ s t : State, MemorySound s → step s = .next t → MemorySound t

/-- Every step keeps the unit state in accord with the flash read, the held image, the layout chain and the transmit
queue. -/
def Obligations.UnitStateInvariant : Prop :=
  ∀ s t : State, ModeSound s → step s = .next t → ModeSound t

/-- Every step keeps each bounded store within its bound. -/
def Obligations.BoundedStoresInvariant : Prop :=
  ∀ s t : State, StoresSound s → step s = .next t → StoresSound t

/-- POWER_ON gives the reset state; LINE_RESET gives it too, but keeps the held image, the identity lock and the
lifetime counters. The model's choice in part: log 6, 7, 8, 24, 43, 44. -/
def Obligations.PowerAndLineReset : Prop :=
  (∀ s : State, exec .powerOn s =
    .next { State.reset with pending := s.pending, lines := s.lines, freeIx := s.freeIx }) ∧
  (∀ s : State, exec .lineReset s =
    .next { State.reset with
      pending := s.pending, lines := s.lines, freeIx := s.freeIx
      cfl := { State.reset.cfl with image := s.cfl.image, lock := s.cfl.lock }
      sup := { State.reset.sup with
        lifetime := { s.sup.lifetime with lineResets := bump s.sup.lifetime.lineResets } } })

/-- CONFIG_READ_COMPLETE and READ_FAILED: a good image takes the unit to LISTEN, a bad one or a failed read to HALTED.
The model's choice in part: log 14, 46, 61, 71. -/
def Obligations.ConfigurationReadOutcome : Prop :=
  (∀ (s r : State) (flash : List Byte) (i : Image), settle s = r → r.cfl.reading = true →
    flashEnds flash = true → checkFlash r.cfl.lock flash = .good i →
    ∃ t, exec (.configReadComplete flash) s = .next t ∧ t.pvw.unit = .listen ∧
      t.cfl = { r.cfl with image := some i, reading := false, cause := .none, faultField := none,
                           lock := r.cfl.lock.or (some (i.unitId, i.ensembleId)) } ∧
      t.sup.lifetime = { r.sup.lifetime with imagesAccepted := bump r.sup.lifetime.imagesAccepted } ∧
      (∀ p : PortId, t.sin.ports[p] =
        { r.sin.ports[p] with state := if i.roles[p] = .unused then .disabled else .hunt, huntCount := 0, held := [],
                              failures := 0, nextKnown := false, idleCount := 0, active := false }) ∧
      (∀ k : ServiceIx, t.sin.services[k] =
        { r.sin.services[k] with selection := .onMain, mainDown := 0, mainUp := 0, backupDown := 0, queue := [] }) ∧
      t.sin.alertQueue = [] ∧ t.pvw.switches = r.pvw.switches ∧
      (∀ l : LineIx,
        let x := r.alc.sources.get (lineSource l)
        let on := i.lines[l].enabled && decide (r.lines[l] = i.lines[l].activeHigh)
        t.alc.sources.get (lineSource l) =
          if i.lines[l].mode = .edge then { x with raised := false, carried := false }
          else if x.raised = on then { x with carried := false }
          else { x with raised := on, carried := false, counters.lineEvents := bump x.counters.lineEvents }) ∧
      t.sup.attention = decide (t.sup.flags &&& i.attentionMask ≠ 0) ∧
      ((r.lkp.queue.filter (fun p => p.kind.cls = .alert)).length < 64 → t.sup.flags = r.sup.flags) ∧
      t.ftu = r.ftu ∧ t.txc = r.txc ∧ t.pic = r.pic ∧ t.pending = s.pending) ∧
  (∀ (s r : State) (flash : List Byte) (cause : FaultCause) (field : Option Nat), settle s = r → r.cfl.reading = true →
    flashEnds flash = true → checkFlash r.cfl.lock flash = .bad cause field →
    exec (.configReadComplete flash) s = .next { r with
      pvw := { r.pvw with unit := .halted }
      cfl := { r.cfl with image := none, reading := false, cause := cause, faultField := field }
      sup := { r.sup with flags := r.sup.flags ||| 1#24, attention := true,
                          lifetime := countRefused cause r.sup.lifetime } }) ∧
  (∀ (s r : State) (flash : List Byte), settle s = r → r.cfl.reading = false →
    exec (.configReadComplete flash) s = .next r) ∧
  (∀ (s r : State) (flash : List Byte), settle s = r →
    (flash.length < 2 ∨ (296 ≤ beNat (slice flash 0 2) ∧ beNat (slice flash 0 2) ≤ 4096 ∧
      flash.length < beNat (slice flash 0 2))) →
    exec (.configReadComplete flash) s = .next r) ∧
  (∀ (s t : State) (rest : List Act), EventTurn .readFailed s t rest → t.cfl.reading = true → t.cfl.readAge = 25 →
    exec .readFailed s = .next (advance rest { t with
      pvw := { t.pvw with unit := .halted }
      cfl := { t.cfl with image := none, reading := false, cause := .readFailed, faultField := none }
      sup := { t.sup with flags := t.sup.flags ||| 1#24, attention := true,
                          lifetime := { t.sup.lifetime with
                            imagesRefused := bump t.sup.lifetime.imagesRefused,
                            refusedReadFailed := bump t.sup.lifetime.refusedReadFailed } } }))

/-- TIME_MESSAGE: a good message becomes the pending message; one whose check fails only counts. -/
def Obligations.TimeMessageOutcome : Prop :=
  (∀ (s r : State) (n : BitVec 32), settle s = r →
    exec (.timeMessage ([0xA1#8] ++ be32 n ++ be16 (crc16 ([0xA1#8] ++ be32 n)))) s =
      .next { r with ftu := { r.ftu with message := some n } }) ∧
  (∀ (s r : State) (bs : List Byte), settle s = r →
    (bs.length ≠ 7 ∨ byteAt bs 0 ≠ 0xA1 ∨ half bs 5 ≠ crc16 (bs.take 5)) →
    exec (.timeMessage bs) s =
      .next { r with ftu.counters.badMessages := bump r.ftu.counters.badMessages })

/-- FRAME_PULSE and LOCAL_TIMER_EXPIRY: stray, matched, or raising a boundary whose number goes on by one. The model's
choice in part: log 5, 28, 67. -/
def Obligations.PulseAndTimerOutcome : Prop :=
  (∀ (s r : State) (d : Nat) (o : BoundaryOrder), settle s = r → d < 30000 →
    (r.ftu.source = .pulse ∨ r.ftu.matched = true ∨ 10000 ≤ d) →
    exec (.framePulse d o) s = .next { r with ftu.counters.stray := bump r.ftu.counters.stray }) ∧
  (∀ (s r : State) (d : Nat) (o : BoundaryOrder), settle s = r → d < 10000 → r.ftu.source = .timer →
    r.ftu.matched = false → r.ftu.message = none →
    exec (.framePulse d o) s = .next { r with ftu := { r.ftu with
      matched := true, timerStart := d,
      candidate := r.ftu.candidate.map (fun c => { c with pulses := c.pulses + 1 }) } }) ∧
  (∀ (s r : State) (d : Nat) (o : BoundaryOrder), settle s = r → 30000 ≤ d → r.ftu.message = none →
    r.ftu.ref ≠ .holdover →
    exec (.framePulse d o) s =
      .next (beginBoundary o ⟨r.ftu.next.any (·.jump), false, false⟩ { r with ftu := { r.ftu with
        now := (r.ftu.next.map (·.frame)).or (r.ftu.now.map (· + 1)), next := none, source := .pulse, matched := false,
        timerStart := 0,
        candidate := r.ftu.candidate.map (fun c => { c with pulses := c.pulses + 1 }) } })) ∧
  (∀ (s r : State) (d : Nat) (o : BoundaryOrder), settle s = r → d < 10000 → r.ftu.source = .timer →
    r.ftu.matched = false →
    let g := acceptPulse { r.ftu with matched := true, timerStart := d }
    let back : Prop := r.ftu.ref = .holdover ∧ g.ref = .locked ∧ g.next = none ∧ r.pvw.unit = .offAir
    (¬back → exec (.framePulse d o) s = .next { r with ftu := g }) ∧
    (back → exec (.framePulse d o) s = .next (enterListen { r with ftu := g }))) ∧
  (∀ (s r : State) (d : Nat) (o : BoundaryOrder), settle s = r → 30000 ≤ d →
    let p := acceptPulse { r.ftu with
      now := (r.ftu.next.map (·.frame)).or (r.ftu.now.map (· + 1)), next := none, source := .pulse, matched := false,
      timerStart := 0 }
    let g := if p.ref = .holdover then { p with holdover := min (p.holdover + 1) 250 } else p
    exec (.framePulse d o) s =
      .next (beginBoundary o
        ⟨r.ftu.next.any (·.jump), decide (g.ref = .holdover ∧ r.ftu.holdover ≠ 250 ∧ g.holdover = 250),
          decide (r.ftu.ref = .holdover ∧ p.ref = .locked ∧ p.next = none)⟩ { r with ftu := g })) ∧
  (∀ (rest : List Act) (t : State),
    advance (.relocked :: rest) t = advance rest (if t.pvw.unit = .offAir then enterListen t else t)) ∧
  (∀ (s r : State) (o : BoundaryOrder), settle s = r → r.ftu.ref ≠ .holdover →
    exec (.localTimerExpiry o) s =
      .next (beginBoundary o ⟨r.ftu.next.any (·.jump), false, false⟩ { r with ftu := { r.ftu with
        now := (r.ftu.next.map (·.frame)).or (r.ftu.now.map (· + 1)), next := none, source := .timer, matched := false,
        timerStart := 0 } })) ∧
  (∀ (s r : State) (o : BoundaryOrder), settle s = r → r.ftu.ref = .holdover →
    exec (.localTimerExpiry o) s =
      .next (beginBoundary o
        ⟨r.ftu.next.any (·.jump), decide (r.ftu.holdover ≠ 250 ∧ 249 ≤ r.ftu.holdover), false⟩
        { r with ftu := { r.ftu with
            now := (r.ftu.next.map (·.frame)).or (r.ftu.now.map (· + 1)), next := none, source := .timer, matched := false,
            timerStart := 0, holdover := min (r.ftu.holdover + 1) 250 } }))

/-- MISSED_PULSE: in LOCKED it starts holdover; elsewhere, or with a pulse matched, it changes nothing. -/
def Obligations.MissedPulseOutcome : Prop :=
  (∀ s r : State, settle s = r → r.ftu.source = .timer → r.ftu.matched = false → r.ftu.ref = .locked →
    let t : State := { r with ftu := { r.ftu with
      ref := .holdover, holdover := 1, candidate := none,
      counters := { r.ftu.counters with holdovers := bump r.ftu.counters.holdovers } } }
    (r.pvw.unit ≠ .joining → r.pvw.unit ≠ .listen → exec .missedPulse s = .next t) ∧
    (r.pvw.unit = .listen → exec .missedPulse s = .next { t with pvw.listenCount := 0 }) ∧
    (r.pvw.unit = .joining → exec .missedPulse s = .next (enterListen t))) ∧
  (∀ s r : State, settle s = r → (r.ftu.source = .pulse ∨ r.ftu.matched = true ∨ r.ftu.ref ≠ .locked) →
    exec .missedPulse s = .next r)

/-- A labelled pulse: consistent messages lock, two that agree with each other move the count, holdover relocks. The
model's choice in part: log 15. -/
def Obligations.ReferenceTests : Prop :=
  (∀ f : Ftu, f.message = none → acceptPulse f =
    { f with candidate := f.candidate.map (fun c => { c with pulses := c.pulses + 1 }) }) ∧
  (∀ (f : Ftu) (m : BitVec 32), f.message = some m →
    let g := acceptPulse f
    let fits : Prop := ∃ c, f.candidate = some c ∧ m = c.second + 1 ∧ c.pulses = 25
    let frame : FrameNo := BitVec.ofNat 24 (25 * m.toNat + 1)
    let agrees : Prop := f.now = some (BitVec.ofNat 24 (25 * m.toNat))
    g.message = none ∧ g.now = f.now ∧ g.source = f.source ∧ g.matched = f.matched ∧ g.timerStart = f.timerStart ∧
    (f.ref = .unlocked → fits → g.ref = .locked ∧ g.next = some ⟨frame, false⟩ ∧ g.holdover = f.holdover ∧
      g.candidate = f.candidate.map (fun c => { c with pulses := c.pulses + 1 })) ∧
    (f.ref = .unlocked → ¬fits → g.ref = .unlocked ∧ g.next = f.next ∧ g.candidate = some ⟨m, 1, false⟩) ∧
    (f.ref = .locked → agrees → g = { f with message := none, candidate := some ⟨m, 1, false⟩ }) ∧
    (f.ref = .locked → ¬agrees → fits → f.candidate.any (·.differs) = true →
      g = { f with message := none, candidate := none, next := some ⟨frame, true⟩,
                   counters.disagreeing := bump f.counters.disagreeing }) ∧
    (f.ref = .locked → ¬agrees → (¬fits ∨ f.candidate.any (·.differs) = false) →
      g = { f with message := none, candidate := some ⟨m, 1, true⟩,
                   counters.disagreeing := bump f.counters.disagreeing }) ∧
    (f.ref = .holdover → fits → agrees → g = { f with message := none, ref := .locked, holdover := 0, candidate := none }) ∧
    (f.ref = .holdover → fits → ¬agrees →
      g = { f with message := none, ref := .locked, holdover := 0, candidate := none, next := some ⟨frame, true⟩ }) ∧
    (f.ref = .holdover → ¬fits → g = { f with message := none, candidate := some ⟨m, 1, false⟩ }))

/-- HOLDOVER_EXPIRED and FRAME_JUMP: the flag, the counters, and the unit state each notice leaves. -/
def Obligations.NoticeEventsOutcome : Prop :=
  (∀ (s t : State) (rest : List Act), EventTurn .holdoverExpired s t rest →
    let q : State := { t with
      sup := supWith .holdoverExpired { t with sup.lifetime.expiries := bump t.sup.lifetime.expiries } }
    ((t.pvw.unit = .listen ∨ t.pvw.unit = .onAir ∨ t.pvw.unit = .isolated) →
      exec .holdoverExpired s = .next (advance rest (enterOffAir q))) ∧
    (¬(t.pvw.unit = .listen ∨ t.pvw.unit = .onAir ∨ t.pvw.unit = .isolated) →
      exec .holdoverExpired s = .next (advance rest q))) ∧
  (∀ (s t : State) (rest : List Act), EventTurn .frameJump s t rest →
    let q : State := { t with
      ftu := { t.ftu with counters := { t.ftu.counters with jumps := bump t.ftu.counters.jumps } }
      sup := supWith .frameJump { t with sup.lifetime.jumps := bump t.sup.lifetime.jumps } }
    ((t.pvw.unit = .loading ∨ t.pvw.unit = .halted ∨ t.pvw.unit = .clash) →
      ∃ u, exec .frameJump s = .next (advance rest u) ∧
        u.pvw = { t.pvw with
          slots := u.pvw.slots, ownClaim := none, joinFrame := none, digests := [], listenCount := 0
          presenceCount := 0, claimCount := 0, rejoinHold := 25, peerMark := false, echoMark := false
          peerWaiver := false } ∧
        (∀ v : UnitId, u.pvw.slots[v] = .absent t.pvw.slots[v].counters) ∧
        u.ple = { t.ple with chain := [], last := none } ∧
        (∀ i : Fin 16, u.asm.slots[i] = .free) ∧ u.asm.hold = [] ∧ u.asm.rows = t.asm.rows ∧
        (∀ k : ServiceIx, u.cpr.last[k] = none) ∧ u.cpr.alertLast = none ∧ u.cpr.counters = t.cpr.counters ∧
        u.cpr.alertCounters = t.cpr.alertCounters ∧
        u.alc.table = [] ∧ (∀ v : UnitId, u.alc.removals[v] = none) ∧ u.alc.localAlert = ⟨.idle, none, none, none⟩ ∧
        u.alc.stopMark = false ∧ u.alc.repeatCount = 0 ∧ u.alc.serial = t.alc.serial ∧
        (∀ i : SourceId, u.alc.sources.get i = { t.alc.sources.get i with carried := false }) ∧
        u.lkp = { t.lkp with
          queue := t.lkp.queue.filter (fun p => !(p.kind = .claim || p.kind = .contrib))
          counters := { t.lkp.counters with
            removedByState := bumpBy t.lkp.counters.removedByState
              (t.lkp.queue.filter (fun p => p.kind = .claim || p.kind = .contrib)).length } } ∧
        u = { q with pvw := u.pvw, ple := u.ple, asm := u.asm, cpr := u.cpr, alc := u.alc, lkp := u.lkp }) ∧
    (¬(t.pvw.unit = .loading ∨ t.pvw.unit = .halted ∨ t.pvw.unit = .clash) →
      exec .frameJump s = .next (advance rest (enterListen q))))

/-- Entry to LISTEN clears the view, the chain, the alerts and the frame store, keeps the rest, and sends a PRESENCE.
The model's choice in part: log 6, 10, 74. -/
def Obligations.EntryToListenEffect : Prop :=
  ∀ r : State,
    let t := enterListen r
    t.pvw.unit = .listen ∧ (∀ u : UnitId, t.pvw.slots[u] = .absent r.pvw.slots[u].counters) ∧
    t.pvw.ownClaim = none ∧ t.pvw.joinFrame = none ∧ t.pvw.digests = [] ∧ t.pvw.listenCount = 0 ∧
    t.pvw.presenceCount = 0 ∧ t.pvw.claimCount = 0 ∧ t.pvw.rejoinHold = 25 ∧ t.pvw.peerMark = false ∧
    t.pvw.echoMark = false ∧ t.pvw.peerWaiver = false ∧ t.pvw.version = r.pvw.version ∧
    t.pvw.switches = r.pvw.switches ∧ t.pvw.counters = r.pvw.counters ∧
    t.ple = { r.ple with chain := [], last := none } ∧
    (∀ i : Fin 16, t.asm.slots[i] = .free) ∧ t.asm.hold = [] ∧ t.asm.rows = r.asm.rows ∧
    (∀ k : ServiceIx, t.cpr.last[k] = none) ∧ t.cpr.alertLast = none ∧ t.cpr.counters = r.cpr.counters ∧
    t.alc.table = [] ∧ (∀ u : UnitId, t.alc.removals[u] = none) ∧ t.alc.localAlert = .idle ∧ t.alc.stopMark = false ∧
    (∀ i : SourceId, t.alc.sources.get i = { r.alc.sources.get i with carried := false }) ∧ t.alc.serial = r.alc.serial ∧
    (∀ p ∈ t.lkp.queue, p.kind ≠ .claim ∧ p.kind ≠ .contrib) ∧
    ((r.lkp.queue.filter (fun p => p.kind.cls = .alert)).length < 64 → t.sup = r.sup ∧
      ∃ body, byteAt body 0 = 1 ∧ t.lkp = servedLkp t { r.lkp with
        queue := r.lkp.queue.filter (fun p => p.kind.cls = .alert) ++ [⟨.presence, 0, 0, body⟩]
        counters := { r.lkp.counters with
          removedByState := bumpBy r.lkp.counters.removedByState
            (r.lkp.queue.filter (fun p => p.kind = .claim || p.kind = .contrib)).length } }) ∧
    t.lkp.senders = r.lkp.senders ∧ t.lkp.receiver = r.lkp.receiver ∧
    (r.lkp.transmitting.isSome = true → t.lkp.seq = r.lkp.seq ∧ t.lkp.echoes = r.lkp.echoes ∧
      t.lkp.transmitting = r.lkp.transmitting) ∧
    (streamingValid r = true → t.ofr.outputValid = false ∧ t.ofr.counters.cut = bump r.ofr.counters.cut) ∧
    (streamingValid r = false → t.ofr = r.ofr) ∧
    t.ftu = r.ftu ∧ t.sin = r.sin ∧ t.txc = r.txc ∧ t.pic = r.pic ∧ t.cfl = r.cfl ∧ t.lines = r.lines

/-- Entry to CLASH and to OFF_AIR empties the queue, the chain and the store and cuts a frame in progress; the view is
kept. The model's choice in part: log 6, 74. -/
def Obligations.LeavingTheAirEffect : Prop :=
  ∀ r : State,
    (∀ t, t = enterClash r ∨ t = enterOffAir r →
      t.lkp.queue = [] ∧
      t.lkp.counters = { r.lkp.counters with
        removedByState := bumpBy r.lkp.counters.removedByState r.lkp.queue.length } ∧
      t.lkp.transmitting = r.lkp.transmitting ∧ t.lkp.seq = r.lkp.seq ∧ t.lkp.echoes = r.lkp.echoes ∧
      t.ple = { r.ple with chain := [], last := none } ∧ (∀ i : Fin 16, t.asm.slots[i] = .free) ∧ t.asm.hold = [] ∧
      (∀ k : ServiceIx, t.cpr.last[k] = none) ∧ t.alc.localAlert = .idle ∧ t.alc.table = r.alc.table ∧
      t.pvw.slots = r.pvw.slots ∧ t.pvw.ownClaim = r.pvw.ownClaim ∧ t.pvw.digests = r.pvw.digests ∧
      (streamingValid r = false → t.ofr = r.ofr ∧ t.freeIx = r.freeIx) ∧
      (∀ f, r.ofr.frame = some f → f.valid = true → f.sentAtCut = none →
        t.ofr.outputValid = false ∧ t.ofr.counters = { r.ofr.counters with cut := bump r.ofr.counters.cut } ∧
        ∃ n, n ≤ f.bytes.length ∧ t.ofr.frame = some { f with sentAtCut := some n }) ∧
      t.ftu = r.ftu ∧ t.sin = r.sin ∧ t.txc = r.txc ∧ t.pic = r.pic ∧ t.cfl = r.cfl ∧ t.sup.flags = r.sup.flags) ∧
    (enterClash r).pvw = { r.pvw with unit := .clash, counters.toClash := bump r.pvw.counters.toClash } ∧
    (enterClash r).sup = { r.sup with lifetime.clashes := bump r.sup.lifetime.clashes } ∧
    (enterOffAir r).pvw = { r.pvw with unit := .offAir, counters.toOffAir := bump r.pvw.counters.toOffAir } ∧
    (enterOffAir r).sup = r.sup

/-- ENTER_JOINING, ENTER_ON_AIR, ENTER_ISOLATED: the state entered, the claim issued, and the packets sent. The
model's choice in part: log 10, 42. -/
def Obligations.JoinEventsOutcome : Prop :=
  (∀ (s t : State) (rest : List Act) (n : FrameNo), EventTurn .enterJoining s t rest → t.pvw.unit = .listen →
    t.pvw.listenCount = 32 → t.ftu.now = some n →
    let f := plus n (2 * leadOf t + 2)
    let c : FramedClaim := ⟨t.pvw.version + 1, f, claimEntries t⟩
    ∃ u, exec .enterJoining s = .next (advance rest u) ∧
      u.pvw = { t.pvw with
        unit := .joining, joinFrame := some f, ownClaim := some c, version := t.pvw.version + 1, presenceCount := 0,
        claimCount := 0
        slots := t.pvw.slots.set (selfOf t) { t.pvw.slots[selfOf t] with
          waiting := some c
          state := if t.pvw.slots[selfOf t].state = .absent then .heard else t.pvw.slots[selfOf t].state }
        counters := { t.pvw.counters with
          claimsIssued := bump t.pvw.counters.claimsIssued, toJoining := bump t.pvw.counters.toJoining } } ∧
      u = { t with pvw := u.pvw, lkp := u.lkp, sup := u.sup,
                   progress := { t.progress with presenceSent := true, claimSent := true } } ∧
      (t.lkp.queue.length + 2 ≤ 64 → t.lkp.transmitting.isSome = true → u.sup = t.sup ∧
        ∃ body, byteAt body 0 = 2 ∧ u.lkp = { t.lkp with
          queue := withPresence ⟨.presence, 0, 0, body⟩ (t.lkp.queue ++ [claimPacket c]) }) ∧
      (t.lkp.queue.length + 2 ≤ 64 → t.lkp.transmitting = none → (∀ p ∈ t.lkp.queue, p.kind ≠ .presence) →
        u.sup = t.sup ∧
        let taken := servedLkp u { t.lkp with queue := t.lkp.queue ++ [claimPacket c] }
        taken.transmitting.isSome = true ∧
        ∃ body, byteAt body 0 = 2 ∧ u.lkp = { taken with queue := taken.queue ++ [⟨.presence, 0, 0, body⟩] })) ∧
  (∀ (s t : State) (rest : List Act) (n : FrameNo), EventTurn .enterOnAir s t rest → t.pvw.unit = .joining →
    t.pvw.joinFrame = some n → t.ftu.now = some n →
    ∃ u, exec .enterOnAir s = .next (advance rest u) ∧
      u.pvw = { t.pvw with unit := .onAir, presenceCount := 0,
                           counters := { t.pvw.counters with toOnAir := bump t.pvw.counters.toOnAir } } ∧
      u = { t with pvw := u.pvw, lkp := u.lkp, sup := u.sup,
                   progress := { t.progress with presenceSent := true } } ∧
      (t.lkp.queue.length < 64 → u.sup = t.sup ∧
        ∃ body, byteAt body 0 = 3 ∧ u.lkp = servedLkp u { t.lkp with
          queue := withPresence ⟨.presence, 0, 0, body⟩ t.lkp.queue })) ∧
  (∀ (s t : State) (rest : List Act), EventTurn .enterIsolated s t rest →
    (t.pvw.unit = .joining ∨ t.pvw.unit = .onAir) → t.lkp.echoAge = 25 →
    ∃ u, exec .enterIsolated s = .next (advance rest u) ∧
      u.pvw = { t.pvw with unit := .isolated, peerMark := false, echoMark := false, peerWaiver := u.pvw.peerWaiver,
                           presenceCount := 0,
                           counters := { t.pvw.counters with toIsolated := bump t.pvw.counters.toIsolated } } ∧
      (u.pvw.peerWaiver = true ↔ ∀ v : UnitId, v ≠ selfOf t → t.pvw.slots[v].state = .absent) ∧
      u = { t with pvw := u.pvw, lkp := u.lkp, sup := u.sup,
                   progress := { t.progress with presenceSent := true } } ∧
      (t.lkp.queue.length < 64 → u.sup = supWith .linkIsolated t ∧
        ∃ body, byteAt body 0 = 4 ∧ u.lkp = servedLkp u { t.lkp with
          queue := withPresence ⟨.presence, 0, 0, body⟩ t.lkp.queue })) ∧
  (∀ t : State, takeTurn .rejoinHold t = { t with pvw.rejoinHold := min (t.pvw.rejoinHold + 1) 25 } ∧
    takeTurn .listenCount t = (if t.pvw.unit ≠ .listen then t
      else if t.ftu.ref ≠ .locked ∨ t.lkp.receiver ≠ .locked then { t with pvw.listenCount := 0 }
      else if t.ftu.now = none then t else { t with pvw.listenCount := min (t.pvw.listenCount + 1) 32 }))

/-- PRESENCE_SEND and CLAIM_RESEND: after 4, or 24, boundaries without one, the packet is handed in again and its
count restarts. -/
def Obligations.ResendEventsOutcome : Prop :=
  (∀ (s t : State) (rest : List Act), EventTurn .presenceSend s t rest →
    (t.pvw.unit = .listen ∨ t.pvw.unit = .joining ∨ t.pvw.unit = .onAir ∨ t.pvw.unit = .isolated) →
    t.progress.presenceSent = false → t.pvw.presenceCount = 4 →
    ∃ u, exec .presenceSend s = .next (advance rest u) ∧
      u = { t with
        pvw := { t.pvw with presenceCount := 0 }, lkp := u.lkp, sup := u.sup
        progress := { t.progress with presenceSent := true } } ∧
      (t.lkp.queue.length < 64 → u.sup = t.sup ∧
        u.lkp = servedLkp t { t.lkp with queue := withPresence (presencePacket t) t.lkp.queue })) ∧
  (∀ (s t : State) (rest : List Act) (c : FramedClaim), EventTurn .claimResend s t rest →
    (t.pvw.unit = .joining ∨ t.pvw.unit = .onAir) → t.pvw.ownClaim = some c → t.progress.claimSent = false →
    t.pvw.claimCount = 24 →
    ∃ u, exec .claimResend s = .next (advance rest u) ∧
      u = { t with
        pvw := { t.pvw with claimCount := 0 }, lkp := u.lkp, sup := u.sup
        progress := { t.progress with claimSent := true } } ∧
      (t.lkp.queue.length < 64 → u.sup = t.sup ∧
        u.lkp = servedLkp t { t.lkp with queue := t.lkp.queue ++ [claimPacket c] })) ∧
  (∀ t : State,
    (t.pvw.unit.viewing = true → t.progress.presenceSent = false → t.pvw.presenceCount ≠ 4 →
      takeTurn .presenceSend t = { t with pvw.presenceCount := min (t.pvw.presenceCount + 1) 4 }) ∧
    (t.pvw.unit.viewing = false ∨ t.progress.presenceSent = true → takeTurn .presenceSend t = t) ∧
    ((t.pvw.unit = .joining ∨ t.pvw.unit = .onAir) → t.pvw.ownClaim.isSome = true → t.progress.claimSent = false →
      t.pvw.claimCount ≠ 24 → takeTurn .claimResend t = { t with pvw.claimCount := min (t.pvw.claimCount + 1) 24 }) ∧
    (¬(t.pvw.unit = .joining ∨ t.pvw.unit = .onAir) ∨ t.pvw.ownClaim = none ∨ t.progress.claimSent = true →
      takeTurn .claimResend t = t))

/-- PEER_SILENT, SLOT_REMOVAL, CLAIM_IN_FORCE: what the peer table does as frames pass. The model's choice in part:
log 18, 21. -/
def Obligations.PeerTableEventsOutcome : Prop :=
  (∀ (s t : State) (rest : List Act) (u : UnitId) (n f : FrameNo), EventTurn (.peerSilent u) s t rest →
    (t.pvw.unit = .listen ∨ t.pvw.unit = .joining ∨ t.pvw.unit = .onAir) → u ≠ selfOf t → t.ftu.now = some n →
    (t.pvw.slots[u].state = .heard ∨ t.pvw.slots[u].state = .present) → t.pvw.slots[u].stamp = some f →
    later n (plus f 25) = true →
    let x := t.pvw.slots[u]
    let g := if later (plus f (leadOf t + 27)) (plus n (leadOf t)) then plus f (leadOf t + 27) else plus n (leadOf t + 1)
    let y := { x with state := .silent, counters.silences := bump x.counters.silences }
    ((∀ h, x.removal = some h → later h g = true) → exec (.peerSilent u) s = .next (advance rest (noticeRemoval u g
      { t with sup := supWith .peerSilent t, pvw.slots := t.pvw.slots.set u { y with removal := some g } }))) ∧
    (∀ h, x.removal = some h → later h g = false → exec (.peerSilent u) s = .next (advance rest
      { t with sup := supWith .peerSilent t, pvw.slots := t.pvw.slots.set u y }))) ∧
  (∀ (s t : State) (rest : List Act) (u : UnitId) (n f : FrameNo), EventTurn (.slotRemoval u) s t rest →
    t.pvw.unit ≠ .clash → t.pvw.unit ≠ .offAir → u ≠ selfOf t → t.ftu.now = some n →
    t.pvw.slots[u].removal = some f → later f n = false →
    exec (.slotRemoval u) s = .next (advance rest
      { t with pvw.slots := t.pvw.slots.set u (.absent t.pvw.slots[u].counters),
               alc.removals := t.alc.removals.set u none })) ∧
  (∀ (s t : State) (rest : List Act) (u : UnitId) (n : FrameNo) (c : FramedClaim),
    EventTurn (.claimInForce u) s t rest → t.pvw.unit ≠ .clash → t.pvw.unit ≠ .offAir → t.ftu.now = some n →
    t.pvw.slots[u].waiting = some c → later c.frame n = false →
    exec (.claimInForce u) s = .next (advance rest { t with pvw.slots := t.pvw.slots.set u { t.pvw.slots[u] with
      inForce := some ⟨c.version, c.entries⟩, waiting := none
      state := if t.pvw.slots[u].state = .heard then .present else t.pvw.slots[u].state } })) ∧
  (∀ (u : UnitId) (g : FrameNo) (t : State),
    let v := noticeRemoval u g t
    v = { t with alc := { t.alc with removals := t.alc.removals.set u (some g), table := v.alc.table } } ∧
    v.alc.table.length = t.alc.table.length ∧
    ∀ (i : Nat) (x : AlertRecord), t.alc.table[i]? = some x →
      let theirs : Prop := x.id.unit.toNat = u.val ∧ ∀ e, x.stop = some e → later e.frame g = true
      (theirs → v.alc.table[i]? = some { x with
        stop := some ⟨g, true⟩, state := if x.state = .active then .ending else x.state }) ∧
      (¬theirs → v.alc.table[i]? = some x))

/-- A packet handed to LKP: taken with a place free, an older PRESENCE superseded, a contribution displaced, refused
when full, or expired. The model's choice in part: log 10. -/
def Obligations.TransmitQueueAdmission : Prop :=
  (∀ (p : TxPacket) (r : State),
     let q := if p.kind = .presence then r.lkp.queue.filter (fun x => x.kind != .presence) else r.lkp.queue
     (r.pvw.unit.viewing = false → handIn p r =
       ({ r with lkp.counters.refusedByState := bump r.lkp.counters.refusedByState }, false)) ∧
     (r.pvw.unit.viewing = true → q.length < 64 → handIn p r =
       ({ r with lkp := servedLkp r { r.lkp with queue := q ++ [p] } }, true)) ∧
     (r.pvw.unit.viewing = true → 64 ≤ q.length → p.kind = .contrib → handIn p r =
       ({ r with
           lkp := servedLkp r { r.lkp with counters.contribRefused := bump r.lkp.counters.contribRefused }
           sup := supWith .txOverflow r }, false)) ∧
     (r.pvw.unit.viewing = true → 64 ≤ q.length → p.kind ≠ .contrib → (∀ x ∈ q, x.kind ≠ .contrib) → handIn p r =
       ({ r with
           lkp := servedLkp r { r.lkp with queue := q, counters.controlRefused := bump r.lkp.counters.controlRefused }
           sup := supWith .txOverflow r }, false)) ∧
     (∀ a b : List TxPacket, ∀ x, r.pvw.unit.viewing = true → 64 ≤ q.length → p.kind ≠ .contrib → q = a ++ x :: b →
       x.kind = .contrib → (∀ y ∈ b, y.kind ≠ .contrib) → handIn p r =
       ({ r with
           lkp := servedLkp r { r.lkp with
             queue := a ++ b ++ [p], counters.contribDisplaced := bump r.lkp.counters.contribDisplaced }
           sup := supWith .txOverflow r }, true)) ∧
     (r.lkp.queue.length ≤ 64 → (handIn p r).1.lkp.queue.length ≤ 64) ∧
     ((handIn p r).1.lkp.transmitting = none → pickNext r.pvw.unit (handIn p r).1.lkp.queue = none)) ∧
  (∀ (t : State) (n : FrameNo), t.ftu.now = some n →
    let gone (p : TxPacket) : Bool := p.kind = .contrib && !later p.frameTag (plus n 1)
    let l := t.lkp.queue.filter gone
    takeTurn .expireContributions t = (if l = [] then t else { t with
      lkp := { t.lkp with
        queue := t.lkp.queue.filter (fun p => !gone p)
        counters := { t.lkp.counters with contribExpired := bumpBy t.lkp.counters.contribExpired l.length } }
      sup := supWith .txExpired t }))

/-- TRANSMIT_DONE: the arbiter picks by class and age, and the packet leaves with its sequence number, checks and echo
entry. The model's choice in part: log 10. -/
def Obligations.TransmitDoneOutcome : Prop :=
  (∀ (u : State) (l : Lkp) (p : TxPacket), l.transmitting = none → pickNext u.pvw.unit l.queue = some p →
    let body := if p.kind = .presence then stampPresence u.ftu.now (decide (u.ftu.ref = .holdover)) p.body else p.body
    let core := be16 (ensembleOf u) ++ [byteOf (leadOf u), p.kind.code, byteOf (selfOf u).val, l.seq] ++
      be16 (BitVec.ofNat 16 body.length) ++ be24 p.frameTag ++ be16 p.serviceTag
    let list := l.echoes ++ [(l.seq, crc16 core)]
    servedLkp u l = { l with
      queue := l.queue.erase p, seq := l.seq + 1
      transmitting := some ⟨p.kind, l.seq, crc16 core,
        [0x6E, 0x93] ++ core ++ be16 (crc16 core) ++ body ++ be32 (crc32 body)⟩
      echoes := if list.length ≤ 64 then list else list.drop (list.length - 64)
      counters := countSent p.kind l.counters }) ∧
  (∀ (u : State) (l : Lkp), (l.transmitting.isSome = true ∨ pickNext u.pvw.unit l.queue = none) → servedLkp u l = l) ∧
  (∀ s r : State, settle s = r →
    exec .transmitDone s = .next { r with lkp := servedLkp r { r.lkp with transmitting := none } }) ∧
  (∀ (u : UnitState) (q : List TxPacket), u.viewing = false → pickNext u q = none) ∧
  (∀ q : List TxPacket, pickNext .listen q = q.find? (fun p => p.kind = .presence)) ∧
  (∀ (u : UnitState) (q : List TxPacket) (p : TxPacket), (u = .joining ∨ u = .onAir ∨ u = .isolated) →
    pickNext u q = some p → p ∈ q ∧
    (p.kind.cls = .claim → ∀ x ∈ q, x.kind.cls ≠ .alert) ∧
    (p.kind.cls = .presence → ∀ x ∈ q, x.kind.cls ≠ .alert ∧ x.kind.cls ≠ .claim) ∧
    (p.kind.cls = .contribution → ∀ x ∈ q, x.kind.cls = .contribution) ∧
    (∀ base : FrameNo, (∀ x ∈ q, x.kind.cls = .contribution → (x.frameTag - base).toNat < 8388608) →
      (p.kind.cls = .contribution → ∀ x ∈ q, later p.frameTag x.frameTag = false) ∧
      ∃ a b, q = a ++ p :: b ∧ ∀ x ∈ a, x.kind.cls = p.kind.cls →
        p.kind.cls = .contribution ∧ later x.frameTag p.frameTag = true)) ∧
  (∀ (u : UnitState) (q : List TxPacket), (u = .joining ∨ u = .onAir ∨ u = .isolated) → q ≠ [] →
    ∃ p, pickNext u q = some p)

/-- LINK_HUNT_PACKET and LINK_HEADER_FAILED: two good headers lock the receiver, three failures or a missing sync lose
it. The model's choice in part: log 23, 25, 30, 31, 36, 37, 51, 72, 75. -/
def Obligations.LinkReceiverLock : Prop :=
  (∀ (s r : State) (c : List Byte → Instr), settle s = r → r.pvw.unit.running = true →
    (c = .linkHuntPacket ∨ c = .linkHeaderFailed) →
    let goesOn (bs rest : List Byte) (t : State) : Prop :=
      exec (c bs) s = exec (c rest) t ∧ (NoPair 0x6E 0x93 rest → exec (c bs) s = .next t)
    let fails (f : List Byte) : Prop := f.length < 17 ∨ half f 15 ≠ crc16 (slice f 2 13)
    let broken : State := { r with lkp := { r.lkp with huntCount := 0, held := [] } }
    let lost (n : Nat) (l : Lkp) : State := { r with
      lkp := { l with receiver := .hunt, huntCount := 0, held := [], nextKnown := false, failures := n,
                      counters.syncLosses := bump l.counters.syncLosses }
      pvw := { r.pvw with listenCount := if r.pvw.unit = .listen then 0 else r.pvw.listenCount }
      sup := supWith .linkSyncLost r }
    let failed (bs rest : List Byte) (l : Lkp) : Prop :=
      let m := { l with nextKnown := false, counters.headerFailures := bump l.counters.headerFailures }
      (l.failures < 2 → goesOn bs rest { r with lkp := { m with failures := l.failures + 1 } }) ∧
      (2 ≤ l.failures → goesOn bs rest (lost 3 m))
    (∀ bs, linkLead r.lkp bs → exec (c bs) s = .next { r with lkp.held :=
      if r.lkp.receiver = .hunt ∧ 1 ≤ r.lkp.huntCount then r.lkp.held ++ bs else r.lkp.held }) ∧
    (∀ lead core body, r.lkp.receiver = .hunt → linkLead r.lkp lead → core.length = 13 →
      let inner := core ++ be16 (crc16 core) ++ body
      let bs := lead ++ [0x6E, 0x93] ++ inner
      let t : State := { r with lkp := { r.lkp with
        receiver := if r.lkp.huntCount = 0 then .hunt else .locked
        huntCount := if r.lkp.huntCount = 0 then 1 else 0
        held := if r.lkp.huntCount = 0 then inner else []
        failures := if r.lkp.huntCount = 0 then r.lkp.failures else 0
        nextKnown := if r.lkp.huntCount = 0 then r.lkp.nextKnown else true
        counters.huntDiscards := bump r.lkp.counters.huntDiscards } }
      (body.length ≤ beNat (slice core 6 2) + 4 → exec (c bs) s = .next t) ∧
      (body.length = beNat (slice core 6 2) + 4 → ∀ tail, exec (c (bs ++ tail)) s = exec (c tail) t)) ∧
    (∀ lead rest, r.lkp.receiver = .hunt → linkLead r.lkp lead → fails ([0x6E, 0x93] ++ rest) →
      goesOn (lead ++ [0x6E, 0x93] ++ rest) rest broken) ∧
    (∀ lead b l, r.lkp.receiver = .hunt → 1 ≤ r.lkp.huntCount → (∀ x ∈ lead, x = 0x00) → b ≠ 0x00 →
      hasLinkSync (b :: l) = false → goesOn (lead ++ b :: l) (r.lkp.held ++ lead ++ b :: l) broken) ∧
    (∀ lead b l, r.lkp.receiver = .locked → r.lkp.nextKnown = true → (∀ x ∈ lead, x = 0x00) → b ≠ 0x00 →
      hasLinkSync (b :: l) = false → goesOn (lead ++ b :: l) (b :: l) (lost r.lkp.failures r.lkp)) ∧
    (∀ lead rest, r.lkp.receiver = .locked → linkLead r.lkp lead → fails ([0x6E, 0x93] ++ rest) →
      failed (lead ++ [0x6E, 0x93] ++ rest) rest r.lkp) ∧
    (∀ lead core rest, r.lkp.receiver = .locked → linkLead r.lkp lead → core.length = 13 →
      let f := [0x6E, 0x93] ++ core ++ be16 (crc16 core) ++ rest
      linkHeaderForm f = false →
      (∀ u : UnitId, (byteAt core 4).toNat = u.val → failed (lead ++ f) (core ++ be16 (crc16 core) ++ rest) { r.lkp with
        senders := r.lkp.senders.set u
          { r.lkp.senders[u] with headerErrors := bump r.lkp.senders[u].headerErrors } }) ∧
      (7 < (byteAt core 4).toNat → failed (lead ++ f) (core ++ be16 (crc16 core) ++ rest) r.lkp)) ∧
    (∀ k p lead t, p.body.length < 65536 → linkLead r.lkp lead → exec (packetCommand k p) s = .next t →
      let bs := lead ++ [0x6E, 0x93] ++ headerCore p.ensemble p.lead k.code p.sender p.seq p.body.length p.frameTag
        p.serviceTag ++ be16 (headerCheck k p) ++ p.body ++ be32 p.bodyCheck
      exec (c bs) s = .next t ∧ ((r.lkp.receiver = .locked → headerWellFormed k p = true) →
        ∀ tail, exec (c (bs ++ tail)) s = exec (c tail) t))) ∧
  (∀ (s r : State) (bs : List Byte), settle s = r → r.pvw.unit.running = false →
    exec (.linkHuntPacket bs) s = .next r ∧ exec (.linkHeaderFailed bs) s = .next r)

/-- A link packet of any kind: foreign, echo, clash, or from a peer, whose sequence number is always carried forward.
The model's choice in part: log 26. -/
def Obligations.LinkPacketSorting : Prop :=
  (∀ (s r : State) (k : Kind) (p : LinkPacket), settle s = r → Sorted k p r →
    (p.ensemble ≠ ensembleOf r ∨ p.lead ≠ byteOf (leadOf r)) →
    exec (packetCommand k p) s = .next { r with
      lkp := { r.lkp with failures := 0, nextKnown := true, counters.foreign := bump r.lkp.counters.foreign }
      sup := supWith .paramMismatch r }) ∧
  (∀ (s r : State) (k : Kind) (p : LinkPacket), settle s = r → Sorted k p r → p.ensemble = ensembleOf r →
    p.lead = byteOf (leadOf r) → p.sender.toNat = (selfOf r).val → (p.seq, headerCheck k p) ∈ r.lkp.echoes →
    let x := r.lkp.senders[selfOf r]
    let heard : Lkp := { r.lkp with
      failures := 0, nextKnown := true, echoAge := 0, counters.echoes := bump r.lkp.counters.echoes
      senders := if p.bodyCheck = crc32 p.body then r.lkp.senders
        else r.lkp.senders.set (selfOf r) { x with bodyErrors := bump x.bodyErrors } }
    (r.pvw.unit ≠ .isolated → exec (packetCommand k p) s = .next { r with lkp := heard }) ∧
    (r.pvw.unit = .isolated →
      let t : State := { r with lkp := heard, pvw := { r.pvw with echoMark := true } }
      exec (packetCommand k p) s = .next (if r.pvw.peerMark || r.pvw.peerWaiver then enterListen t else t))) ∧
  (∀ (s r : State) (k : Kind) (p : LinkPacket), settle s = r → Sorted k p r → p.ensemble = ensembleOf r →
    p.lead = byteOf (leadOf r) → p.sender.toNat = (selfOf r).val → (p.seq, headerCheck k p) ∉ r.lkp.echoes →
    let t : State := { r with
      lkp := { r.lkp with failures := 0, nextKnown := true, counters.clashes := bump r.lkp.counters.clashes }
      sup := supWith .idClash r }
    exec (packetCommand k p) s = .next (if r.pvw.unit.viewing then enterClash t else t)) ∧
  (∀ (s r : State) (k : Kind) (p : LinkPacket) (u : UnitId), settle s = r → PeerPacket k p u r →
    ∃ t, exec (packetCommand k p) s = .next t ∧ t.lkp.senders[u].last = some p.seq ∧
      (r.lkp.senders[u].last = none ∨ r.lkp.senders[u].last = some (p.seq - 1) →
        t.lkp.senders[u].gaps = r.lkp.senders[u].gaps) ∧
      (∀ l, r.lkp.senders[u].last = some l → p.seq ≠ l + 1 →
        t.lkp.senders[u].gaps = bump r.lkp.senders[u].gaps)) ∧
  (∀ (s r : State) (k : Kind) (p : LinkPacket) (u : UnitId), settle s = r → PeerPacket k p u r →
    (p.bodyCheck ≠ crc32 p.body ∨ bodyHolds k p.body = false) → k ≠ .contrib →
    let x := r.lkp.senders[u]
    exec (packetCommand k p) s = .next { r with lkp := { r.lkp with
      failures := 0, nextKnown := true
      senders := r.lkp.senders.set u
        { x with last := some p.seq, bodyErrors := bump x.bodyErrors,
                 gaps := if x.last.any (fun l => p.seq != l + 1) then bump x.gaps else x.gaps } } })

/-- PRESENCE: the slot takes the fields, falls back on a withdrawal, a peer that has not heard this unit brings a
rejoin claim. The model's choice in part: log 16, 18, 26, 32. -/
def Obligations.PresenceOutcome : Prop :=
  (∀ (s r : State) (p : LinkPacket) (u : UnitId) (st : UnitState), settle s = r → PeerPacket .presence p u r →
    p.bodyCheck = crc32 p.body →
    let q := noted p u r
    let b := parsePresence p.body
    let x := q.pvw.slots[u]
    q.pvw.unit.viewing = true → b.unit = some st → (x.state ≠ .absent ∨ b.stamp.isSome = true) →
    ∃ t, exec (.presence p) s = .next t ∧
      (let y := t.pvw.slots[u]
       y.reported = some st ∧ y.announced = b.version ∧ y.heardSet = b.heard ∧ y.holdover = b.holdover ∧
       y.alertId = b.alertId ∧ y.stamp = b.stamp.or x.stamp ∧ y.digest = b.digest.or x.digest ∧
       y.inForce = x.inForce ∧ y.waiting = x.waiting ∧
       y.counters.missed = (if x.inForce.all (fun c => c.version != b.version) ∧
         x.waiting.all (fun c => c.version != b.version) then bump x.counters.missed else x.counters.missed) ∧
       (¬(st = .listen ∧ (x.state = .present ∨ (x.state = .heard ∧ x.waiting.isSome = true))) →
         y.state = (if x.state = .present then .present else .heard) ∧ y.removal = x.removal ∧
         y.counters.withdrawals = x.counters.withdrawals) ∧
       (st = .listen → (x.state = .present ∨ (x.state = .heard ∧ x.waiting.isSome = true)) →
         y.state = .heard ∧ y.counters.withdrawals = bump x.counters.withdrawals ∧
         (∀ n, q.ftu.now = some n →
           let f := plus (b.stamp.getD n) (leadOf q + 2)
           let g := if later f (plus n (leadOf q)) then f else plus n (leadOf q + 1)
           ((∀ h, x.removal = some h → later h g = true) → y.removal = some g ∧ t.alc.removals[u] = some g) ∧
           (∀ h, x.removal = some h → later h g = false → y.removal = some h)))) ∧
      (let due : Prop := q.pvw.unit = .onAir ∧ q.ftu.now.isSome = true ∧ x.state = .present ∧
         (st = .joining ∨ st = .onAir ∨ st = .isolated) ∧ b.heard.getLsbD (selfOf r).val = false ∧
         q.pvw.rejoinHold = 25 ∧ ∃ f c, b.stamp = some f ∧ q.pvw.ownClaim = some c ∧ later c.frame f = false
       (¬due → t.pvw.ownClaim = q.pvw.ownClaim ∧ t.pvw.version = q.pvw.version ∧ t.pvw.counters = q.pvw.counters ∧
         t.pvw.rejoinHold = q.pvw.rejoinHold ∧ t.pvw.slots[selfOf r] = q.pvw.slots[selfOf r] ∧ t.lkp = q.lkp) ∧
       (∀ n, due → q.ftu.now = some n →
         let c : FramedClaim := ⟨q.pvw.version + 1, plus n (2 * leadOf q + 2), claimEntries q⟩
         t.pvw.ownClaim = some c ∧ t.pvw.version = c.version ∧ t.pvw.rejoinHold = 0 ∧ t.pvw.claimCount = 0 ∧
         t.pvw.slots[selfOf r].waiting = some c ∧
         t.pvw.counters = { q.pvw.counters with
           rejoinClaims := bump q.pvw.counters.rejoinClaims, claimsIssued := bump q.pvw.counters.claimsIssued } ∧
         (q.lkp.queue.length < 64 → t.lkp = servedLkp q { q.lkp with queue := q.lkp.queue ++ [claimPacket c] }))) ∧
      (∀ v : UnitId, v ≠ u → v ≠ selfOf r → t.pvw.slots[v] = q.pvw.slots[v]) ∧
      (∀ f d e, b.digest = some (f, d) → q.pvw.digests.find? (fun y => y.1 = f) = some (f, e) →
        t.pvw.slots[u].diverged = decide (d ≠ e) ∧ (d ≠ e → flagSet .viewDiverged t = true)) ∧
      t.pvw.unit = q.pvw.unit ∧ t.ftu = q.ftu ∧ t.ofr = q.ofr ∧ t.ple = q.ple ∧ t.asm = q.asm ∧ t.cpr = q.cpr ∧
      t.sin = q.sin ∧ t.txc = q.txc ∧ t.pic = q.pic ∧ t.cfl = q.cfl) ∧
  (∀ (s r : State) (p : LinkPacket) (u : UnitId), settle s = r → PeerPacket .presence p u r →
    p.bodyCheck = crc32 p.body →
    let q := noted p u r
    let b := parsePresence p.body
    (q.pvw.unit.viewing = false →
      exec (.presence p) s = .next { q with pvw.counters.ignoredByState := bump q.pvw.counters.ignoredByState }) ∧
    (q.pvw.unit.viewing = true → b.unit = none →
      exec (.presence p) s = .next { q with pvw.counters.badPresences := bump q.pvw.counters.badPresences }) ∧
    (q.pvw.unit.viewing = true → b.unit.isSome = true → q.pvw.slots[u].state = .absent → b.stamp = none →
      exec (.presence p) s = .next (noteAnnounced b.alertId q)))

/-- CLAIM: taken at once in LISTEN, pending when its frame is late enough, stale, a refresh, or of an ABSENT slot. The
model's choice in part: log 26, 38. -/
def Obligations.ClaimOutcome : Prop :=
  (∀ (s r : State) (p : LinkPacket) (u : UnitId), settle s = r → PeerPacket .claim p u r →
    p.bodyCheck = crc32 p.body → claimHolds p.body = true →
    let q := noted p u r
    let c := parseClaim p.body
    let x := q.pvw.slots[u]
    let known : Prop := (∃ i, x.inForce = some i ∧ i.version = c.version) ∨ (∃ w, x.waiting = some w ∧ w.version = c.version)
    (q.pvw.unit.viewing = false →
      exec (.claim p) s = .next { q with pvw.counters.ignoredByState := bump q.pvw.counters.ignoredByState }) ∧
    (q.pvw.unit.viewing = true → x.state = .absent →
      exec (.claim p) s = .next { q with pvw.counters.absentClaims := bump q.pvw.counters.absentClaims }) ∧
    (q.pvw.unit.viewing = true → x.state ≠ .absent → known →
      exec (.claim p) s = .next { q with
        pvw.slots := q.pvw.slots.set u { x with counters.refreshes := bump x.counters.refreshes } }) ∧
    (q.pvw.unit = .listen → x.state ≠ .absent → ¬known →
      exec (.claim p) s = .next (tellCancelled u x.removal.isSome { q with
        pvw.slots := q.pvw.slots.set u
          { x with inForce := some ⟨c.version, c.entries⟩, waiting := none, removal := none, state := .present,
                   counters.accepted := bump x.counters.accepted } })) ∧
    ((q.pvw.unit = .joining ∨ q.pvw.unit = .onAir ∨ q.pvw.unit = .isolated) → x.state ≠ .absent → ¬known →
      ∀ n, q.ftu.now = some n →
      let cancel := x.removal.any (fun f => !later c.frame f)
      (later c.frame (plus n (leadOf q)) = true →
        exec (.claim p) s = .next (tellCancelled u cancel { q with
          pvw.slots := q.pvw.slots.set u
            { x with waiting := some c, removal := if cancel then none else x.removal,
                     state := if cancel = true ∧ x.state = .silent then .heard else x.state,
                     counters.accepted := bump x.counters.accepted } })) ∧
      (later c.frame (plus n (leadOf q)) = false →
        exec (.claim p) s = .next { q with
          sup := supWith .claimStale q
          pvw := { q.pvw with slots := q.pvw.slots.set u { x with counters.stale := bump x.counters.stale } } }))) ∧
  (∀ b : List Byte, ∀ e ∈ (parseClaim b).entries, 8 ≤ e.audioRate ∧ e.audioRate ≤ 384 ∧ e.audioRate % 8 = 0 ∧
    e.sideRate ≤ 64 ∧ e.sideRate % 4 = 0 ∧ 1 ≤ e.protClass ∧ e.protClass ≤ 4 ∧ e.priority ≤ 3) ∧
  (∀ (u : UnitId) (t : State), tellCancelled u false t = t ∧
    let v := tellCancelled u true t
    v = { t with alc := { t.alc with removals := t.alc.removals.set u none, table := v.alc.table } } ∧
    v.alc.table.length = t.alc.table.length ∧
    ∀ (i : Nat) (x : AlertRecord), t.alc.table[i]? = some x →
      let theirs : Prop := x.id.unit.toNat = u.val ∧ ∃ e, x.stop = some e ∧ e.byRemoval = true
      (theirs → v.alc.table[i]? = some { x with
        stop := none, state := if x.state = .ending then .active else x.state }) ∧
      (¬theirs → v.alc.table[i]? = some x))

/-- CONTRIB: ignored by state, LATE, EARLY, STRAY, held, or filed in its entry of the open slot, VOID when its body
check failed. The model's choice in part: log 26. -/
def Obligations.ContributionOutcome : Prop :=
  ∀ (s r : State) (p : LinkPacket) (u : UnitId), settle s = r → PeerPacket .contrib p u r →
    let y := r.lkp.senders[u]
    let q := noted p u (if p.bodyCheck = crc32 p.body then r
      else { r with lkp.senders := r.lkp.senders.set u { y with bodyErrors := bump y.bodyErrors } })
    let c := parseContrib p.body
    let content := if p.bodyCheck = crc32 p.body then some c else none
    let i : Fin 16 := Fin.ofNat 16 p.frameTag.toNat
    let held (x : FrameSlot) : Host.Outcome State Fault Refusal := .next { q with asm.slots := q.asm.slots.set i x }
    let counted (x : AsmCounters) : Host.Outcome State Fault Refusal := .next { q with asm.counters := x }
    exec (.contrib p) s = .next (arrive ⟨u, p.frameTag, p.serviceTag, content⟩ q) ∧
    (q.pvw.unit.computing = false →
      exec (.contrib p) s = counted { q.asm.counters with ignoredByState := bump q.asm.counters.ignoredByState }) ∧
    (∀ n, q.pvw.unit.computing = true → q.ftu.now = some n →
      (later p.frameTag (n + 1) = false → exec (.contrib p) s = .next { q with
        asm := { q.asm with counters := { q.asm.counters with late := bump q.asm.counters.late } }
        lkp := { q.lkp with
          senders := q.lkp.senders.set u { q.lkp.senders[u] with late := bump q.lkp.senders[u].late } }
        sup := supWith .contribLate q }) ∧
      (later p.frameTag (n + 1) = true → later p.frameTag (plus n (leadOf q + 1)) = true →
        exec (.contrib p) s = counted { q.asm.counters with early := bump q.asm.counters.early }) ∧
      (later p.frameTag (n + 1) = true → p.frameTag = plus n (leadOf q + 1) →
        (q.asm.slots[i] = .free →
          exec (.contrib p) s = held (.waiting p.frameTag [⟨u, p.frameTag, p.serviceTag, content⟩])) ∧
        (∀ l, q.asm.slots[i] = .waiting p.frameTag l → l.length < 41 →
          exec (.contrib p) s = held (.waiting p.frameTag (l ++ [⟨u, p.frameTag, p.serviceTag, content⟩]))) ∧
        (∀ l, q.asm.slots[i] = .waiting p.frameTag l → 41 ≤ l.length →
          exec (.contrib p) s = counted { q.asm.counters with early := bump q.asm.counters.early }) ∧
        (q.asm.slots[i] ≠ .free → (∀ l, q.asm.slots[i] ≠ .waiting p.frameTag l) →
          exec (.contrib p) s = counted { q.asm.counters with stray := bump q.asm.counters.stray })) ∧
      (later p.frameTag (n + 1) = true → later p.frameTag (plus n (leadOf q + 1)) = false →
        p.frameTag ≠ plus n (leadOf q + 1) →
        (∀ l es, q.asm.slots[i] = .opened p.frameTag l es → ∀ e ∈ es, e.service ≠ p.serviceTag ∨ e.owner ≠ u) →
        exec (.contrib p) s = counted { q.asm.counters with stray := bump q.asm.counters.stray }) ∧
      (∀ (l : Layout) (a b : List StoreEntry) (e : StoreEntry), later p.frameTag (n + 1) = true →
        later p.frameTag (plus n (leadOf q + 1)) = false → p.frameTag ≠ plus n (leadOf q + 1) →
        q.asm.slots[i] = .opened p.frameTag l (a ++ e :: b) → e.service = p.serviceTag → e.owner = u →
        (∀ x ∈ a, x.service ≠ p.serviceTag ∨ x.owner ≠ u) →
        (e.filing = .empty → p.bodyCheck = crc32 p.body → c.payload.length = 5 * (e.audioRate + e.side) →
          exec (.contrib p) s = held (.opened p.frameTag l (a ++ { e with
            filing := .filled u ⟨!c.audioVoid, c.payload.take (5 * e.audioRate)⟩
              ⟨!c.sideVoid, c.payload.drop (5 * e.audioRate)⟩ } :: b))) ∧
        (e.filing = .empty → p.bodyCheck = crc32 p.body → c.payload.length ≠ 5 * (e.audioRate + e.side) →
          exec (.contrib p) s = .next { q with asm := { q.asm with
            slots := q.asm.slots.set i (.opened p.frameTag l (a ++ { e with filing := .void u } :: b))
            counters := { q.asm.counters with size := bump q.asm.counters.size } } }) ∧
        (e.filing = .empty → p.bodyCheck ≠ crc32 p.body → exec (.contrib p) s = .next { q with asm := { q.asm with
          slots := q.asm.slots.set i (.opened p.frameTag l (a ++ { e with filing := .void u } :: b))
          counters := { q.asm.counters with voidFiled := bump q.asm.counters.voidFiled } } }) ∧
        (e.filing ≠ .empty →
          exec (.contrib p) s = counted { q.asm.counters with duplicate := bump q.asm.counters.duplicate })))

/-- ALERT: a new id joins the table, clamped, is refused late or full, or evicts the worst; a held id is a refresh or
an update. The model's choice in part: log 26, 41, 70. -/
def Obligations.AlertOutcome : Prop :=
  (∀ (s r : State) (p : LinkPacket) (u : UnitId), settle s = r → PeerPacket .alert p u r →
    p.bodyCheck = crc32 p.body → alertHolds p.body = true →
    let q := noted p u r
    let b := parseAlert p.body
    let tooLate : Prop := (q.pvw.unit = .onAir ∨ q.pvw.unit = .isolated) ∧
      ¬∃ n, q.ftu.now = some n ∧ later b.start (plus n (leadOf q)) = true
    (q.pvw.unit.viewing = false → exec (.alert p) s =
      .next { q with alc.counters.ignoredByState := bump q.alc.counters.ignoredByState }) ∧
    (q.pvw.unit.viewing = true → b.id.unit.toNat ≠ u.val → exec (.alert p) s =
      .next { q with alc.counters.foreignAlerts := bump q.alc.counters.foreignAlerts }) ∧
    (q.pvw.unit.viewing = true → b.id.unit.toNat = u.val → (∀ x ∈ q.alc.table, x.id ≠ b.id) →
      (tooLate → exec (.alert p) s = .next { q with
        alc := { q.alc with counters := { q.alc.counters with lateAlerts := bump q.alc.counters.lateAlerts } }
        sup := supWith .alertLate q }) ∧
      (¬tooLate → q.alc.table.length < 4 →
        ∃ x, exec (.alert p) s = .next { q with alc := { q.alc with
            table := q.alc.table ++ [x]
            counters := { q.alc.counters with accepted := bump q.alc.counters.accepted } } } ∧
          x.id = b.id ∧ x.start = b.start ∧ x.base.mask = b.base.mask ∧ x.base.test = b.base.test ∧
          x.base.text = b.base.text ∧ 1 ≤ x.base.urgency ∧ x.base.urgency ≤ 3 ∧
          (1 ≤ b.base.urgency → b.base.urgency ≤ 3 → x.base.urgency = b.base.urgency) ∧
          (x.audioRate = 0 ∨ (16 ≤ x.audioRate ∧ x.audioRate ≤ 192 ∧ x.audioRate % 8 = 0)) ∧
          (x.state = .waiting ↔ ∀ n, q.ftu.now = some n → later b.start n = true) ∧
          (x.stop.isSome = true ↔ q.alc.removals[u].isSome = true)) ∧
      (∀ w, ¬tooLate → 4 ≤ q.alc.table.length → worstRecord q.ftu.now q.alc.table = some w →
        let x := acceptedRecord b q
        let v := (valuesNow w q.ftu.now).urgency
        let above : Prop := x.base.urgency < v ∨ (x.base.urgency = v ∧ (later w.start b.start = true ∨
          (b.start = w.start ∧ (b.id.unit.toNat < w.id.unit.toNat ∨
            (b.id.unit = w.id.unit ∧ b.id.serial.toNat < w.id.serial.toNat)))))
        let own : Prop := q.alc.localAlert.id = some w.id ∧
          (q.alc.localAlert.state = .announced ∨ q.alc.localAlert.state = .on)
        let rest := q.alc.table.filter (fun y => y.id != w.id)
        (¬above → exec (.alert p) s = .next { q with
          alc := { q.alc with counters := { q.alc.counters with refusedFull := bump q.alc.counters.refusedFull } }
          sup := supWith .alertTableFull q }) ∧
        (above → ¬own → exec (.alert p) s = .next { q with
          alc := { q.alc with
            table := rest ++ [x]
            counters := { q.alc.counters with
              accepted := bump q.alc.counters.accepted, evictions := bump q.alc.counters.evictions } }
          sup := supWith .alertTableFull q }) ∧
        (∀ n, above → own → q.ftu.now = some n →
          let e := plus n (leadOf q + 2)
          ∃ t, exec (.alert p) s = .next t ∧ t.alc.table = rest ++ [x] ∧
            t.alc.localAlert = { q.alc.localAlert with state := .ending, stop := some e } ∧
            t.alc.counters.accepted = bump q.alc.counters.accepted ∧
            t.alc.counters.evictions = bump q.alc.counters.evictions ∧
            t.alc.counters.endsByEviction = bump q.alc.counters.endsByEviction ∧
            flagSet .alertTableFull t = true ∧
            (q.lkp.queue.length < 64 → t.lkp = servedLkp q { q.lkp with
              queue := q.lkp.queue ++ [⟨.alertEnd, 0, 0, [w.id.unit, w.id.serial] ++ be24 e⟩] })))) ∧
    (∀ x, q.pvw.unit.viewing = true → b.id.unit.toNat = u.val → q.alc.table.find? (fun y => y.id = b.id) = some x →
      (b.update = none ∨ ∃ v w, b.update = some v ∧ x.update = some w ∧ w.frame = v.frame) →
      exec (.alert p) s = .next { q with alc.counters.refreshes := bump q.alc.counters.refreshes }) ∧
    (∀ (a d : List AlertRecord) (x : AlertRecord) (v : AlertUpdate), q.pvw.unit.viewing = true →
      b.id.unit.toNat = u.val → q.alc.table = a ++ x :: d → (∀ y ∈ a, y.id ≠ b.id) → x.id = b.id → b.update = some v →
      (∀ w, x.update = some w → w.frame ≠ v.frame) →
      let late : Prop := (q.pvw.unit = .onAir ∨ q.pvw.unit = .isolated) ∧
        ¬∃ n, q.ftu.now = some n ∧ later v.frame (plus n (leadOf q)) = true
      (late → exec (.alert p) s = .next { q with alc.counters.lateUpdates := bump q.alc.counters.lateUpdates }) ∧
      (¬late → exec (.alert p) s = .next { q with alc := { q.alc with
        table := a ++ { x with
          base := (x.update.map (·.values)).getD x.base
          update := some ⟨v.frame, { v.values with urgency := max 1 (min v.values.urgency 3) }⟩
          clamped := x.clamped || decide (v.values.urgency = 0 ∨ 3 < v.values.urgency) } :: d
        counters := { q.alc.counters with updatesStored := bump q.alc.counters.updatesStored } } }))) ∧
  (∀ (now : Option FrameNo) (t : List AlertRecord), (worstRecord now t = none ↔ t = []) ∧
    ∀ w, worstRecord now t = some w → w ∈ t ∧ ∀ base : FrameNo, (∀ y ∈ t, (y.start - base).toNat < 8388608) →
      ∀ y ∈ t, (valuesNow y now).urgency ≤ (valuesNow w now).urgency ∧
        ((valuesNow y now).urgency = (valuesNow w now).urgency → later y.start w.start = false ∧
          (y.start = w.start → y.id.unit.toNat < w.id.unit.toNat ∨
            (y.id.unit = w.id.unit ∧ y.id.serial.toNat ≤ w.id.serial.toNat))))

/-- ALERT_END: the record held gets its end frame, at least now + L + 1; unknown ids, repeats and foreign ids only
count. The model's choice in part: log 17, 26. -/
def Obligations.AlertEndOutcome : Prop :=
  ∀ (s r : State) (p : LinkPacket) (u : UnitId), settle s = r → PeerPacket .alertEnd p u r →
    p.bodyCheck = crc32 p.body →
    let q := noted p u r
    let i := alertIdAt p.body 0
    let e := frameAt p.body 2
    (q.pvw.unit.viewing = false → exec (.alertEnd p) s =
      .next { q with alc.counters.ignoredByState := bump q.alc.counters.ignoredByState }) ∧
    (q.pvw.unit.viewing = true → i.unit.toNat ≠ u.val → exec (.alertEnd p) s =
      .next { q with alc.counters.foreignAlerts := bump q.alc.counters.foreignAlerts }) ∧
    (q.pvw.unit.viewing = true → i.unit.toNat = u.val → (∀ x ∈ q.alc.table, x.id ≠ i) → exec (.alertEnd p) s =
      .next { q with alc.counters.unknownEnds := bump q.alc.counters.unknownEnds }) ∧
    (∀ (a b : List AlertRecord) (x : AlertRecord), q.pvw.unit.viewing = true → i.unit.toNat = u.val →
      q.alc.table = a ++ x :: b → (∀ y ∈ a, y.id ≠ i) → x.id = i →
      (x.receivedEnd.isSome = true → exec (.alertEnd p) s =
        .next { q with alc.counters.endRefreshes := bump q.alc.counters.endRefreshes }) ∧
      (∀ n, x.receivedEnd = none → q.ftu.now = some n →
        let given := if later e (plus n (leadOf q)) then e else plus n (leadOf q + 1)
        ∃ f, exec (.alertEnd p) s = .next { q with alc := { q.alc with
            table := a ++ { x with stop := some ⟨f, false⟩, receivedEnd := some e,
                                   state := if x.state = .active then .ending else x.state } :: b
            counters := { q.alc.counters with
              endsClamped := if later e (plus n (leadOf q)) then q.alc.counters.endsClamped
                             else bump q.alc.counters.endsClamped } } } ∧
          (x.stop = none → f = given) ∧
          (∀ y, x.stop = some y → f = if y.byRemoval = true ∧ later y.frame given = false then y.frame else given)))

/-- FEED_HUNT_PACKET, FEED_PACKET_FAILED, FEED_PACKET_MALFORMED: a port locks on two good packets and loses lock on
three failures. The model's choice in part: log 23, 31, 36, 37, 51, 72. -/
def Obligations.FeedReceiverOutcome : Prop :=
  (∀ (s r : State) (p : PortId) (c : List Byte → Instr), settle s = r → r.pvw.unit.running = true →
    r.sin.ports[p].state ≠ .disabled → (c = .feedHuntPacket p ∨ c = .feedPacketFailed p) →
    let x := r.sin.ports[p]
    let y : Port := { x with active := true }
    let put (z : Port) : State := { r with sin.ports := r.sin.ports.set p z }
    let goesOn (bs rest : List Byte) (t : State) : Prop :=
      exec (c bs) s = exec (c rest) t ∧ (NoPair 0xB7 0x4E rest → exec (c bs) s = .next t)
    let fails (f : List Byte) : Prop :=
      let n := beNat (slice f 3 2)
      1920 < n ∨ f.length < 7 + n ∨ half f (5 + n) ≠ crc16 (slice f 2 (3 + n))
    let failed (bs rest : List Byte) : Prop :=
      let z : Port := { y with nextKnown := false, counters.failed := bump x.counters.failed }
      let hunting : Port := { z with
        state := .hunt, huntCount := 0, held := [], failures := 0, counters.syncLosses := bump x.counters.syncLosses }
      (x.failures < 2 → goesOn bs rest (put { z with failures := x.failures + 1 })) ∧
      (∀ k : ServiceIx, 2 ≤ x.failures → roleOf r p = .main k.val → goesOn bs rest { r with sin := { r.sin with
        ports := r.sin.ports.set p hunting
        services := r.sin.services.set k { r.sin.services[k] with mainUp := 0 } } }) ∧
      (2 ≤ x.failures → (∀ k, roleOf r p ≠ .main k) → goesOn bs rest (put hunting))
    (∀ bs, feedLead x bs → exec (c bs) s = .next (put { x with
      active := x.active || bs.any (· != 0xFF)
      held := if x.state = .hunt ∧ 1 ≤ x.huntCount then x.held ++ bs else x.held })) ∧
    (∀ lead rest, x.state = .hunt → feedLead x lead → fails ([0xB7, 0x4E] ++ rest) →
      goesOn (lead ++ [0xB7, 0x4E] ++ rest) rest (put { y with huntCount := 0, held := [] })) ∧
    (∀ lead rest, x.state = .lost → feedLead x lead → fails ([0xB7, 0x4E] ++ rest) →
      goesOn (lead ++ [0xB7, 0x4E] ++ rest) rest (put { y with
        state := .hunt, idleCount := 0, huntCount := 0, held := [] })) ∧
    (∀ lead b l, x.state = .hunt → 1 ≤ x.huntCount → (∀ e ∈ lead, e = 0xFF) → b ≠ 0xFF → hasFeedSync (b :: l) = false →
      goesOn (lead ++ b :: l) (x.held ++ lead ++ b :: l) (put { y with huntCount := 0, held := [] })) ∧
    (∀ lead b l, x.state = .locked → x.nextKnown = true → (∀ e ∈ lead, e = 0xFF) → b ≠ 0xFF →
      hasFeedSync (b :: l) = false → failed (lead ++ b :: l) (b :: l)) ∧
    (∀ lead rest, x.state = .locked → feedLead x lead → fails ([0xB7, 0x4E] ++ rest) →
      failed (lead ++ [0xB7, 0x4E] ++ rest) rest) ∧
    (∀ lead code body, feedLead x lead → body.length ≤ 1920 →
      let core := [code] ++ be16 (BitVec.ofNat 16 body.length) ++ body
      let inner := core ++ be16 (crc16 core)
      let bs := lead ++ [0xB7, 0x4E] ++ inner
      let z : Port := { y with
        huntCount := x.huntCount + 1, held := inner, counters.huntDiscards := bump x.counters.huntDiscards }
      let locked : Port := { z with state := .locked, huntCount := 0, held := [], failures := 0, nextKnown := true }
      exec (c bs) s = exec (.feedPacketMalformed p code body) s ∧
      (∀ tail t, exec (c bs) s = .next t → exec (c (bs ++ tail)) s = exec (c tail) t) ∧
      (x.state = .hunt → x.huntCount = 0 → exec (c bs) s = .next (put z)) ∧
      (x.state = .lost → x.huntCount = 0 → exec (c bs) s = .next (put { z with state := .hunt, idleCount := 0 })) ∧
      (∀ k : ServiceIx, x.state = .hunt → 1 ≤ x.huntCount → roleOf r p = .main k.val → exec (c bs) s =
        .next { r with sin := { r.sin with
          ports := r.sin.ports.set p locked
          services := r.sin.services.set k { r.sin.services[k] with mainDown := 0 } } }) ∧
      (∀ k : ServiceIx, x.state = .hunt → 1 ≤ x.huntCount → roleOf r p = .backup k.val → exec (c bs) s =
        .next { r with sin := { r.sin with
          ports := r.sin.ports.set p locked
          services := r.sin.services.set k { r.sin.services[k] with backupDown := 0 } } }) ∧
      (x.state = .hunt → 1 ≤ x.huntCount → roleOf r p = .alert → exec (c bs) s = .next (put locked)) ∧
      (x.state = .locked → (∀ f, feedKindOf code = some f → f.lengthOk body.length = false) → exec (c bs) s =
        .next (put { y with failures := 0, nextKnown := true, counters.malformed := bump x.counters.malformed })))) ∧
  (∀ (s r : State) (p : PortId) (code : Byte) (body : List Byte), settle s = r → r.pvw.unit.running = true →
    r.sin.ports[p].state = .locked → body.length ≤ 1920 →
    (∀ f, feedKindOf code = some f → f.lengthOk body.length = false) → exec (.feedPacketMalformed p code body) s =
      .next { r with sin.ports := r.sin.ports.set p { r.sin.ports[p] with
        active := true, failures := 0, nextKnown := true
        counters.malformed := bump r.sin.ports[p].counters.malformed } }) ∧
  (∀ (s r : State) (p : PortId) (bs : List Byte), settle s = r →
    (r.pvw.unit.running = false ∨ r.sin.ports[p].state = .disabled) →
    exec (.feedHuntPacket p bs) s = .next r ∧ exec (.feedPacketFailed p bs) s = .next r)

/-- AUDIO: a unit of the right length joins its queue of 16, the oldest leaving a full one; any other length is
refused. The model's choice in part: log 34. -/
def Obligations.AudioOutcome : Prop :=
  (∀ (s r : State) (p : PortId) (k : ServiceIx) (d : ServiceDef) (body : List Byte), settle s = r →
    FeedTaken .audio p body r → FeedsService p k r → serviceDef r k = some d →
    let q := tookFeed .audio p r
    let x := r.sin.services[k]
    (body.length = 5 * d.audioRate → x.queue.length < 16 → exec (.audio p body) s =
      .next { q with sin.services := q.sin.services.set k { x with
        queue := x.queue ++ [body], counters.accepted := bump x.counters.accepted } }) ∧
    (body.length = 5 * d.audioRate → 16 ≤ x.queue.length → exec (.audio p body) s =
      .next { q with
        sin := { q.sin with services := q.sin.services.set k { x with
          queue := x.queue.drop 1 ++ [body]
          counters := { x.counters with accepted := bump x.counters.accepted, overruns := bump x.counters.overruns } } }
        sup := supWith .overrun q }) ∧
    (body.length ≠ 5 * d.audioRate → exec (.audio p body) s =
      .next { q with sin.services := q.sin.services.set k { x with
        counters.lengthRefusals := bump x.counters.lengthRefusals } })) ∧
  (∀ (s r : State) (p : PortId) (i : Image) (body : List Byte), settle s = r → FeedTaken .audio p body r →
    r.cfl.image = some i → i.roles[p] = .alert →
    let q := tookFeed .audio p r
    let c := r.sin.alertCounters
    let fits : Prop := i.alertAudioRate ≠ 0 ∧ body.length = 5 * i.alertAudioRate
    let live : Prop := r.alc.localAlert.state = .announced ∨ r.alc.localAlert.state = .on
    (¬fits → exec (.audio p body) s =
      .next { q with sin.alertCounters.lengthRefusals := bump c.lengthRefusals }) ∧
    (fits → r.sin.alertQueue.length < 16 → exec (.audio p body) s =
      .next { q with sin := { q.sin with
        alertQueue := r.sin.alertQueue ++ [body], alertCounters := { c with accepted := bump c.accepted } } }) ∧
    (fits → 16 ≤ r.sin.alertQueue.length → live → exec (.audio p body) s =
      .next { q with
        sin := { q.sin with
          alertQueue := r.sin.alertQueue.drop 1 ++ [body]
          alertCounters := { c with accepted := bump c.accepted, overruns := bump c.overruns } }
        sup := supWith .overrun q }) ∧
    (fits → 16 ≤ r.sin.alertQueue.length → ¬live → exec (.audio p body) s =
      .next { q with sin := { q.sin with
        alertQueue := r.sin.alertQueue.drop 1 ++ [body]
        alertCounters := { c with accepted := bump c.accepted, aged := bump c.aged } } }))

/-- TEXT_SET and TEXT_CLEAR: the named slot alone is stored, replaced or emptied, under the key test. The model's
choice in part: log 34. -/
def Obligations.TextPacketsOutcome : Prop :=
  (∀ (s r : State) (p : PortId) (k : ServiceIx) (body : List Byte), settle s = r → FeedTaken .textSet p body r →
    FeedsService p k r →
    let q := tookFeed .textSet p r
    let c := r.txc.carousels[k]
    let w := (byteAt body 1).toNat
    let h := (byteAt body 2).toNat
    let life := beNat (slice body 3 2)
    let bad (b : Byte) : Bool := (b.toNat ≤ 0x1F && b != 0x0A) || (0x7F ≤ b.toNat && b.toNat ≤ 0x9F)
    (7 < (byteAt body 0).toNat → exec (.textSet p body) s = .next { q with
      txc.carousels := q.txc.carousels.set k { c with counters.badSlots := bump c.counters.badSlots } }) ∧
    (∀ i : SlotIx, (byteAt body 0).toNat = i.val →
      let x := c.slots[i]
      let current : Prop := x.state ≠ .empty ∧ ∃ t, c.current = some t ∧ t.slot = i
      let refused : Prop := x.state ≠ .empty ∧ keyOf r p ≠ 0 ∧ keyOf r p ≠ x.key
      (refused → exec (.textSet p body) s = .next { q with
        txc := { q.txc with carousels :=
          q.txc.carousels.set k { c with counters.keyRefusals := bump c.counters.keyRefusals } }
        sup := supWith .keyRefused q }) ∧
      (¬refused → ∃ d, exec (.textSet p body) s = .next { q with txc.carousels := q.txc.carousels.set k d } ∧
        d.slots = c.slots.set i
          { state := .active, text := (body.drop 5).map (fun b => if bad b then 0x20 else b),
            weight := max 1 (min w 4), hold := min h 250, lifetime := life, remaining := life, toggle := !x.toggle,
            key := keyOf r p, inList := decide (x.state ≠ .empty) && x.inList } ∧
        (current → d.current = none) ∧ (¬current → d.current = c.current) ∧
        d = { c with slots := d.slots, current := d.current, counters := d.counters } ∧
        (x.state = .empty → d.counters.fills = bump c.counters.fills ∧
          d.counters.replacements = c.counters.replacements) ∧
        (x.state ≠ .empty → d.counters.replacements = bump c.counters.replacements ∧
          d.counters.fills = c.counters.fills) ∧
        (current → d.counters.abandonments = bump c.counters.abandonments) ∧
        (¬current → d.counters.abandonments = c.counters.abandonments) ∧
        d.counters.substituted = bumpBy c.counters.substituted ((body.drop 5).countP bad) ∧
        d.counters.clamped = (if w = 0 ∨ 4 < w ∨ 250 < h then bump c.counters.clamped else c.counters.clamped)))) ∧
  (∀ (s r : State) (p : PortId) (k : ServiceIx) (b : Byte), settle s = r → FeedTaken .textClear p [b] r →
    FeedsService p k r →
    let q := tookFeed .textClear p r
    let c := r.txc.carousels[k]
    (7 < b.toNat → exec (.textClear p [b]) s = .next { q with
      txc.carousels := q.txc.carousels.set k { c with counters.badSlots := bump c.counters.badSlots } }) ∧
    (∀ i : SlotIx, b.toNat = i.val →
      let x := c.slots[i]
      let current : Prop := ∃ t, c.current = some t ∧ t.slot = i
      (x.state = .empty → exec (.textClear p [b]) s = .next { q with
        txc.carousels :=
          q.txc.carousels.set k { c with counters.emptyClears := bump c.counters.emptyClears } }) ∧
      (x.state ≠ .empty → keyOf r p ≠ 0 → keyOf r p ≠ x.key → exec (.textClear p [b]) s = .next { q with
        txc := { q.txc with carousels :=
          q.txc.carousels.set k { c with counters.keyRefusals := bump c.counters.keyRefusals } }
        sup := supWith .keyRefused q }) ∧
      (x.state ≠ .empty → (keyOf r p = 0 ∨ keyOf r p = x.key) → ¬current → exec (.textClear p [b]) s =
        .next { q with txc.carousels := q.txc.carousels.set k { c with
          slots := c.slots.set i (.empty x.toggle), counters.clears := bump c.counters.clears } }) ∧
      (x.state ≠ .empty → (keyOf r p = 0 ∨ keyOf r p = x.key) → current → exec (.textClear p [b]) s =
        .next { q with txc.carousels := q.txc.carousels.set k { c with
          slots := c.slots.set i (.empty x.toggle), current := none
          counters := { c.counters with clears := bump c.counters.clears,
                                        abandonments := bump c.counters.abandonments } } })))

/-- PIC_BEGIN and PIC_DELETE: the lowest free pages for a new record, the key test, room, replacement and removal. The
model's choice in part: log 34. -/
def Obligations.PictureBeginAndDeleteOutcome : Prop :=
  (∀ (s r : State) (p : PortId) (k : ServiceIx) (body : List Byte), settle s = r → FeedTaken .picBegin p body r →
    FeedsService p k r →
    let q := tookFeed .picBegin p r
    let size := beNat (slice body 2 2)
    let c := r.pic.carousels[k]
    ((size = 0 ∨ 65520 < size) → exec (.picBegin p body) s = .next { q with
      pic.carousels := q.pic.carousels.set k { c with counters.badSizes := bump c.counters.badSizes } }) ∧
    (1 ≤ size → size ≤ 65520 → (∀ y ∈ r.pic.table, ¬(y.service = k ∧ y.id = half body 0)) →
      exec (.picBegin p body) s = .next (admitObject k p (keyOf r p) body q)) ∧
    (∀ x, 1 ≤ size → size ≤ 65520 → findObject k (half body 0) r = some x →
      (keyOf r p ≠ 0 → keyOf r p ≠ x.key → exec (.picBegin p body) s = .next { q with
        pic := { q.pic with carousels :=
          q.pic.carousels.set k { c with counters.keyRefusals := bump c.counters.keyRefusals } }
        sup := supWith .keyRefused q }) ∧
      ((keyOf r p = 0 ∨ keyOf r p = x.key) → exec (.picBegin p body) s =
        .next (admitObject k p (keyOf r p) body { q with pic := { q.pic with
          table := q.pic.table.filter (fun y => !(y.service = k && y.id = half body 0))
          carousels := q.pic.carousels.set k { c with
            current := if x.state = .onAir then none else c.current
            counters := { c.counters with
              replacements := bump c.counters.replacements
              cuts := if x.state = .onAir then bump c.counters.cuts else c.counters.cuts } } } })))) ∧
  (∀ (q : State) (p : PortId) (k : ServiceIx) (key : Nat) (body : List Byte),
    let size := beNat (slice body 2 2)
    let need := (size + 511) / 512
    let free := freePages q.pic.table
    let c := q.pic.carousels[k]
    (need ≤ free.length → q.pic.table.length < 32 → admitObject k p key body q = { q with pic := { q.pic with
      lowestFree := min q.pic.lowestFree (free.length - need)
      carousels := q.pic.carousels.set k { c with counters.begins := bump c.counters.begins }
      table := q.pic.table ++ [
        { id := half body 0, service := k, key := key, port := p, size := size, pages := free.take need, received := 0,
          crc := 0xFFFF, order := (byteAt body 4).toNat, repeats := (byteAt body 5).toNat, done := 0,
          lifetime := beNat (slice body 6 2), remaining := 0, idle := 0, pointer := 0, state := .loading,
          expiring := false }] } }) ∧
    ((free.length < need ∨ 32 ≤ q.pic.table.length) → admitObject k p key body q = { q with
      pic := { q.pic with carousels := q.pic.carousels.set k { c with counters.noRoom := bump c.counters.noRoom } }
      sup := supWith .picLoadFail q }) ∧
    (∀ n ∈ free, n < 384 ∧ ∀ y ∈ q.pic.table, n ∉ y.pages) ∧ free.Pairwise (· < ·) ∧
    (∀ n, n < 384 → (∀ y ∈ q.pic.table, n ∉ y.pages) → n ∈ free)) ∧
  (∀ (s r : State) (p : PortId) (k : ServiceIx) (body : List Byte), settle s = r → FeedTaken .picDelete p body r →
    FeedsService p k r →
    let q := tookFeed .picDelete p r
    let c := r.pic.carousels[k]
    ((∀ y ∈ r.pic.table, ¬(y.service = k ∧ y.id = half body 0)) → exec (.picDelete p body) s =
      .next { q with
        pic.carousels :=
          q.pic.carousels.set k { c with counters.unknownDelete := bump c.counters.unknownDelete } }) ∧
    (∀ x, findObject k (half body 0) r = some x →
      (keyOf r p ≠ 0 → keyOf r p ≠ x.key → exec (.picDelete p body) s = .next { q with
        pic := { q.pic with carousels :=
          q.pic.carousels.set k { c with counters.keyRefusals := bump c.counters.keyRefusals } }
        sup := supWith .keyRefused q }) ∧
      ((keyOf r p = 0 ∨ keyOf r p = x.key) → exec (.picDelete p body) s = .next { q with pic := { q.pic with
        table := q.pic.table.filter (fun y => !(y.service = k && y.id = half body 0))
        carousels := q.pic.carousels.set k { c with
          current := if x.state = .onAir then none else c.current
          counters := { c.counters with
            deletes := bump c.counters.deletes
            cuts := if x.state = .onAir then bump c.counters.cuts else c.counters.cuts } } } })))

/-- PIC_DATA: the bytes land in the object's pages at the offset, every other byte of the pool reads as before. The
model's choice in part: log 8, 34. -/
def Obligations.PictureDataOutcome : Prop :=
  ∀ (s r : State) (p : PortId) (k : ServiceIx) (body : List Byte), settle s = r → FeedTaken .picData p body r →
    FeedsService p k r →
    let q := tookFeed .picData p r
    let o := beNat (slice body 2 2)
    let data := body.drop 4
    let c := r.pic.carousels[k]
    let stray : Host.Outcome State Fault Refusal := .next { q with
      pic.carousels := q.pic.carousels.set k { c with counters.strayData := bump c.counters.strayData } }
    (findObject k (half body 0) r = none → exec (.picData p body) s = stray) ∧
    (∀ x, findObject k (half body 0) r = some x → x.state ≠ .loading → exec (.picData p body) s = stray) ∧
    (∀ (a b : List PicRecord) (x : PicRecord), r.pic.table = a ++ x :: b → x.service = k → x.id = half body 0 →
      (∀ y ∈ a, ¬(y.service = k ∧ y.id = half body 0)) → x.state = .loading →
      (x.port ≠ p → exec (.picData p body) s = .next { q with
        pic.carousels :=
          q.pic.carousels.set k { c with counters.foreignData := bump c.counters.foreignData } }) ∧
      (x.port = p → o ≠ x.received → exec (.picData p body) s = .next { q with
        pic.carousels :=
          q.pic.carousels.set k { c with counters.gaps := bump c.counters.gaps } }) ∧
      (x.port = p → o = x.received → x.size < o + data.length → exec (.picData p body) s =
        .next { q with
          pic.carousels :=
            q.pic.carousels.set k { c with counters.overlengths := bump c.counters.overlengths } }) ∧
      (x.port = p → o = x.received → o + data.length ≤ x.size →
        let place (i : Nat) : Nat := x.pages.getD (i / 512) 0 * 512 + i % 512
        ∃ m, exec (.picData p body) s = .next { q with pic := { q.pic with
            memory := m
            table := a ++ { x with received := x.received + data.length, crc := crc16From x.crc data, idle := 0 } :: b } } ∧
          (MemorySound r → ∀ n, (∀ j, j < data.length → n ≠ place (o + j)) → memRead m n = memRead r.pic.memory n) ∧
          (MemorySound r → x.pages.Nodup → x.size ≤ 512 * x.pages.length →
            ∀ j, j < data.length → memRead m (place (o + j)) = byteAt data j)))

/-- PIC_END: a complete object with the right CRC-16 becomes READY; any other load ends and frees its pages. The
model's choice in part: log 34, 76. -/
def Obligations.PictureEndOutcome : Prop :=
  ∀ (s r : State) (p : PortId) (k : ServiceIx) (body : List Byte), settle s = r → FeedTaken .picEnd p body r →
    FeedsService p k r →
    let q := tookFeed .picEnd p r
    let c := r.pic.carousels[k]
    let stray : Host.Outcome State Fault Refusal := .next { q with
      pic.carousels := q.pic.carousels.set k { c with counters.strayEnds := bump c.counters.strayEnds } }
    (findObject k (half body 0) r = none → exec (.picEnd p body) s = stray) ∧
    (∀ x, findObject k (half body 0) r = some x → x.state ≠ .loading → exec (.picEnd p body) s = stray) ∧
    (∀ x, findObject k (half body 0) r = some x → x.state = .loading → x.port ≠ p → exec (.picEnd p body) s =
      .next { q with
        pic.carousels :=
          q.pic.carousels.set k { c with counters.foreignEnds := bump c.counters.foreignEnds } }) ∧
    (∀ (a b : List PicRecord) (x : PicRecord), r.pic.table = a ++ x :: b → x.service = k → x.id = half body 0 →
      (∀ y ∈ a, ¬(y.service = k ∧ y.id = half body 0)) → x.state = .loading → x.port = p → x.received = x.size →
      x.crc = half body 2 → exec (.picEnd p body) s = .next { q with pic := { q.pic with
        table := a ++ { x with state := .ready, remaining := x.lifetime } :: b
        carousels := q.pic.carousels.set k { c with counters.completed := bump c.counters.completed } } }) ∧
    (∀ x, findObject k (half body 0) r = some x → x.state = .loading → x.port = p →
      (x.received ≠ x.size ∨ x.crc ≠ half body 2) → exec (.picEnd p body) s = .next { q with
        pic := { q.pic with
          table := q.pic.table.filter (fun y => !(y.service = k && y.id = half body 0))
          carousels := q.pic.carousels.set k { c with counters.badEnds := bump c.counters.badEnds } }
        sup := supWith .picLoadFail q })

/-- ALERT_REQ and ALERT_CLEAR at the ALERT port: the FEED source takes values and its mark, or loses it with the EDGE
marks. The model's choice in part: log 34. -/
def Obligations.AlertFeedOutcome : Prop :=
  (∀ (s r : State) (p : PortId) (i : Image) (body : List Byte), settle s = r → FeedTaken .alertReq p body r →
    r.cfl.image = some i → i.roles[p] = .alert →
    let q := tookFeed .alertReq p r
    let x := r.alc.sources.feed
    let u := (byteAt body 0).toNat
    (i.feedAlert = true → exec (.alertReq p body) s = .next { q with alc.sources.feed := { x with
      values := some ⟨max 1 (min u 3), byteAt body 1, body.drop 2⟩, raised := true
      counters.clamps := if 1 ≤ u ∧ u ≤ 3 then x.counters.clamps else bump x.counters.clamps } }) ∧
    (i.feedAlert = false → exec (.alertReq p body) s = .next { q with alc.sources.feed := { x with
      counters.disabledRequests := bump x.counters.disabledRequests } })) ∧
  (∀ (s r : State) (p : PortId) (i : Image), settle s = r → FeedTaken .alertClear p [] r → r.cfl.image = some i →
    i.roles[p] = .alert →
    let q := tookFeed .alertClear p r
    let t := r.alc.sources
    exec (.alertClear p []) s = .next { q with alc := { q.alc with
      counters := { q.alc.counters with clears := bump q.alc.counters.clears }
      sources := { t with
        feed := { t.feed with raised := if i.feedAlert then false else t.feed.raised }
        al0 := { t.al0 with raised := decide (i.lines[0].mode = .level) && t.al0.raised }
        al1 := { t.al1 with raised := decide (i.lines[1].mode = .level) && t.al1.raised } } } })

/-- FILL only counts; a packet at a port not in use is standby; one its port's role does not take is misplaced. The
model's choice in part: log 33, 34. -/
def Obligations.FillStandbyMisplacedOutcome : Prop :=
  (∀ (s r : State) (f : FeedKind) (p : PortId) (body : List Byte), settle s = r → r.pvw.unit.running = true →
    r.sin.ports[p].state = .locked → f.lengthOk body.length = true → inUse r p = false →
    let x := r.sin.ports[p]
    exec (feedCommand f p body) s = .next { r with sin.ports := r.sin.ports.set p { x with
      active := true, failures := 0, nextKnown := true, counters.standby := bumpKind f x.counters.standby } }) ∧
  (∀ (s r : State) (p : PortId) (body : List Byte), settle s = r → FeedTaken .fill p body r →
    let q := tookFeed .fill p r
    let x := q.sin.ports[p]
    exec (.fill p body) s = .next { q with sin.ports := q.sin.ports.set p { x with
      counters.fills := bump x.counters.fills } }) ∧
  (∀ (s r : State) (f : FeedKind) (p : PortId) (k : ServiceIx) (body : List Byte), settle s = r → FeedTaken f p body r →
    ((roleOf r p = .alert ∧ f ≠ .audio ∧ f ≠ .alertReq ∧ f ≠ .alertClear ∧ f ≠ .fill) ∨
      (FeedsService p k r ∧ (f = .alertReq ∨ f = .alertClear))) →
    let q := tookFeed f p r
    let x := q.sin.ports[p]
    exec (feedCommand f p body) s = .next { q with sin.ports := q.sin.ports.set p { x with
      counters.misplaced := bumpKind f x.counters.misplaced } }) ∧
  (∀ (s r : State) (f : FeedKind) (p : PortId) (body : List Byte), settle s = r →
    (r.pvw.unit = .loading ∨ r.pvw.unit = .halted ∨ r.sin.ports[p].state = .disabled) →
    exec (feedCommand f p body) s = .next r)

/-- FEED_LOST, FEED_SWITCH, FEED_REVERT and the counts they rest on: the port is LOST with its loads, or the service
changes its port. The model's choice in part: log 31. -/
def Obligations.FeedEventsOutcome : Prop :=
  (∀ (s t : State) (rest : List Act) (p : PortId), EventTurn (.feedLost p) s t rest → t.pvw.unit.running = true →
    t.sin.ports[p].idleCount = 8 → (t.sin.ports[p].state = .hunt ∨ t.sin.ports[p].state = .locked) →
    let x := t.sin.ports[p]
    let lost := t.pic.table.filter (fun y => y.state = .loading && y.port = p)
    ∃ u, exec (.feedLost p) s = .next (advance rest u) ∧
      u.sin.ports = t.sin.ports.set p { x with
        state := .lost, huntCount := 0, held := [], failures := 0, nextKnown := false
        counters.losts := bump x.counters.losts } ∧
      (∀ k : ServiceIx, u.sin.services[k] = (if roleOf t p = .main k.val then
        { t.sin.services[k] with mainUp := 0 } else t.sin.services[k])) ∧
      u.sin.alertQueue = t.sin.alertQueue ∧ u.pic.memory = t.pic.memory ∧
      u.pic.table = t.pic.table.filter (fun y => !(y.state = .loading && y.port = p)) ∧
      (∀ k : ServiceIx, u.pic.carousels[k] = { t.pic.carousels[k] with
        counters.lostLoads := bumpBy t.pic.carousels[k].counters.lostLoads
          (lost.filter (fun y => y.service = k)).length }) ∧
      u.sup.flags = t.sup.flags ||| Flag.feedLost.mask ||| (if lost = [] then 0 else Flag.picLoadFail.mask) ∧
      (roleOf t p ≠ .alert → u.alc = t.alc) ∧
      (roleOf t p = .alert → u.alc = { t.alc with
        counters := { t.alc.counters with feedLosses := bump t.alc.counters.feedLosses }
        sources := { t.alc.sources with feed := { t.alc.sources.feed with
          raised := t.alc.sources.feed.raised && t.alc.sources.feed.carried } } }) ∧
      u = { t with sin := u.sin, pic := u.pic, alc := u.alc, sup := u.sup }) ∧
  (∀ (s t : State) (rest : List Act) (k : ServiceIx) (p : PortId), EventTurn (.feedSwitch k) s t rest →
    t.pvw.unit.running = true → t.sin.services[k].selection = .onMain → t.sin.services[k].mainDown = 8 →
    backupPort t k = some p → t.sin.ports[p].state = .locked →
    let x := t.sin.services[k]
    exec (.feedSwitch k) s = .next (advance rest { t with
      sin := { t.sin with services := t.sin.services.set k { x with
        selection := .onBackup, counters.switches := bump x.counters.switches } }
      sup := supWith .feedSwitched t })) ∧
  (∀ (s t : State) (rest : List Act) (k : ServiceIx), EventTurn (.feedRevert k) s t rest → t.pvw.unit.running = true →
    t.sin.services[k].selection = .onBackup →
    (t.sin.services[k].mainUp = 125 ∨ (t.sin.services[k].backupDown = 8 ∧
      ∃ p, mainPort t k = some p ∧ t.sin.ports[p].state = .locked)) →
    let x := t.sin.services[k]
    exec (.feedRevert k) s = .next (advance rest { t with
      sin := { t.sin with services := t.sin.services.set k { x with
        selection := .onMain, counters.switches := bump x.counters.switches } }
      sup := supWith .feedSwitched t })) ∧
  (∀ (t : State) (p : PortId),
    let x := t.sin.ports[p]
    takeTurn (.portActivity p) t = (if t.pvw.unit.running = true ∧ x.state ≠ .disabled then { t with
      sin.ports := t.sin.ports.set p
        { x with idleCount := if x.active then 0 else min (x.idleCount + 1) 8, active := false } } else t)) ∧
  (∀ (t : State) (k : ServiceIx),
    let x := t.sin.services[k]
    let up (q : Option PortId) : Bool := q.any (fun p => decide (t.sin.ports[p].state = .locked))
    takeTurn (.feedCounts k) t = (if t.pvw.unit.running then { t with sin.services := t.sin.services.set k { x with
      mainDown := if up (mainPort t k) then 0 else min (x.mainDown + 1) 8
      mainUp := if up (mainPort t k) then min (x.mainUp + 1) 125 else 0
      backupDown := if up (backupPort t k) ∨ backupPort t k = none then 0 else min (x.backupDown + 1) 8 } } else t))

/-- The production notice at TXC and PIC, and TEXT_EXPIRY, PICTURE_LOAD_TIMEOUT, PICTURE_EXPIRY: the record leaves at
once, or after its turn. The model's choice in part: log 29. -/
def Obligations.ContentEventsOutcome : Prop :=
  (∀ (s t : State) (rest : List Act) (k : ServiceIx) (i : SlotIx), EventTurn (.textExpiry k i) s t rest →
    let c := t.txc.carousels[k]
    let x := c.slots[i]
    x.state = .active → x.lifetime ≠ 0 → x.remaining = 0 →
    (∀ n, c.current = some ⟨i, n⟩ → 1 ≤ n → exec (.textExpiry k i) s = .next (advance rest { t with
      txc.carousels := t.txc.carousels.set k { c with
        slots := c.slots.set i { x with state := .expiring }, counters.expiries := bump c.counters.expiries } })) ∧
    (c.current = some ⟨i, 0⟩ → exec (.textExpiry k i) s = .next (advance rest { t with
      txc.carousels := t.txc.carousels.set k { c with
        slots := c.slots.set i (.empty x.toggle), current := none
        counters.expiries := bump c.counters.expiries } })) ∧
    ((∀ n, c.current ≠ some ⟨i, n⟩) → exec (.textExpiry k i) s = .next (advance rest { t with
      txc.carousels := t.txc.carousels.set k { c with
        slots := c.slots.set i (.empty x.toggle), counters.expiries := bump c.counters.expiries } }))) ∧
  (∀ (s t : State) (rest : List Act) (k : ServiceIx) (o : ObjectId) (x : PicRecord),
    EventTurn (.pictureLoadTimeout k o) s t rest → findObject k o t = some x → x.state = .loading → x.idle = 250 →
    let c := t.pic.carousels[k]
    exec (.pictureLoadTimeout k o) s = .next (advance rest { t with
      pic := { t.pic with
        table := t.pic.table.filter (fun y => !(y.service = k && y.id = o))
        carousels := t.pic.carousels.set k { c with counters.loadTimeouts := bump c.counters.loadTimeouts } }
      sup := supWith .picLoadFail t })) ∧
  (∀ (s t : State) (rest : List Act) (k : ServiceIx) (o : ObjectId) (a b : List PicRecord) (x : PicRecord),
    EventTurn (.pictureExpiry k o) s t rest → t.pic.table = a ++ x :: b → x.service = k → x.id = o →
    (∀ y ∈ a, ¬(y.service = k ∧ y.id = o)) → x.lifetime ≠ 0 → x.remaining = 0 → x.expiring = false →
    let c := t.pic.carousels[k]
    (x.state = .ready → exec (.pictureExpiry k o) s = .next (advance rest { t with pic := { t.pic with
      table := t.pic.table.filter (fun y => !(y.service = k && y.id = o))
      carousels := t.pic.carousels.set k { c with counters := { c.counters with
        expiries := bump c.counters.expiries, retirements := bump c.counters.retirements } } } })) ∧
    (x.state = .onAir → exec (.pictureExpiry k o) s = .next (advance rest { t with pic := { t.pic with
      table := a ++ { x with expiring := true } :: b
      carousels := t.pic.carousels.set k { c with counters.expiries := bump c.counters.expiries } } }))) ∧
  (∀ (t : State) (k : ServiceIx),
    let c := t.txc.carousels[k]
    let none_ := noticeSide t k = 0
    let started := decide (∃ x, c.current = some x ∧ 0 < x.next)
    takeTurn (.textSide k) t = { t with txc.carousels := t.txc.carousels.set k { c with
      suspended := decide none_
      current := if none_ then c.current.map (fun x => { x with next := 0 }) else c.current
      slots := Vector.ofFn (fun i : Fin 8 =>
        if c.slots[i].state = .active ∧ c.slots[i].lifetime ≠ 0 then
          { c.slots[i] with remaining := c.slots[i].remaining - 1 } else c.slots[i])
      counters := { c.counters with
        restarts := if none_ ∧ started then bump c.counters.restarts else c.counters.restarts } } } ∧
    takeTurn (.textHold k) t = { t with txc.carousels := t.txc.carousels.set k { c with
      held := decide (0 < c.holdCount), holdCount := c.holdCount - 1, gap := min (c.gap + 1) 16 } }) ∧
  (∀ (t : State) (k : ServiceIx),
    let c := t.pic.carousels[k]
    let none_ := noticeSide t k = 0
    takeTurn (.pictureSide k) t = { t with pic := { t.pic with
      carousels := t.pic.carousels.set k { c with
        paused := decide none_
        counters := { c.counters with
          pauses := if none_ ∧ c.paused = false ∧ c.current.isSome then bump c.counters.pauses
            else c.counters.pauses } }
      table := t.pic.table.map (fun r =>
        if r.service = k ∧ r.state = .loading then { r with idle := min (r.idle + 1) 250 } else r) } } ∧
    takeTurn (.pictureLife k) t = { t with pic.table := t.pic.table.map (fun r =>
      if r.service = k ∧ r.state ≠ .loading ∧ r.lifetime ≠ 0 ∧ r.expiring = false then
        { r with remaining := r.remaining - 1 } else r) }) ∧
  (∀ (t : State) (k : ServiceIx) (n : FrameNo) (d : ServiceDef), t.ftu.now = some n → serviceDef t k = some d →
    let f := plus n (leadOf t)
    (∀ l e, layoutAt t.ple f = some l → l.entries.find? (fun y => y.id = d.id && y.owner = selfOf t) = some e →
      noticeSide t k = if e.placement = .unplaced then 0 else e.side) ∧
    ((∀ l, layoutAt t.ple f = some l → ∀ e ∈ l.entries, ¬(e.id = d.id ∧ e.owner = selfOf t)) → noticeSide t k = 0))

/-- ALERT_LINE_CHANGE: a LEVEL line's mark follows the line, an EDGE line's is set by an active edge. The model's
choice in part: log 39. -/
def Obligations.AlertLineOutcome : Prop :=
  (∀ (s r : State) (l : LineIx) (h : Bool) (i : Image), settle s = r → r.cfl.image = some i →
    r.pvw.unit.running = true → i.lines[l].enabled = true →
    let c := i.lines[l]
    let x := r.alc.sources.get (lineSource l)
    let on := decide (h = c.activeHigh)
    let marked (b : Bool) : State := { r with
      lines := r.lines.set l h
      alc := { r.alc with
        sources := r.alc.sources.set { x with raised := b, counters.lineEvents := bump x.counters.lineEvents } (lineSource l) } }
    (c.mode = .level → x.raised ≠ on → exec (.alertLineChange l h) s = .next (marked on)) ∧
    (c.mode = .level → x.raised = on → exec (.alertLineChange l h) s = .next { r with lines := r.lines.set l h }) ∧
    (c.mode = .edge → h = c.activeHigh → r.lines[l] ≠ c.activeHigh →
      exec (.alertLineChange l h) s = .next (marked true)) ∧
    (c.mode = .edge → (h ≠ c.activeHigh ∨ r.lines[l] = c.activeHigh) →
      exec (.alertLineChange l h) s = .next { r with lines := r.lines.set l h })) ∧
  (∀ (s r : State) (l : LineIx) (h : Bool), settle s = r →
    (r.pvw.unit.running = false ∨ (∃ i, r.cfl.image = some i ∧ i.lines[l].enabled = false)) →
    exec (.alertLineChange l h) s = .next { r with lines := r.lines.set l h })

/-- LOCAL_ALERT_ON, LOCAL_ALERT_IDLE, ALERT_RECORD_START, ALERT_RECORD_ENDED: what a frame reached does to alerts. -/
def Obligations.AlertRecordEventsOutcome : Prop :=
  (∀ (s t : State) (rest : List Act) (n f : FrameNo), EventTurn .localAlertOn s t rest →
    t.alc.localAlert.state = .announced → t.alc.localAlert.start = some f → t.ftu.now = some n → later f n = false →
    exec .localAlertOn s = .next (advance rest { t with alc.localAlert.state := .on })) ∧
  (∀ (s t : State) (rest : List Act) (n f : FrameNo), EventTurn .localAlertIdle s t rest →
    t.alc.localAlert.state = .ending → t.alc.localAlert.stop = some f → t.ftu.now = some n → later f n = false →
    let c := t.alc.sources
    exec .localAlertIdle s = .next (advance rest { t with alc := { t.alc with
      localAlert := ⟨.idle, none, none, none⟩, stopMark := false
      sources := ⟨{ c.al0 with carried := false }, { c.al1 with carried := false }, { c.feed with carried := false },
        { c.supv with carried := false }, { c.test with carried := false }⟩ } })) ∧
  (∀ (s t : State) (rest : List Act) (i : AlertId) (n : FrameNo) (a b : List AlertRecord) (x : AlertRecord),
    EventTurn (.alertRecordStart i) s t rest → t.pvw.unit.viewing = true → t.alc.table = a ++ x :: b →
    (∀ y ∈ a, y.id ≠ i) → x.id = i → x.state = .waiting → t.ftu.now = some n → later x.start n = false →
    exec (.alertRecordStart i) s = .next (advance rest { t with alc.table :=
      a ++ { x with state := if x.stop = none then .active else .ending } :: b })) ∧
  (∀ (s t : State) (rest : List Act) (i : AlertId) (n : FrameNo) (a b : List AlertRecord) (x : AlertRecord)
    (e : EndFrame), EventTurn (.alertRecordEnded i) s t rest → t.pvw.unit.viewing = true → t.alc.table = a ++ x :: b →
    (∀ y ∈ a, y.id ≠ i) → x.id = i → x.stop = some e → t.ftu.now = some n → later e.frame n = false →
    exec (.alertRecordEnded i) s = .next (advance rest { t with alc := { t.alc with
      table := t.alc.table.filter (fun y => y.id != i)
      counters := { t.alc.counters with ended := bump t.alc.counters.ended } } }))

/-- The own alert: originated from the winning source, escalated by an update, ended by stop, duration or sources, and
repeated. The model's choice in part: log 40. -/
def Obligations.OwnAlertPacketsOutcome : Prop :=
  (∀ (s t : State) (rest : List Act) (n f : FrameNo) (i : AlertId) (m : Image), EventTurn .alertDurationLimit s t rest →
    t.ftu.now = some n → t.cfl.image = some m → 1 ≤ m.durationLimit → t.alc.localAlert.state = .on →
    t.alc.localAlert.start = some f → t.alc.localAlert.id = some i → later (plus f (25 * m.durationLimit)) n = false →
    let e := plus n (leadOf t + 2)
    ∃ u, exec .alertDurationLimit s = .next (advance rest u) ∧
      u.alc.localAlert = ⟨.ending, some i, some f, some e⟩ ∧
      u.alc.sources.feed = { t.alc.sources.feed with raised := false } ∧
      u.alc.sources.supv = { t.alc.sources.supv with raised := false } ∧
      u.alc.sources.test = { t.alc.sources.test with raised := false } ∧
      (m.lines[0].mode = .edge → u.alc.sources.al0 = { t.alc.sources.al0 with raised := false }) ∧
      (m.lines[1].mode = .edge → u.alc.sources.al1 = { t.alc.sources.al1 with raised := false }) ∧
      u.alc.counters.endsByDuration = bump t.alc.counters.endsByDuration ∧ u.alc.repeatCount = 0 ∧
      (∀ (a b : List AlertRecord) (x : AlertRecord), t.alc.table = a ++ x :: b → (∀ y ∈ a, y.id ≠ i) → x.id = i →
        u.alc.table = a ++ { x with stop := some ⟨e, false⟩,
                                    state := if x.state = .active then .ending else x.state } :: b) ∧
      (t.pvw.unit.viewing = true → t.lkp.queue.length < 64 →
        u.lkp = servedLkp t { t.lkp with
          queue := t.lkp.queue ++ [⟨.alertEnd, 0, 0, [i.unit, i.serial] ++ be24 e⟩] } ∧ u.sup = t.sup) ∧
      u = { t with alc := u.alc, lkp := u.lkp, sup := u.sup, progress := { t.progress with alertSent := true } }) ∧
  (∀ (s t : State) (rest : List Act) (i : AlertId) (e : FrameNo), EventTurn .alertRepeat s t rest →
    t.progress.alertSent = false → t.alc.repeatCount = 4 → t.alc.localAlert.state = .ending →
    t.alc.localAlert.id = some i → t.alc.localAlert.stop = some e → t.pvw.unit.viewing = true →
    t.lkp.queue.length < 64 →
    exec .alertRepeat s = .next (advance rest { t with
      lkp := servedLkp t { t.lkp with queue := t.lkp.queue ++ [⟨.alertEnd, 0, 0, [i.unit, i.serial] ++ be24 e⟩] }
      alc := { t.alc with repeatCount := 0, counters.repeatsSent := bump t.alc.counters.repeatsSent } })) ∧
  (∀ (s t : State) (rest : List Act) (x : AlertRecord), EventTurn .alertRepeat s t rest →
    t.progress.alertSent = false → t.alc.repeatCount = 4 →
    (t.alc.localAlert.state = .announced ∨ t.alc.localAlert.state = .on) → ownRecord t = some x →
    t.pvw.unit.viewing = true → t.lkp.queue.length < 64 →
    exec .alertRepeat s = .next (advance rest { t with
      lkp := servedLkp t { t.lkp with queue := t.lkp.queue ++ [⟨.alert, 0, 0, alertBytes x⟩] }
      alc := { t.alc with repeatCount := 0, counters.repeatsSent := bump t.alc.counters.repeatsSent } })) ∧
  (∀ (t : State) (n : FrameNo) (i : AlertId), t.alc.localAlert.id = some i →
    let e := plus n (leadOf t + 2)
    ∃ u, endOwn n t = u ∧ u.alc.localAlert = { t.alc.localAlert with state := .ending, stop := some e } ∧
      u.alc.sources = t.alc.sources ∧ u.alc.repeatCount = 0 ∧
      (∀ (a b : List AlertRecord) (x : AlertRecord), t.alc.table = a ++ x :: b → (∀ y ∈ a, y.id ≠ i) → x.id = i →
        u.alc.table = a ++ { x with stop := some ⟨e, false⟩,
                                    state := if x.state = .active then .ending else x.state } :: b) ∧
      (t.pvw.unit.viewing = true → t.lkp.queue.length < 64 → u.alc.counters = t.alc.counters ∧ u.sup = t.sup ∧
        u.lkp = servedLkp t { t.lkp with
          queue := t.lkp.queue ++ [⟨.alertEnd, 0, 0, [i.unit, i.serial] ++ be24 e⟩] }) ∧
      u = { t with alc := u.alc, lkp := u.lkp, sup := u.sup, progress := { t.progress with alertSent := true } }) ∧
  (∀ (t : State) (n : FrameNo), t.ftu.now = some n →
    let live : Prop := t.alc.localAlert.state = .announced ∨ t.alc.localAlert.state = .on
    let carried : Prop := ∃ i : SourceId, (t.alc.sources.get i).carried = true ∧ (t.alc.sources.get i).raised = true
    (live → t.alc.stopMark = true → takeTurn .alertStopTest t = endOwn n
      { t with alc.counters.endsByStop := bump t.alc.counters.endsByStop }) ∧
    (¬live ∨ t.alc.stopMark = false → takeTurn .alertStopTest t = t) ∧
    (live → ¬carried → takeTurn .alertSourcesTest t = endOwn n
      { t with alc.counters.endsBySources := bump t.alc.counters.endsBySources }) ∧
    (¬live ∨ carried → takeTurn .alertSourcesTest t = t)) ∧
  (∀ (t : State) (n : FrameNo), t.ftu.now = some n →
    let idle : Prop := t.alc.localAlert.state = .idle ∧ t.pvw.unit = .onAir
    (¬idle ∨ pendingSources t = [] → takeTurn .originate t = t) ∧
    (∀ i v, idle → winner (pendingSources t) = some (i, v) →
      let x : AlertRecord := {
        id := ⟨BitVec.ofNat 8 (selfOf t).val, t.alc.serial⟩
        base := ⟨v.urgency, if v.mask = 0 then 0xFF else v.mask, decide (i = .test), v.text⟩
        audioRate := originationRate t, start := plus n (leadOf t + 2), update := none, stop := none
        receivedEnd := none, clamped := false, state := .waiting }
      (t.alc.table.length < 4 →
        ∃ u, takeTurn .originate t = u ∧ u.alc.table = t.alc.table ++ [x] ∧
          u.alc.localAlert = ⟨.announced, some x.id, some x.start, none⟩ ∧ u.alc.serial = t.alc.serial + 1 ∧
          u.alc.repeatCount = 0 ∧ u.alc.counters.originations = bump t.alc.counters.originations ∧
          (∀ j, u.alc.sources.get j =
            if j = i then { t.alc.sources.get j with carried := true } else t.alc.sources.get j) ∧
          (t.lkp.queue.length < 64 → u.sup = t.sup ∧
            u.lkp = servedLkp t { t.lkp with queue := t.lkp.queue ++ [⟨.alert, 0, 0, alertBytes x⟩] }) ∧
          u = { t with alc := u.alc, lkp := u.lkp, sup := u.sup, progress := { t.progress with alertSent := true } }) ∧
      (∀ w, 4 ≤ t.alc.table.length → worstRecord t.ftu.now t.alc.table = some w → ranksAbove t.ftu.now x w = true →
        ∃ u, takeTurn .originate t = u ∧ u.alc.table = t.alc.table.filter (fun y => y.id != w.id) ++ [x] ∧
          u.alc.localAlert = ⟨.announced, some x.id, some x.start, none⟩ ∧ u.alc.serial = t.alc.serial + 1 ∧
          u.alc.repeatCount = 0 ∧ u.alc.counters.originations = bump t.alc.counters.originations ∧
          u.alc.counters.evictions = bump t.alc.counters.evictions ∧
          u.alc.counters.endsByEviction = t.alc.counters.endsByEviction ∧
          flagSet .alertTableFull u = true ∧
          (∀ j, u.alc.sources.get j =
            if j = i then { t.alc.sources.get j with carried := true } else t.alc.sources.get j) ∧
          (t.lkp.queue.length < 64 → u.sup = supWith .alertTableFull t ∧
            u.lkp = servedLkp t { t.lkp with queue := t.lkp.queue ++ [⟨.alert, 0, 0, alertBytes x⟩] }) ∧
          u = { t with alc := u.alc, lkp := u.lkp, sup := u.sup, progress := { t.progress with alertSent := true } }) ∧
      (∀ w, 4 ≤ t.alc.table.length → worstRecord t.ftu.now t.alc.table = some w → ranksAbove t.ftu.now x w = false →
        takeTurn .originate t = { t with alc.counters.deferrals := bump t.alc.counters.deferrals }))) ∧
  (∀ (t : State) (n : FrameNo) (a b : List AlertRecord) (x : AlertRecord), t.ftu.now = some n →
    (t.alc.localAlert.state = .announced ∨ t.alc.localAlert.state = .on) → t.alc.localAlert.id = some x.id →
    t.alc.table = a ++ x :: b → (∀ y ∈ a, y.id ≠ x.id) →
    let v := valuesAt x n
    let raising := (pendingSources t).filter (fun y => y.2.urgency < v.urgency || (v.test && y.1 != .test))
    ((∃ w, x.update = some w ∧ later w.frame n = true) ∨ raising = [] → takeTurn .escalate t = t) ∧
    (∀ i y, (∀ w, x.update = some w → later w.frame n = false) → winner raising = some (i, y) →
      let test := decide (i = .test) && ([.al0, .al1, .feed, .supv] : List SourceId).all (fun j => !(t.alc.sources.get j).carried)
      let z : AlertRecord := { x with
        base := (x.update.map (·.values)).getD x.base
        update := some ⟨plus n (leadOf t + 2),
          ⟨min v.urgency y.urgency, allIfZero v.mask ||| allIfZero y.mask, test, y.text⟩⟩ }
      ∃ u, takeTurn .escalate t = u ∧ u.alc.table = a ++ z :: b ∧ u.alc.localAlert = t.alc.localAlert ∧
        u.alc.repeatCount = 0 ∧ u.alc.counters.escalations = bump t.alc.counters.escalations ∧
        u.alc.counters.updatesStored = bump t.alc.counters.updatesStored ∧
        (∀ j, u.alc.sources.get j =
          if j = i then { t.alc.sources.get j with carried := true } else t.alc.sources.get j) ∧
        (t.pvw.unit.viewing = true → t.lkp.queue.length < 64 → u.sup = t.sup ∧
          u.lkp = servedLkp t { t.lkp with queue := t.lkp.queue ++ [⟨.alert, 0, 0, alertBytes z⟩] }) ∧
        u = { t with alc := u.alc, lkp := u.lkp, sup := u.sup, progress := { t.progress with alertSent := true } })) ∧
  (∀ (t : State) (i : SourceId) (v : SourceValues), (i, v) ∈ pendingSources t ↔
    (t.alc.sources.get i).raised = true ∧ sourceEnabled t i = true ∧ sourceValues t i = some v) ∧
  (∀ (l : List (SourceId × SourceValues)) (x : SourceId × SourceValues), winner l = some x →
    ∃ a b, l = a ++ x :: b ∧ (∀ y ∈ a, x.2.urgency < y.2.urgency) ∧ (∀ y ∈ b, x.2.urgency ≤ y.2.urgency)) ∧
  (∀ (now : Option FrameNo) (x w : AlertRecord),
    let v := (valuesNow w now).urgency
    ranksAbove now x w = true ↔ x.base.urgency < v ∨ (x.base.urgency = v ∧ (later w.start x.start = true ∨
      (x.start = w.start ∧ (x.id.unit.toNat < w.id.unit.toNat ∨
        (x.id.unit = w.id.unit ∧ x.id.serial.toNat < w.id.serial.toNat)))))) ∧
  (∀ t : State, ((pendingSources t).map (·.1)).Sublist [.al0, .al1, .feed, .supv, .test]) ∧
  (∀ l : List (SourceId × SourceValues), winner l = none ↔ l = []) ∧
  (∀ (t : State) (m : Image), t.cfl.image = some m →
    (∀ p : PortId, m.roles[p] = .alert → (∀ q : PortId, m.roles[q] = .alert → q = p) →
      originationRate t = if t.sin.ports[p].state = .locked then m.alertAudioRate else 0) ∧
    ((∀ p : PortId, m.roles[p] ≠ .alert) → originationRate t = 0)) ∧
  (∀ t : State,
    (t.alc.localAlert.state ≠ .idle → t.progress.alertSent = false → t.alc.repeatCount ≠ 4 →
      takeTurn .alertRepeat t = { t with alc.repeatCount := min (t.alc.repeatCount + 1) 4 }) ∧
    (t.alc.localAlert.state = .idle ∨ t.progress.alertSent = true → takeTurn .alertRepeat t = t))

/-- REQUEST_RECEIVED: a queue of 4; bad checks and unknown codes are answered as they reach the head; a fifth is lost.
The model's choice in part: log 11, 12, 13. -/
def Obligations.RequestQueueOutcome : Prop :=
  (∀ (s r : State) (f : RequestFrame), settle s = r → r.sup.queue.length < 4 →
    let good := decide (f.check = crc16 ([f.tag, f.code] ++ be16 (BitVec.ofNat 16 f.body.length) ++ f.body))
    ∃ front back, r.sup.queue ++ [⟨f.tag, f.code, f.body, good⟩] = front ++ back ∧
      (∀ x ∈ front, x.checkGood = false ∨ requestOf x.code = none) ∧
      (∀ x, back.head? = some x → x.checkGood = true ∧ (requestOf x.code).isSome = true) ∧
      exec (.requestReceived f) s = .next { r with sup := { r.sup with
        queue := back
        answers := r.sup.answers ++ front.map (fun x =>
          let kind := if x.checkGood then AnswerKind.unknown else .badCheck
          ⟨x.tag, x.code, kind, .none, answerBytes x.tag x.code kind .none⟩) } }) ∧
  (∀ (s r : State) (f : RequestFrame), settle s = r → 4 ≤ r.sup.queue.length →
    exec (.requestReceived f) s = .next { r with sup := supWith .requestLost { r with sup.lost := bump r.sup.lost } }) ∧
  (∀ (q : Request) (k : AnswerKind) (d : AnswerData) (rs : List Request) (t : State),
    ∃ front back, rs = front ++ back ∧
      (∀ x ∈ front, x.checkGood = false ∨ requestOf x.code = none) ∧
      (∀ x, back.head? = some x → x.checkGood = true ∧ (requestOf x.code).isSome = true) ∧
      answered q k d rs t = { t with sup := { t.sup with
        inHand := none, queue := back
        answers := t.sup.answers ++ [⟨q.tag, q.code, k, d, answerBytes q.tag q.code k d⟩] ++ front.map (fun x =>
          let kind := if x.checkGood then AnswerKind.unknown else .badCheck
          ⟨x.tag, x.code, kind, .none, answerBytes x.tag x.code kind .none⟩) } }) ∧
  (∀ (tag code : Byte) (k : AnswerKind) (d : AnswerData),
    let data := dataBytes code d
    let kind : Byte := match k with | .done => 0 | .refusedState => 1 | .refusedArg => 2 | .unknown => 3 | .badCheck => 4
    let core := [tag, code, kind] ++ be16 (BitVec.ofNat 16 data.length) ++ data
    answerBytes tag code k d = [0x3C, 0xA5] ++ core ++ be16 (crc16 core)) ∧
  (∀ code : Byte, dataBytes code .none = [] ∧ (∀ v, dataBytes code (.flags v) = be24 v) ∧
    (∀ (cause : FaultCause) (field : Option Nat), dataBytes code (.fault cause field) =
      (match cause with | .none => 0 | .readFailed => 1 | .length => 2 | .check => 3 | .format => 4 | .range => 5
                        | .role => 6 | .identity => 7) ::
        (match field with | none => [0xFF, 0xFF] | some f => be16 (BitVec.ofNat 16 f))))

/-- A request the unit state does not take is answered REFUSED_STATE, one of the wrong length REFUSED_ARG, with no
other effect. The model's choice in part: log 11. -/
def Obligations.RequestRefusals : Prop :=
  (∀ (s r : State) (k : RequestKind) (q : Request) (rs : List Request), settle s = r → Asked k q rs r →
    (k.takenIn r.pvw.unit = false →
      exec (requestCommand k) s = .next (answered q .refusedState .none rs (inHand q rs r))) ∧
    (k.takenIn r.pvw.unit = true → k.lengthOk q.body.length = false →
      exec (requestCommand k) s = .next (answered q .refusedArg .none rs (inHand q rs r)))) ∧
  (∀ (s r : State) (k : RequestKind), settle s = r → (∀ q rs, ¬Asked k q rs r) →
    exec (requestCommand k) s = .next r) ∧
  (∀ k : RequestKind, k.takenIn .loading = false) ∧
  (∀ u : UnitState, RequestKind.loadConfig.takenIn u = true ↔ u = .halted) ∧
  (∀ k : RequestKind, k.takenIn .halted = true ↔ k ∈ ([.readStatus, .readCounters, .readView, .readLayout, .readAlerts,
    .readText, .readPictures, .clearFlags, .clearCounters, .loadConfig] : List RequestKind)) ∧
  (∀ (k : RequestKind) (u : UnitState), u ≠ .loading → u ≠ .halted → (k.takenIn u = false ↔
    k = .loadConfig ∨ ((k = .serviceOff ∨ k = .serviceOn) ∧ (u = .isolated ∨ u = .clash ∨ u = .offAir)) ∨
      (k = .rejoin ∧ u = .offAir)))

/-- The seven reading requests are answered DONE with the values as they stand, and change nothing else. The model's
choice in part: log 12, 13, 47, 52, 57, 58, 71, 76, 78. -/
def Obligations.ReadingRequestsOutcome : Prop :=
  (∀ (s r : State) (q : Request) (rs : List Request), settle s = r → Taken .readStatus q rs r →
    ∃ d, exec .readStatus s = .next (answered q .done (.status d) rs (inHand q rs r)) ∧ d.unit = r.pvw.unit ∧
      d.joinFrame = r.pvw.joinFrame ∧ d.ref = r.ftu.ref ∧ d.now = r.ftu.now ∧ d.holdover = r.ftu.holdover ∧
      d.receiver = r.lkp.receiver ∧ 
      d.queuedAlert = (r.lkp.queue.filter (fun x => x.kind.cls = .alert)).length ∧
      d.queuedClaim = (r.lkp.queue.filter (fun x => x.kind.cls = .claim)).length ∧
      d.queuedPresence = (r.lkp.queue.filter (fun x => x.kind.cls = .presence)).length ∧
      d.queuedContrib = (r.lkp.queue.filter (fun x => x.kind.cls = .contribution)).length ∧
      d.seq = r.lkp.seq ∧ d.peerAge = r.lkp.peerAge ∧ d.echoAge = r.lkp.echoAge ∧
      d.reading = r.cfl.reading ∧ d.cause = r.cfl.cause ∧ d.faultField = r.cfl.faultField ∧ d.lock = r.cfl.lock ∧
      d.flags = r.sup.flags ∧ d.attention = r.sup.attention ∧ d.alertProduction = r.cpr.alertLast ∧
      (∀ k : ServiceIx, d.lastProduction[k.val]? = (serviceDef r k).map (fun _ => r.cpr.last[k]) ∧
        let x := r.sin.services[k]
        d.services[k.val]? = (serviceDef r k).map (fun _ =>
          (x.selection, x.mainDown, x.mainUp, x.backupDown, x.queue.length))) ∧
      d.lastProduction.length = (configured r).length ∧ d.services.length = (configured r).length ∧
      (∀ p : PortId, d.ports[p.val]? =
        some (r.cfl.image.map (fun i => (i.roles[p], i.keys[p])), r.sin.ports[p].state)) ∧
      d.alertQueueFill = r.sin.alertQueue.length ∧
      d.held = r.cfl.image.map (fun i => (i.unitId, i.ensembleId, i.lead, i.services.length))) ∧
  (∀ (s r : State) (q : Request) (rs : List Request), settle s = r → Taken .readCounters q rs r →
    ∃ d, exec .readCounters s = .next (answered q .done (.counters d) rs (inHand q rs r)) ∧
      d.ftu = r.ftu.counters ∧ d.ofr = r.ofr.counters ∧ d.ple = r.ple.counters ∧ d.lkp = r.lkp.counters ∧
      d.pvw = r.pvw.counters ∧ d.asm = r.asm.counters ∧ d.alc = r.alc.counters ∧ d.lost = r.sup.lost ∧
      d.lifetime = r.sup.lifetime ∧ d.lowestFree = r.pic.lowestFree ∧
      (∀ u : UnitId, d.senders[u.val]? = some r.lkp.senders[u]) ∧
      d.text = (configured r).map (fun k => r.txc.carousels[k].counters) ∧
      d.pictures = (configured r).map (fun k => r.pic.carousels[k].counters) ∧
      d.cpr = (configured r).map (fun k => r.cpr.counters[k]) ∧
      d.intake = (configured r).map (fun k => r.sin.services[k].counters) ∧
      (∀ u : UnitId, d.slots[u.val]? = some r.pvw.slots[u].counters) ∧ d.cprAlert = r.cpr.alertCounters ∧
      (∀ p : PortId, d.ports[p.val]? = some r.sin.ports[p].counters) ∧ d.alertFeed = r.sin.alertCounters ∧
      d.sources = ([.al0, .al1, .feed, .supv, .test] : List SourceId).map (fun i => (r.alc.sources.get i).counters) ∧
      d.alertCells = (r.txc.alert.cells, r.txc.alert.replacements) ∧ d.rows = r.asm.rows ∧ d.otherRow = r.asm.otherRow ∧
      (∀ f id u, (f, id, u) ∈ d.filings ↔ ∃ (i : Fin 16) (l : Layout) (es : List StoreEntry) (e : StoreEntry),
        r.asm.slots[i] = .opened f l es ∧ e ∈ es ∧ e.service = id ∧
          (e.filing = .void u ∨ ∃ a b, e.filing = .filled u a b))) ∧
  (∀ (s r : State) (q : Request) (rs : List Request), settle s = r → Taken .readView q rs r →
    ∃ d, exec .readView s = .next (answered q .done (.view d) rs (inHand q rs r)) ∧ d.unit = r.pvw.unit ∧
      d.joinFrame = r.pvw.joinFrame ∧ d.ownClaim = r.pvw.ownClaim ∧ d.digests = r.pvw.digests ∧
      (∀ u : UnitId, d.slots[u.val]? = some r.pvw.slots[u] ∧ d.senders[u.val]? = some r.lkp.senders[u]) ∧
      (∀ k : ServiceIx, d.switches[k.val]? = (serviceDef r k).map (fun _ => r.pvw.switches[k])) ∧
      d.switches.length = (configured r).length) ∧
  (∀ (s r : State) (q : Request) (rs : List Request), settle s = r → Taken .readAlerts q rs r →
    ∃ d, exec .readAlerts s = .next (answered q .done (.alerts d) rs (inHand q rs r)) ∧
      d.localAlert = r.alc.localAlert ∧ d.stopMark = r.alc.stopMark ∧ d.table = r.alc.table ∧
      d.repeatCount = r.alc.repeatCount ∧ (∀ u : UnitId, d.removals[u.val]? = some r.alc.removals[u]) ∧
      d.announcedNotHeld = r.alc.counters.announcedNotHeld ∧
      (∀ l : LineIx, d.lines[l.val]? = some ((lineSettings r l).map (fun c =>
        (c.mode, c.activeHigh, decide (r.lines[l] = c.activeHigh))))) ∧
      d.sources.map (·.2) =
        ([.al0, .al1, .feed, .supv, .test] : List SourceId).map (fun i => (sourceValues r i, r.alc.sources.get i)) ∧
      (∀ i, r.cfl.image = some i → d.sources.map (·.1) =
        [some i.lines[0].enabled, some i.lines[1].enabled, some i.feedAlert, some true, some true]) ∧
      (r.cfl.image = none → d.sources.map (·.1) = [none, none, none, some true, some true]) ∧
      d.governing = r.ftu.now.bind (fun n => (governingRecord r.alc.table n).map (·.id))) ∧
  (∀ (s r : State) (q : Request) (rs : List Request), settle s = r → Taken .readLayout q rs r →
    let m := frameAt q.body 0
    (∀ (h f : FrameNo) (l : Layout) (a b : List (FrameNo × Layout)), r.ple.last = some h → later m h = false →
      (∀ x, r.ple.chain.head? = some x → later x.1 m = false) →
      r.ple.chain = a ++ (f, l) :: b → later f m = false → (∀ x ∈ b, later x.1 m = true) →
      exec .readLayout s = .next (answered q .done (.layout f l) rs (inHand q rs r))) ∧
    ((r.ple.last = none ∨ (∃ h, r.ple.last = some h ∧ later m h = true) ∨
        ∀ x, r.ple.chain.head? = some x → later x.1 m = true) →
      exec .readLayout s = .next (answered q .refusedArg .none rs (inHand q rs r)))) ∧
  (∀ (s r : State) (q : Request) (rs : List Request), settle s = r → Taken .readText q rs r →
    (∀ k, serviceIx r (half q.body 0) = some k → exec .readText s =
      .next (answered q .done (.text r.txc.carousels[k]) rs (inHand q rs r))) ∧
    (serviceIx r (half q.body 0) = none → r.cfl.image.isSome = true →
      half q.body 0 = BitVec.ofNat 16 (0xFF00 + (selfOf r).val) → exec .readText s =
        .next (answered q .done (.alertText r.txc.alert) rs (inHand q rs r))) ∧
    (serviceIx r (half q.body 0) = none →
      (r.cfl.image = none ∨ half q.body 0 ≠ BitVec.ofNat 16 (0xFF00 + (selfOf r).val)) → exec .readText s =
        .next (answered q .refusedArg .none rs (inHand q rs r)))) ∧
  (∀ (s r : State) (q : Request) (rs : List Request), settle s = r → Taken .readPictures q rs r →
    (∀ k, serviceIx r (half q.body 0) = some k → ∃ d, exec .readPictures s =
        .next (answered q .done (.pictures d) rs (inHand q rs r)) ∧ d.carousel = r.pic.carousels[k] ∧
      d.records = r.pic.table.filter (fun x => x.service = k) ∧ d.freePages = (freePages r.pic.table).length ∧
      d.freeRecords = 32 - r.pic.table.length) ∧
    (serviceIx r (half q.body 0) = none → exec .readPictures s =
      .next (answered q .refusedArg .none rs (inHand q rs r)))) ∧
  (∀ (code : Byte) (d : AnswerData), (d ≠ .none ∧ (∀ v, d ≠ .flags v) ∧ ∀ c f, d ≠ .fault c f) →
    dataBytes code d = ((itemsOf d).zipIdx 1).flatMap (fun x =>
      let n := BitVec.ofNat 16 x.2
      be16 n ++ be16 (BitVec.ofNat 16 (x.1 code n).length) ++ x.1 code n)) ∧
  (∀ (code : Byte) (n : BitVec 16), (∀ v, counterItem v code n = be32 (BitVec.ofNat 32 v)) ∧
    (∀ f, frameItem f code n = be24 f) ∧ (∀ f, flagsItem f code n = be24 f) ∧
    (∀ α (g : α → Item), optionItem g none code n = []) ∧ (∀ α (g : α → Item) v, optionItem g (some v) = g v)) ∧
  (∀ d : StatusData, ∃ a b, itemsOf (.status d) = [openItem d.unit, optionItem frameItem d.joinFrame, openItem d.ref,
      optionItem frameItem d.now] ++ a ++ [bytesItem [d.cause.code], bytesItem (faultFieldBytes d.faultField)] ++ b ∧
    b.drop 6 = [flagsItem d.flags, openItem d.attention]) ∧
  (∀ d : StatusData, ∃ a b, itemsOf (.status d) = a ++
    d.services.flatMap (fun x => [openItem x.1, openItem x.2.1, openItem x.2.2.1, openItem x.2.2.2.1]) ++
    d.services.map (fun x => openItem x.2.2.2.2) ++ b ∧ a.length = 14 + d.lastProduction.length + 3 * d.ports.length ∧
    b.head? = some (openItem d.alertQueueFill)) ∧
  (∀ x : TextSlot,
    (x.state = .empty → textSlotItems x = [openItem x.state, absentItem, absentItem, absentItem, absentItem,
      openItem x.toggle, absentItem, openItem x.inList, absentItem]) ∧
    (x.state ≠ .empty → textSlotItems x = [openItem x.state, openItem x.weight, openItem x.hold, openItem x.lifetime,
      openItem x.remaining, openItem x.toggle, openItem x.key, openItem x.inList, textItem x.text])) ∧
  (∀ d : CountersData, ∃ a b, itemsOf (.counters d) =
    a ++ (d.slots.flatMap (·.list) ++ d.pvw.list).map counterItem ++ b ∧ a.length = 28 + 4 * d.senders.length)

/-- CLEAR_FLAGS clears the flags named and answers the set as it stood; CLEAR_COUNTERS clears the ordinary counters.
-/
def Obligations.ClearRequestsOutcome : Prop :=
  (∀ (s r : State) (q : Request) (rs : List Request), settle s = r → Taken .clearFlags q rs r →
    let x := inHand q rs r
    let kept := r.sup.flags &&& ~~~(frameAt q.body 0)
    exec .clearFlags s = .next (answered q .done (.flags r.sup.flags) rs
      { x with sup := { x.sup with flags := kept, attention := decide (kept &&& maskInForce r ≠ 0) } })) ∧
  (∀ (s r : State) (q : Request) (rs : List Request), settle s = r → Taken .clearCounters q rs r →
    ∃ t, exec .clearCounters s = .next (answered q .done .none rs t) ∧
      t.ftu = { r.ftu with counters := ⟨0, 0, 0, 0, 0⟩ } ∧ t.ofr = { r.ofr with counters := ⟨0, 0, 0⟩ } ∧
      t.ple = { r.ple with counters := ⟨0, 0, 0, 0⟩ } ∧
      t.lkp = { r.lkp with counters := .zero, senders := t.lkp.senders } ∧
      (∀ u : UnitId, t.lkp.senders[u] = ⟨r.lkp.senders[u].last, 0, 0, 0, 0, 0⟩) ∧
      t.pvw = { r.pvw with counters := .zero, slots := t.pvw.slots } ∧
      (∀ u : UnitId, t.pvw.slots[u] = { r.pvw.slots[u] with counters := ⟨0, 0, 0, 0, 0, 0, 0⟩ }) ∧
      t.cpr.last = r.cpr.last ∧ t.cpr.alertLast = r.cpr.alertLast ∧
      t.cpr.alertCounters = ⟨0, 0⟩ ∧ (∀ k : ServiceIx, t.cpr.counters[k] = ⟨0, 0⟩) ∧
      t.asm = { r.asm with counters := .zero, rows := [], otherRow := ⟨0, 0, 0, 0⟩ } ∧
      (∀ p : PortId, t.sin.ports[p] = { r.sin.ports[p] with counters := .zero }) ∧
      (∀ k : ServiceIx, t.sin.services[k] = { r.sin.services[k] with counters := ⟨0, 0, 0, 0⟩ }) ∧
      t.sin.alertQueue = r.sin.alertQueue ∧ t.sin.alertCounters = ⟨0, 0, 0, 0⟩ ∧
      (∀ k : ServiceIx, t.txc.carousels[k] = { r.txc.carousels[k] with counters := .zero }) ∧
      t.txc.alert = { r.txc.alert with cells := 0, replacements := 0 } ∧
      (∀ k : ServiceIx, t.pic.carousels[k] = { r.pic.carousels[k] with counters := .zero }) ∧
      t.pic.table = r.pic.table ∧ t.pic.memory = r.pic.memory ∧
      t.pic.lowestFree = (freePages r.pic.table).length ∧
      t.alc = { r.alc with counters := .zero, sources := t.alc.sources } ∧
      (∀ i : SourceId, t.alc.sources.get i = { r.alc.sources.get i with counters := ⟨0, 0, 0⟩ }) ∧
      t.sup.flags = r.sup.flags ∧ t.sup.attention = r.sup.attention ∧ t.sup.lost = 0 ∧
      t.sup.lifetime = r.sup.lifetime ∧ t.sup.answers = r.sup.answers ∧ t.cfl = r.cfl ∧ t.lines = r.lines)

/-- SERVICE_OFF and SERVICE_ON: the switch changes, and a unit in JOINING or ON_AIR issues a claim without or with the
service. -/
def Obligations.ServiceSwitchOutcome : Prop :=
  ∀ (s r : State) (on : Bool) (q : Request) (rs : List Request), settle s = r →
    Taken (if on then .serviceOn else .serviceOff) q rs r →
    let c : Instr := if on then .serviceOn else .serviceOff
    let x := inHand q rs r
    (serviceIx r (half q.body 0) = none → exec c s = .next (answered q .refusedArg .none rs x)) ∧
    (∀ k, serviceIx r (half q.body 0) = some k → r.pvw.switches[k] = on →
      exec c s = .next (answered q .done .none rs x)) ∧
    (∀ k, serviceIx r (half q.body 0) = some k → r.pvw.switches[k] ≠ on →
      let t : State := { x with pvw.switches := r.pvw.switches.set k on }
      (r.pvw.unit = .listen → exec c s = .next (answered q .done .none rs t)) ∧
      (∀ n, (r.pvw.unit = .joining ∨ r.pvw.unit = .onAir) → r.ftu.now = some n →
        let claim : FramedClaim := ⟨r.pvw.version + 1, plus n (2 * leadOf r + 2), claimEntries t⟩
        ∃ u, exec c s = .next (answered q .done .none rs u) ∧
          u.pvw = { r.pvw with
            switches := r.pvw.switches.set k on, version := r.pvw.version + 1, ownClaim := some claim, claimCount := 0
            slots := r.pvw.slots.set (selfOf r) { r.pvw.slots[selfOf r] with
              waiting := some claim
              state := if r.pvw.slots[selfOf r].state = .absent then .heard else r.pvw.slots[selfOf r].state }
            counters := { r.pvw.counters with claimsIssued := bump r.pvw.counters.claimsIssued } } ∧
          u = { x with pvw := u.pvw, lkp := u.lkp, sup := u.sup, progress := { r.progress with claimSent := true } } ∧
          (r.lkp.queue.length < 64 → u.sup = x.sup ∧
            u.lkp = servedLkp r { r.lkp with queue := r.lkp.queue ++ [claimPacket claim] })))

/-- ALERT_START, ALERT_TEST, ALERT_STOP: SUPV or TEST takes values and its mark; a stop clears marks and, of a live
alert, sets the stop mark. -/
def Obligations.AlertRequestsOutcome : Prop :=
  (∀ (s r : State) (q : Request) (rs : List Request), settle s = r → Taken .alertStart q rs r →
    let x := inHand q rs r
    let text := q.body.drop 2
    let u := (byteAt q.body 0).toNat
    let c := r.alc.sources.supv
    (1 ≤ text.length → text.length ≤ 128 → exec .alertStart s = .next (answered q .done .none rs
      { x with alc.sources.supv := { c with
        values := some ⟨max 1 (min u 3), byteAt q.body 1, text⟩, raised := true
        counters.clamps := if 1 ≤ u ∧ u ≤ 3 then c.counters.clamps else bump c.counters.clamps } })) ∧
    ((text.length = 0 ∨ 128 < text.length) → exec .alertStart s = .next (answered q .refusedArg .none rs x))) ∧
  (∀ (s r : State) (q : Request) (rs : List Request), settle s = r → Taken .alertTest q rs r →
    let x := inHand q rs r
    let text := q.body.drop 1
    (1 ≤ text.length → text.length ≤ 128 → exec .alertTest s = .next (answered q .done .none rs
      { x with alc.sources.test := { r.alc.sources.test with
        values := some ⟨3, byteAt q.body 0, text⟩, raised := true } })) ∧
    ((text.length = 0 ∨ 128 < text.length) → exec .alertTest s = .next (answered q .refusedArg .none rs x))) ∧
  (∀ (s r : State) (q : Request) (rs : List Request) (i : Image), settle s = r → Taken .alertStop q rs r →
    r.cfl.image = some i →
    let x := inHand q rs r
    let after (l : LineIx) (c : Source) : Source :=
      let on := i.lines[l].enabled && decide (r.lines[l] = i.lines[l].activeHigh)
      if i.lines[l].mode = .edge then { c with raised := false }
      else if c.raised = on then c
      else { c with raised := on, counters.lineEvents := bump c.counters.lineEvents }
    exec .alertStop s = .next (answered q .done .none rs { x with alc := { x.alc with
      stopMark := r.alc.stopMark || decide (r.alc.localAlert.state = .announced ∨ r.alc.localAlert.state = .on)
      sources := ⟨after 0 r.alc.sources.al0, after 1 r.alc.sources.al1, { r.alc.sources.feed with raised := false },
        { r.alc.sources.supv with raised := false }, { r.alc.sources.test with raised := false }⟩ } }))

/-- TEXT_FLUSH and PICTURE_FLUSH empty one service's carousel and leave every other alone. -/
def Obligations.FlushRequestsOutcome : Prop :=
  (∀ (s r : State) (q : Request) (rs : List Request), settle s = r → Taken .textFlush q rs r →
    let x := inHand q rs r
    (serviceIx r (half q.body 0) = none → exec .textFlush s = .next (answered q .refusedArg .none rs x)) ∧
    (∀ k, serviceIx r (half q.body 0) = some k →
      let c := r.txc.carousels[k]
      ∃ d, exec .textFlush s = .next (answered q .done .none rs
          { x with txc.carousels := r.txc.carousels.set k d }) ∧
        (∀ i : SlotIx, d.slots[i] = .empty c.slots[i].toggle) ∧
        d = { c with
          slots := d.slots, cycle := [], position := none, current := none
          counters := { c.counters with
            flushes := bump c.counters.flushes
            abandonments := if c.current = none then c.counters.abandonments else bump c.counters.abandonments } })) ∧
  (∀ (s r : State) (q : Request) (rs : List Request), settle s = r → Taken .pictureFlush q rs r →
    let x := inHand q rs r
    (serviceIx r (half q.body 0) = none → exec .pictureFlush s = .next (answered q .refusedArg .none rs x)) ∧
    (∀ k, serviceIx r (half q.body 0) = some k →
      let c := r.pic.carousels[k]
      exec .pictureFlush s = .next (answered q .done .none rs { x with pic := { r.pic with
        table := r.pic.table.filter (fun y => y.service != k)
        carousels := r.pic.carousels.set k { c with
          current := none, last := none
          counters := { c.counters with
            flushes := bump c.counters.flushes
            cuts := if r.pic.table.any (fun y => y.service = k && y.state = .onAir) then bump c.counters.cuts
                    else c.counters.cuts } } } })))

/-- REJOIN enters LISTEN and clears nothing of SUP; SOFT_RESET also empties the content, and clears the flags and
ordinary counters. The model's choice in part: log 8, 24, 74. -/
def Obligations.ResetRequestsOutcome : Prop :=
  (∀ (s r : State) (q : Request) (rs : List Request), settle s = r → Taken .rejoin q rs r →
    let t := enterListen (inHand q rs r)
    exec .rejoin s = .next (answered q .done .none rs
      { t with sup.lifetime.rejoins := bump r.sup.lifetime.rejoins })) ∧
  (∀ (s r : State) (q : Request) (rs : List Request), settle s = r → Taken .softReset q rs r →
    ∃ t, exec .softReset s = .next (answered q .done .none rs t) ∧ t.pvw.unit = .listen ∧
      (∀ u : UnitId, t.pvw.slots[u] = .absent .zero) ∧ (∀ k : ServiceIx, t.pvw.switches[k] = true) ∧
      t.pvw.ownClaim = none ∧ t.pvw.digests = [] ∧ t.pvw.version = r.pvw.version ∧ t.pvw.counters = .zero ∧
      t.ftu = { r.ftu with counters := ⟨0, 0, 0, 0, 0⟩ } ∧ t.ple = ⟨[], none, ⟨0, 0, 0, 0⟩⟩ ∧
      (∃ body, byteAt body 0 = 1 ∧ t.lkp = { servedLkp t { r.lkp with queue := [⟨.presence, 0, 0, body⟩] } with
        counters := .zero, senders := t.lkp.senders }) ∧
      (∀ u : UnitId, t.lkp.senders[u] = ⟨r.lkp.senders[u].last, 0, 0, 0, 0, 0⟩) ∧
      (∀ k : ServiceIx, t.cpr.last[k] = none ∧ t.cpr.counters[k] = ⟨0, 0⟩) ∧ t.cpr.alertLast = none ∧
      t.cpr.alertCounters = ⟨0, 0⟩ ∧ t.asm.counters = .zero ∧ t.asm.otherRow = ⟨0, 0, 0, 0⟩ ∧
      t.sin.alertCounters = ⟨0, 0, 0, 0⟩ ∧
      (∀ (i : Image) (l : LineIx), r.cfl.image = some i → t.alc.sources.get (lineSource l) =
        { r.alc.sources.get (lineSource l) with
          raised := decide (i.lines[l].mode = .level) && i.lines[l].enabled && decide (r.lines[l] = i.lines[l].activeHigh)
          carried := false, counters := ⟨0, 0, 0⟩ }) ∧
      (∀ p : PortId, t.sin.ports[p] = { r.sin.ports[p] with counters := .zero }) ∧
      (∀ k : ServiceIx, t.sin.services[k] = { r.sin.services[k] with queue := [], counters := ⟨0, 0, 0, 0⟩ }) ∧
      t.sin.alertQueue = [] ∧ t.txc = State.reset.txc ∧ t.pic = State.reset.pic ∧
      (∀ i : Fin 16, t.asm.slots[i] = .free) ∧ t.asm.hold = [] ∧ t.asm.rows = [] ∧
      t.alc.table = [] ∧ t.alc.localAlert = .idle ∧ t.alc.serial = r.alc.serial ∧ t.alc.counters = .zero ∧
      t.alc.sources.feed = ⟨false, false, none, ⟨0, 0, 0⟩⟩ ∧ t.alc.sources.supv = ⟨false, false, none, ⟨0, 0, 0⟩⟩ ∧
      t.alc.sources.test = ⟨false, false, none, ⟨0, 0, 0⟩⟩ ∧
      t.sup.flags = 0 ∧ t.sup.attention = false ∧ t.sup.lost = 0 ∧ t.sup.answers = r.sup.answers ∧
      t.sup.lifetime = { r.sup.lifetime with softResets := bump r.sup.lifetime.softResets } ∧
      t.cfl = r.cfl ∧ t.lines = r.lines ∧ t.ofr.counters = ⟨0, 0, 0⟩ ∧
      (streamingValid r = true → t.ofr.outputValid = false))

/-- LOAD_CONFIG in HALTED: a good image takes the unit to LISTEN; a bad one is refused with cause and field and leaves
it HALTED. The model's choice in part: log 14, 45, 46, 61. -/
def Obligations.LoadConfigOutcome : Prop :=
  ∀ (s r : State) (q : Request) (rs : List Request), settle s = r → Taken .loadConfig q rs r →
    let x := inHand q rs r
    (∀ i, checkBody r.cfl.lock q.body = .good i → ∃ t, exec .loadConfig s = .next (answered q .done .none rs t) ∧
      t.pvw.unit = .listen ∧
      t.cfl = { r.cfl with image := some i, reading := false, cause := .none, faultField := none,
                           lock := r.cfl.lock.or (some (i.unitId, i.ensembleId)) } ∧
      (∀ p : PortId, t.sin.ports[p].state = if i.roles[p] = .unused then .disabled else .hunt) ∧
      (∀ k : ServiceIx, t.sin.services[k].selection = .onMain ∧ t.sin.services[k].queue = []) ∧
      t.sup.lifetime = { r.sup.lifetime with imagesAccepted := bump r.sup.lifetime.imagesAccepted } ∧
      t.ftu = r.ftu ∧ t.txc = r.txc ∧ t.pic = r.pic ∧ t.pending = s.pending) ∧
    (q.body.length < 296 ∨ 4096 < q.body.length ∨ beNat (slice q.body 0 2) ≠ q.body.length →
      checkBody r.cfl.lock q.body = .bad .length none) ∧
    (∀ cause field, checkBody r.cfl.lock q.body = .bad cause field → exec .loadConfig s =
      .next (answered q .refusedArg (.fault cause field) rs { x with
        pvw := { x.pvw with unit := .halted }
        cfl := { x.cfl with image := none, reading := false, cause := cause, faultField := field }
        sup := { x.sup with flags := x.sup.flags ||| 1#24, attention := true,
                            lifetime := countRefused cause x.sup.lifetime } }))

/-- Frame numbers wrap, a frame is not later than itself, at most one of two is later, and the second count's wrap
runs on. -/
def Obligations.FrameNumberRelation : Prop :=
  (∀ a b : FrameNo, later a b = true ↔ 1 ≤ (a - b).toNat ∧ (a - b).toNat ≤ 8388607) ∧
  (16777215 : FrameNo) + 1 = 0 ∧ (∀ a : FrameNo, later a a = false) ∧
  (∀ a b : FrameNo, ¬(later a b = true ∧ later b a = true)) ∧
  (∀ a b : FrameNo, a ≠ b → ((later a b = false ∧ later b a = false) ↔ a = b + 8388608)) ∧
  (∀ (n a : FrameNo) (lead : Nat), 3 ≤ lead → lead ≤ 12 →
    ((later a (plus n lead) = true ∧ later a n = true) ↔
      ∃ j, 1 ≤ j ∧ j ≤ 8388607 - lead ∧ a = plus n (lead + j))) ∧
  (∀ c : Candidate, c.second = 4294967295 → c.pulses = 25 → consistent 0 (some c) = true) ∧
  refFrame 0 = 0 ∧ refFrame 4294967295 + 25 = refFrame 0

/-- The block count is the payload expanded by the class and divided into blocks of 24 bytes, each division rounded
up. -/
def Obligations.BlockCountOfRates : Prop :=
  (∀ a s p n d : Nat, (p, n, d) ∈ ([(1, 2, 1), (2, 8, 5), (3, 4, 3), (4, 8, 7)] : List (Nat × Nat × Nat)) →
    let pay := 5 * (a + s)
    let k := blockCount a s p
    (∃ b, pay * n ≤ b * d ∧ b * d < pay * n + d ∧ b ≤ 24 * k ∧ 24 * k < b + 24 ∧ pay ≤ b) ∧
    pay * n ≤ 24 * d * k ∧ 24 * d * k < pay * n + 24 * d ∧
    (8 ≤ a → a ≤ 384 → s ≤ 64 → 40 ≤ pay ∧ pay ≤ 2240 ∧ 2 ≤ k ∧ k ≤ 187)) ∧
  blockCount 8 0 4 = 2 ∧ 45 * 7 < 5 * (8 + 0) * 8 ∧ 5 * (8 + 0) * 8 ≤ 46 * 7 ∧
  blockCount 384 64 1 = 187 ∧ 5 * (384 + 64) * 2 = 4480

/-- Entries are ranked by priority, then service id, whatever their owners and the order they came in. -/
def Obligations.RankOrder : Prop :=
  (∀ es : List (UnitId × ClaimEntry), (rank es).Perm es ∧
    ((es.map (·.2.id)).Nodup → (rank es).Pairwise (fun a b => a.2.priority < b.2.priority ∨
      (a.2.priority = b.2.priority ∧ a.2.id.toNat < b.2.id.toNat)))) ∧
  (∀ es es' : List (UnitId × ClaimEntry), es.Perm es' → (es.map (·.2.id)).Nodup → rank es = rank es') ∧
  (∀ (g : UnitId → UnitId) (es : List (UnitId × ClaimEntry)),
    rank (es.map (fun e => (g e.1, e.2))) = (rank es).map (fun e => (g e.1, e.2))) ∧
  (∀ (self : UnitId) (claims : List (UnitId × ClaimEntry)) (gov : Option AlertSummary),
    let kept := keepFirst [] (claims.filter (fun e => 1 ≤ e.2.id.toNat && e.2.id.toNat ≤ 0xFEFF))
    (kept.map (·.2.id)).Nodup ∧
    ((computeLayout self claims gov).layout.entries.drop (if gov.isSome then 1 else 0)).map (fun x => (x.owner, x.id)) =
      (rank kept).map (fun e => (e.1, e.2.id)) ∧
    (∀ g, gov = some g → ((computeLayout self claims gov).layout.entries.head?).map (·.id) =
      some (BitVec.ofNat 16 (0xFF00 + g.id.unit.toNat))) ∧
    (let first := (gov.map (fun g => blockCount g.audioRate 8 1)).getD 0
     (computeLayout self claims gov).layout.entries.drop (if gov.isSome then 1 else 0) = (placeAll gov first (rank kept)).1)) ∧
  (∀ (ensemble : BitVec 16) (n : FrameNo) (l : Layout) (f : LayoutEntry → SealFlag) (i : Nat) (e : LayoutEntry),
    l.entries[i]? = some e → i < 41 →
    half (frameDirectory ensemble n l (l.entries.map (fun x => (x, f x)))) (35 + 8 * i) = e.id)

/-- Entry by entry in rank order, the ladder grants what fits in the blocks left; ranges are contiguous and never pass
500. -/
def Obligations.PlacedRanges : Prop :=
  (∀ (gov : Option AlertSummary) (before after : List (UnitId × ClaimEntry)) (o : UnitId) (c : ClaimEntry) (b : Nat),
    b ≤ 500 →
    let all := placeAll gov b (before ++ (o, c) :: after)
    let done := placeAll gov b before
    let room := 500 - done.2
    let follow := decide (∃ g, gov = some g ∧ g.test = false ∧ allIfZero c.regions &&& allIfZero g.mask ≠ 0)
    let s := if follow then 0 else c.sideRate
    let fits (side cls : Nat) : Prop := blockCount c.audioRate side cls ≤ room
    let placed (x : Placement) (side cls : Nat) (e : LayoutEntry) : Prop :=
      e.placement = x ∧ e.side = side ∧ e.cls = cls ∧ e.start = done.2 ∧ e.count = blockCount c.audioRate side cls
    done.1.length = before.length ∧ done.2 = b + (done.1.map (·.count)).sum ∧ done.2 ≤ 500 ∧
    all.2 = b + (all.1.map (·.count)).sum ∧ all.2 ≤ 500 ∧
    ∃ e rest, all.1 = done.1 ++ e :: rest ∧ rest = (placeAll gov (done.2 + e.count) after).1 ∧
      e.owner = o ∧ e.id = c.id ∧ e.label = c.label ∧ e.audioRate = c.audioRate ∧ e.claimedSide = c.sideRate ∧
      e.claimedClass = c.protClass ∧ e.regions = c.regions ∧ e.clamped = c.clamped ∧ e.follow = follow ∧
      (fits s c.protClass → placed .normal s c.protClass e) ∧
      (¬fits s c.protClass → 0 < s → fits 0 c.protClass → placed .shed 0 c.protClass e) ∧
      (∀ p, ¬fits s c.protClass → ¬(0 < s ∧ fits 0 c.protClass) → c.protClass < p → p ≤ 4 → fits 0 p →
        (∀ d, c.protClass < d → d < p → ¬fits 0 d) → placed .lowered 0 p e) ∧
      (¬fits s c.protClass → ¬(0 < s ∧ fits 0 c.protClass) → (∀ p, c.protClass < p → p ≤ 4 → ¬fits 0 p) →
        e.placement = .unplaced ∧ e.side = 0 ∧ e.cls = c.protClass ∧ e.start = 0 ∧ e.count = 0)) ∧
  (∀ (self : UnitId) (claims : List (UnitId × ClaimEntry)) (gov : Option AlertSummary),
    (∀ g, gov = some g → g.audioRate ≤ 192) →
    let l := (computeLayout self claims gov).layout
    l.endBlock = (l.entries.map (·.count)).sum ∧ l.endBlock ≤ 500 ∧
    (∀ (before after : List LayoutEntry) (e : LayoutEntry), l.entries = before ++ e :: after →
      e.placement ≠ .unplaced → e.start = (before.map (·.count)).sum))

/-- At a boundary OFR streams frame now when the unit is ON_AIR or ISOLATED, the idle directory otherwise. The model's
choice in part: log 9. -/
def Obligations.FrameStartOutput : Prop :=
  (∀ (r : State) (n : FrameNo), r.ftu.now = some n → (r.pvw.unit = .onAir ∨ r.pvw.unit = .isolated) →
    ∃ bs, startFrame r = { r with
        ofr := {
          outputValid := true, frame := some ⟨some n, true, bs, none⟩
          counters := { r.ofr.counters with valid := bump r.ofr.counters.valid } }
        pvw := { r.pvw with digests := (r.pvw.digests ++ [(n, half bs 5)]).drop (r.pvw.digests.length - 15) } } ∧
      (∀ dir pays, r.asm.slots[slotOf n] = .sealed n dir pays → bs = dir ++ pays.flatten) ∧
      ((∀ dir pays, r.asm.slots[slotOf n] ≠ .sealed n dir pays) → bs = emptyDirectory (ensembleOf r) n)) ∧
  (∀ r : State, (r.ftu.now = none ∨ (r.pvw.unit ≠ .onAir ∧ r.pvw.unit ≠ .isolated)) →
    ∃ bs, startFrame r = { r with ofr := {
        outputValid := false, frame := some ⟨r.ftu.now, false, bs, none⟩
        counters := { r.ofr.counters with idle := bump r.ofr.counters.idle } } } ∧
      bs.length = 384 ∧ bs.take 2 = be16 (ensembleOf r) ∧ slice bs 2 3 = be24 (r.ftu.now.getD 0) ∧
      byteAt bs 11 = 1 ∧ (∀ j, 5 ≤ j → j ≤ 381 → j ≠ 11 → byteAt bs j = 0) ∧ half bs 382 = crc16 (bs.take 382)) ∧
  (∀ (t : State) (rest : List Act), takeTurn .startFrame t = startFrame t ∧
    advance (.startFrame :: rest) t = advance rest (startFrame t))

/-- The seal's audio and side parts; a side part's size; the turns of texts and pictures and the alert carousel's
cells. -/
def Obligations.PayloadSizes : Prop :=
  (∀ (h : List HoldRecord) (e : StoreEntry),
    let x := sealEntry h e
    let g := holdOf h e.service
    (∀ a, filedAudio e.filing = some a → e.audioRate ≠ 0 →
      x.audio = a ∧ x.flag = .clear ∧ x.record = { g with lastGood := some a, count := 0 }) ∧
    (∀ a, filedAudio e.filing = none → e.audioRate ≠ 0 → g.lastGood = some a → a.length = 5 * e.audioRate → g.count < 2 →
      x.audio = a ∧ x.flag = .impaired ∧ x.record = { g with count := g.count + 1 }) ∧
    (filedAudio e.filing = none → e.audioRate ≠ 0 →
      (g.lastGood = none ∨ 2 ≤ g.count ∨ ∃ a, g.lastGood = some a ∧ a.length ≠ 5 * e.audioRate) →
      x.audio = List.replicate (5 * e.audioRate) 0 ∧ x.flag = .muted ∧ x.record = { g with count := 2 }) ∧
    (e.audioRate = 0 → x.audio = [] ∧ x.flag = .clear ∧ x.record = g) ∧
    (∀ c, filedSide e.filing = some c → x.side = c ∧ x.filled = false) ∧
    (filedSide e.filing = none → x.side = List.replicate (20 * (e.side / 4)) 0 ∧ x.filled = decide (4 ≤ e.side)) ∧
    ((∀ a, filedAudio e.filing = some a → a.length = 5 * e.audioRate) → x.audio.length = 5 * e.audioRate) ∧
    ((∀ c, filedSide e.filing = some c → c.length = 5 * e.side) → e.side % 4 = 0 → x.side.length = 5 * e.side)) ∧
  (∀ (k : ServiceIx) (cadence c : Nat) (s : State), (fillSide k cadence c s).2.length = 20 * c) ∧
  (∀ (k : ServiceIx) (cadence : Nat) (s : State), fillSide k cadence 0 s = (s, [])) ∧
  (∀ (k : ServiceIx) (m : Nat) (closed : List ObjectId) (s : State),
    (requestPictures k m closed s).2.length ≤ m ∧ ∀ x ∈ (requestPictures k m closed s).2, x.length = 20) ∧
  (∀ (slot : Nat) (toggle : Bool) (text : List Byte) (i : Nat), (textCell slot toggle text i).length = 20) ∧
  (∀ (cadence : Nat) (c : Carousel),
    ((c.held = true ∨ c.gap < cadence) → requestText cadence c = (c, none)) ∧
    (∀ t, c.held = false → cadence ≤ c.gap → c.current = some t →
      let x := c.slots[t.slot]
      let last : Prop := (x.text.length + 15) / 16 ≤ t.next + 1
      ∃ d, requestText cadence c = (d, some (textCell t.slot.val x.toggle x.text t.next)) ∧
        (¬last → d = { c with
          gap := 0, current := some ⟨t.slot, t.next + 1⟩, counters.cells := bump c.counters.cells }) ∧
        (last → d = { c with
          gap := 0, current := none, holdCount := x.hold
          slots := if x.state = .expiring then c.slots.set t.slot (.empty x.toggle) else c.slots
          counters := { c.counters with
            cells := bump c.counters.cells, completions := bump c.counters.completions } })) ∧
    (c.held = false → cadence ≤ c.gap → c.current = none →
      let open_ (i : SlotIx) : Prop := c.slots[i].state = .active ∧ c.slots[i].inList = true
      let start := match c.position with | none => 0 | some j => j + 1
      let rebuilt : Carousel := { c with
        position := none
        cycle := [1, 2, 3, 4].flatMap (fun w => ([0, 1, 2, 3, 4, 5, 6, 7] : List SlotIx).filter (fun i =>
          c.slots[i].state = .active && w ≤ c.slots[i].weight))
        slots := Vector.ofFn (fun i : Fin 8 =>
          if c.slots[i].state = .active then { c.slots[i] with inList := true } else c.slots[i]) }
      (∀ a b i, c.cycle.drop start = a ++ i :: b → (∀ j ∈ a, ¬open_ j) → open_ i →
        requestText cadence c =
          requestText cadence { c with position := some (start + a.length), current := some ⟨i, 0⟩ }) ∧
      ((∀ j ∈ c.cycle.drop start, ¬open_ j) → requestText cadence c = requestText cadence rebuilt ∧
        ((∀ i : SlotIx, c.slots[i].state ≠ .active) → requestText cadence c = (rebuilt, none))))) ∧
  (∀ (k : ServiceIx) (closed : List ObjectId) (s : State),
    let ready (y : PicRecord) : Prop := y ∈ s.pic.table ∧ y.service = k ∧ y.state = .ready ∧ y.id ∉ closed
    let before (a b : Nat × ObjectId) : Prop := a.1 < b.1 ∨ (a.1 = b.1 ∧ a.2.toNat < b.2.toNat)
    (selectNext k closed s = none ↔ ∀ y, ¬ready y) ∧
    (∀ x, selectNext k closed s = some x → ready x ∧
      (∀ y, ready y → before (y.order, y.id) (x.order, x.id) →
        ∃ l, s.pic.carousels[k].last = some l ∧ before l (x.order, x.id) ∧ ¬before l (y.order, y.id)) ∧
      (∀ l y, s.pic.carousels[k].last = some l → ¬before l (x.order, x.id) → ready y → ¬before l (y.order, y.id)))) ∧
  (∀ (k : ServiceIx) (s : State) (a b : List PicRecord) (x : PicRecord), s.pic.table = a ++ x :: b → x.service = k →
    (∀ y ∈ a, ¬(y.service = k ∧ y.id = x.id)) →
    let c := s.pic.carousels[k]
    let cells := bump c.counters.cells
    (c.current = some x.id → x.pointer < (x.size + 15) / 16 → requestPictures k 1 [] s =
      ({ s with pic := { s.pic with
          table := a ++ { x with pointer := x.pointer + 1 } :: b
          carousels := s.pic.carousels.set k { c with counters.cells := cells } } },
        [dataCell s.pic.memory x x.pointer])) ∧
    (c.current = some x.id → (x.size + 15) / 16 ≤ x.pointer →
      let turns := min (x.done + 1) 255
      let spent : Prop := (x.repeats ≠ 0 ∧ turns = x.repeats) ∨ x.expiring = true
      let ended : PicCounters := { c.counters with cells := cells, completions := bump c.counters.completions }
      (¬spent → requestPictures k 1 [] s =
        ({ s with pic := { s.pic with
            table := a ++ { x with state := .ready, pointer := 0, done := turns } :: b
            carousels := s.pic.carousels.set k { c with current := none, counters := ended } } }, [closingCell x])) ∧
      (spent → requestPictures k 1 [] s =
        ({ s with pic := { s.pic with
            table := (a ++ x :: b).filter (fun y => !(y.service = k && y.id = x.id))
            carousels := s.pic.carousels.set k { c with
              current := none, counters := { ended with retirements := bump c.counters.retirements } } } },
          [closingCell x]))) ∧
    (c.current = none → selectNext k [] s = some x → 0 < x.size → requestPictures k 1 [] s =
      ({ s with pic := { s.pic with
          table := a ++ { x with state := .onAir, pointer := 1 } :: b
          carousels := s.pic.carousels.set k { c with
            current := some x.id, last := some (x.order, x.id), counters.cells := cells } } },
        [dataCell s.pic.memory x 0]))) ∧
  (∀ (m : List Host.Cell) (x : PicRecord) (i j : Nat), j < 16 → byteAt (dataCell m x i) (4 + j) =
    if 16 * i + j < x.size then
      memRead m (x.pages.getD ((16 * i + j) / 512) 0 * 512 + (16 * i + j) % 512) else 0) ∧
  (∀ a : AlertCarousel, requestAlert none a = ({ a with message := none }, [])) ∧
  (∀ (x : AlertMessage) (a : AlertCarousel),
    let same := decide (a.message = some x)
    let toggle := if same then a.toggle else !a.toggle
    let first := if same then a.pointer else 0
    let next (i : Nat) : Nat := if (x.text.length + 15) / 16 ≤ i + 1 then 0 else i + 1
    requestAlert (some x) a =
      ({ message := some x, toggle := toggle, pointer := next (next first), cells := bump (bump a.cells)
         replacements := if same then a.replacements else bump a.replacements },
        [textCell 0 toggle x.text first, textCell 0 toggle x.text (next first)]))

/-- At a numbered boundary: the slot freed, the layout, the chain pruned, the seal, and the contributions produced,
handed in and filed. The model's choice in part: log 35. -/
def Obligations.LayoutAndProductionStep : Prop :=
  (∀ (r : State) (n : FrameNo),
    let f := plus n (leadOf r)
    let c := computeLayout (selfOf r) (claimSet r.pvw.slots f) (governing r.alc.table f)
    let fresh : Prop := (r.pvw.unit = .joining ∨ r.pvw.unit = .onAir ∨ r.pvw.unit = .isolated) ∧
      ∀ h, r.ple.last = some h → later f h = true
    (¬fresh → computeStep n r = r) ∧
    (fresh → r.asm.slots[slotOf f] = .free → ∃ p, computeStep n r = { r with
        ple := p
        asm := { r.asm with slots := r.asm.slots.set (slotOf f) (.opened f c.layout
          ((c.layout.entries.filter (fun e => e.placement != .unplaced)).map (fun e =>
            ⟨e.id, e.owner, e.audioRate, e.side, .empty⟩))) }
        sup := if c.ownParty then supWith .duplicateId r else r.sup } ∧
      p.last = some f ∧ p.counters.computed = bump r.ple.counters.computed ∧
      (∀ x, r.ple.chain.getLast? = some x → x.2.summary = c.layout.summary → x.2.entries = c.layout.entries →
        p.chain = r.ple.chain ∧ p.counters.changes = r.ple.counters.changes) ∧
      (r.ple.chain = [] ∨ (∃ x, r.ple.chain.getLast? = some x ∧
          (x.2.summary ≠ c.layout.summary ∨ x.2.entries ≠ c.layout.entries)) →
        p.chain = r.ple.chain ++ [(f, c.layout)] ∧ p.counters.changes = bump r.ple.counters.changes))) ∧
  (∀ (k : ServiceIx) (n : FrameNo) (e : LayoutEntry) (r : State),
    let x := r.sin.services[k]
    let t := produceService k n e r
    (∀ f, r.cpr.last[k] = some f → later n f = false → t = r) ∧
    ((∀ f, r.cpr.last[k] = some f → later n f = true) →
      t.cpr = { r.cpr with
        last := r.cpr.last.set k (some n)
        counters := r.cpr.counters.set k {
          produced := bump r.cpr.counters[k].produced
          underruns := if x.queue = [] then bump r.cpr.counters[k].underruns else r.cpr.counters[k].underruns } } ∧
      t.sin = { r.sin with services := r.sin.services.set k { x with queue := x.queue.drop 1 } } ∧
      (x.queue = [] → flagSet .underrun t = true) ∧ t.pvw = r.pvw ∧ t.ftu = r.ftu ∧ t.ofr = r.ofr ∧ t.ple = r.ple ∧
      t.alc = r.alc ∧ t.cfl = r.cfl)) ∧
  (∀ (slots : Vector PeerSlot 8) (n : FrameNo),
    (∀ (u : UnitId) (e : ClaimEntry), (u, e) ∈ claimSet slots n ↔
      slots[u].state ≠ .absent ∧ (∀ f, slots[u].removal = some f → later f n = true) ∧
      ((∃ c, slots[u].waiting = some c ∧ later c.frame n = false ∧ e ∈ c.entries) ∨
        ((∀ c, slots[u].waiting = some c → later c.frame n = true) ∧
          ∃ c, slots[u].inForce = some c ∧ e ∈ c.entries))) ∧
    ((claimSet slots n).map (·.1)).Pairwise (· ≤ ·)) ∧
  (∀ (t : List AlertRecord) (n : FrameNo),
    let open_ (y : AlertRecord) : Prop := later y.start n = false ∧ ∀ e, y.stop = some e → later e.frame n = true
    (governing t n = none ↔ ∀ y ∈ t, ¬open_ y) ∧
    (∀ g, governing t n = some g → ∃ x, governingRecord t n = some x ∧
      g = ⟨x.id, (valuesAt x n).urgency, (valuesAt x n).mask, (valuesAt x n).test, x.audioRate⟩) ∧
    (∀ x, governingRecord t n = some x → x ∈ t ∧ open_ x ∧
      ∀ base : FrameNo, (∀ y ∈ t, (y.start - base).toNat < 8388608) → ∀ y ∈ t, open_ y →
        let v := valuesAt x n
        let w := valuesAt y n
        (v.test = true → w.test = true) ∧ (v.test = w.test → v.urgency ≤ w.urgency ∧
          (v.urgency = w.urgency → later x.start y.start = false ∧
            (x.start = y.start → x.id.unit.toNat < y.id.unit.toNat ∨
              (x.id.unit = y.id.unit ∧ x.id.serial.toNat ≤ y.id.serial.toNat)))))) ∧
  (∀ (n : FrameNo) (r : State) (l : Layout) (es : List StoreEntry), r.asm.slots[slotOf n] = .opened n l es →
    let xs := es.map (sealEntry r.asm.hold)
    let t := sealFrame n r
    ∃ dir, t.asm.slots = r.asm.slots.set (slotOf n) (.sealed n dir (xs.map (fun x => x.audio ++ x.side))) ∧
      t.asm.hold = xs.map (·.record) ∧ t.asm.counters.sealed = bump r.asm.counters.sealed ∧
      t.asm.counters.impaired = (if ∃ x ∈ xs, x.flag ≠ .clear then bump r.asm.counters.impaired
        else r.asm.counters.impaired) ∧
      t = { r with asm := t.asm } ∧ dir.length = 384 ∧
      dir.take 7 = be16 (ensembleOf r) ++ be24 n ++ be16 l.digest ∧ byteAt dir 11 = 0 ∧
      slice dir 12 7 = alertBlock l.summary ∧ half dir 382 = crc16 (dir.take 382) ∧
      (∀ i e, i < 41 → l.entries[i]? = some e → slice dir (35 + 8 * i) 8 = entryBytes e
        (if e.placement = .unplaced then .clear
          else ((xs.find? (fun x => x.record.service = e.id)).map (·.flag)).getD .clear)) ∧
      (∀ i, i < 41 → l.entries.length ≤ i → slice dir (35 + 8 * i) 8 = List.replicate 8 0)) ∧
  (∀ (n : FrameNo) (r : State), (∀ l es, r.asm.slots[slotOf n] ≠ .opened n l es) →
    sealFrame n r = { r with asm := { r.asm with
      slots := r.asm.slots.set (slotOf n) (.sealed n (emptyDirectory (ensembleOf r) n) []), hold := []
      counters := { r.asm.counters with
        sealed := bump r.asm.counters.sealed, empty := bump r.asm.counters.empty
        ignoredByState := bumpBy r.asm.counters.ignoredByState (waitingArrivals r.asm.slots[slotOf n]) } } }) ∧
  (∀ (t : State) (n : FrameNo), t.ftu.now = some n →
    takeTurn .computeLayout t = computeStep n t ∧
    takeTurn .produce t = produce (plus n (leadOf t)) t ∧
    takeTurn .sealFrame t = (if t.pvw.unit.computing then sealFrame (plus n 1) t else t) ∧
    ((t.asm.slots[slotOf (n - 1)] = .free ∨
        (∃ m l, m ≠ n - 1 ∧ t.asm.slots[slotOf (n - 1)] = .waiting m l) ∨
        (∃ m l es, m ≠ n - 1 ∧ t.asm.slots[slotOf (n - 1)] = .opened m l es) ∨
        (∃ m d ps, m ≠ n - 1 ∧ t.asm.slots[slotOf (n - 1)] = .sealed m d ps) → takeTurn .freeSlot t = t) ∧
      (∀ l, t.asm.slots[slotOf (n - 1)] = .waiting (n - 1) l → takeTurn .freeSlot t = { t with asm := { t.asm with
        slots := t.asm.slots.set (slotOf (n - 1)) .free
        counters := { t.asm.counters with ignoredByState := bumpBy t.asm.counters.ignoredByState l.length } } }) ∧
      ((∃ l es, t.asm.slots[slotOf (n - 1)] = .opened (n - 1) l es) ∨
        (∃ d ps, t.asm.slots[slotOf (n - 1)] = .sealed (n - 1) d ps) →
        takeTurn .freeSlot t = { t with asm.slots := t.asm.slots.set (slotOf (n - 1)) .free })) ∧
    (∃ gone kept, t.ple.chain = gone ++ kept ∧ takeTurn .pruneChain t = { t with ple.chain := kept } ∧
      (∀ x y l, kept = x :: y :: l → later y.1 n = true) ∧
      (t.ple.chain ≠ [] → kept ≠ []) ∧
      (∀ a x b, gone = a ++ x :: b → ∃ y l, b ++ kept = y :: l ∧ later y.1 n = false))) ∧
  (∀ (r : State) (n : FrameNo) (as : List Arrival),
    let f := plus n (leadOf r)
    r.ftu.now = some n → 3 ≤ leadOf r → leadOf r ≤ 12 → r.pvw.unit.computing = true →
    (∀ h, r.ple.last = some h → later f h = true) → r.asm.slots[slotOf f] = .waiting f as →
    (∀ a ∈ as, a.frame = f) →
    computeStep n r = as.foldl (fun t a => arrive a t)
      (computeStep n { r with asm.slots := r.asm.slots.set (slotOf f) .free })) ∧
  (∀ (n : FrameNo) (t : State),
    ((layoutAt t.ple n = none ∨ t.ple.last ≠ some n) → produce n t = t) ∧
    (∀ l, layoutAt t.ple n = some l → t.ple.last = some n → produce n t =
      (l.entries.filter (fun e => e.placement != .unplaced && e.owner = selfOf t)).foldl (produceEntry n) t) ∧
    (∀ e : LayoutEntry,
      (e.id = BitVec.ofNat 16 (0xFF00 + (selfOf t).val) → produceEntry n t e = produceAlert n e t) ∧
      (e.id ≠ BitVec.ofNat 16 (0xFF00 + (selfOf t).val) →
        (∀ k, serviceIx t e.id = some k → produceEntry n t e = produceService k n e t) ∧
        (serviceIx t e.id = none → produceEntry n t e = t)))) ∧
  (∀ (k : ServiceIx) (n : FrameNo) (e : LayoutEntry) (r : State),
    (∀ f, r.cpr.last[k] = some f → later n f = true) →
    let x := r.sin.services[k]
    let c := r.cpr.counters[k]
    let silent := decide (x.queue = [])
    let taken : State := { r with
      sin := { r.sin with services := r.sin.services.set k { x with queue := x.queue.drop 1 } }
      cpr := { r.cpr with
        last := r.cpr.last.set k (some n)
        counters := r.cpr.counters.set k ⟨bump c.produced, if silent then bump c.underruns else c.underruns⟩ }
      sup := if silent then supWith .underrun r else r.sup }
    let side := fillSide k (((serviceDef r k).map (·.cadence)).getD 1) (e.side / 4) taken
    let made : Contribution := ⟨silent, false, x.queue.headD (List.replicate (5 * e.audioRate) 0) ++ side.2⟩
    produceService k n e r = arrive ⟨selfOf r, n, e.id, some made⟩
      (handIn ⟨.contrib, n, e.id, contribBytes made⟩ side.1).1) ∧
  (∀ (k : ServiceIx) (cadence c : Nat) (s : State), 0 < c →
    let text := requestText cadence s.txc.carousels[k]
    let given := text.2.toList
    let pics := requestPictures k (c - given.length) [] { s with txc.carousels := s.txc.carousels.set k text.1 }
    fillSide k cadence c s = (pics.1, (given ++ pics.2 ++
      List.replicate (c - given.length - pics.2.length) (List.replicate 20 0)).flatten)) ∧
  (∀ (n : FrameNo) (e : LayoutEntry) (r : State),
    (∀ f, r.cpr.alertLast = some f → later n f = false → produceAlert n e r = r) ∧
    ((∀ f, r.cpr.alertLast = some f → later n f = true) →
      let q := r.sin.alertQueue
      let silent := decide (e.audioRate ≠ 0 ∧ q = [])
      let cells := requestAlert (suppliedAlert n r) r.txc.alert
      let c := r.cpr.alertCounters
      let taken : State := { r with
        sin := { r.sin with alertQueue := if e.audioRate = 0 then q else q.drop 1 }
        txc := { r.txc with alert := cells.1 }
        cpr := { r.cpr with
          alertLast := some n
          alertCounters := ⟨bump c.produced, if silent then bump c.underruns else c.underruns⟩ }
        sup := if silent then supWith .underrun r else r.sup }
      let audio := if e.audioRate = 0 then [] else q.headD (List.replicate (5 * e.audioRate) 0)
      let made : Contribution := ⟨silent, decide (cells.2 = []),
        audio ++ (cells.2 ++ List.replicate (2 - cells.2.length) (List.replicate 20 0)).flatten⟩
      produceAlert n e r = arrive ⟨selfOf r, n, e.id, some made⟩
        (handIn ⟨.contrib, n, e.id, contribBytes made⟩ taken).1) ∧
    (suppliedAlert n r = (governingRecord r.alc.table n).bind (fun x =>
      if x.id.unit.toNat = (selfOf r).val then some ⟨x.id, (valuesAt x n).text⟩ else none))) ∧
  (∀ (r : State) (n : FrameNo) (a : Arrival) (c : Contribution) (l : Layout) (before after : List StoreEntry)
    (y : StoreEntry), r.ftu.now = some n → 3 ≤ leadOf r → leadOf r ≤ 12 → r.pvw.unit.computing = true →
    a.frame = plus n (leadOf r) → a.content = some c →
    r.asm.slots[slotOf a.frame] = .opened a.frame l (before ++ y :: after) → y.service = a.service →
    y.owner = a.sender → (∀ x ∈ before, x.service ≠ a.service ∨ x.owner ≠ a.sender) →
    (y.filing = .empty → c.payload.length = 5 * (y.audioRate + y.side) → arrive a r = { r with
      asm.slots := r.asm.slots.set (slotOf a.frame) (.opened a.frame l (before ++ { y with
        filing := .filled a.sender ⟨!c.audioVoid, c.payload.take (5 * y.audioRate)⟩
          ⟨!c.sideVoid, c.payload.drop (5 * y.audioRate)⟩ } :: after)) }) ∧
    (y.filing ≠ .empty → arrive a r = { r with asm.counters := { r.asm.counters with
      duplicate := bump r.asm.counters.duplicate } }))
end

