-- ==== Sys2Proof/Laws/Runs.lean ====
section
/-! SUPPORT. The running of a boundary's actions and of a receiver's turns: the inductions, packaged once. -/

namespace Sys2Proof.Machine

/-- An action's turn: its event or its part is taken, or it passes. -/
theorem takeTurn_cases (a : Act) (s : State) :
    (due a s = true ∧ takeTurn a s = fire a s) ∨ (due a s = false ∧ takeTurn a s = pass a s) := by
  unfold takeTurn
  cases due a s <;> simp

/-- What every turn keeps, a run of turns keeps. -/
theorem runAll_keeps {P : State → Prop} (h : ∀ a s, P s → P (takeTurn a s)) :
    ∀ as s, P s → P (runAll as s) := by
  intro as
  induction as with
  | nil => intro s hs; exact hs
  | cons a as ih => intro s hs; exact ih _ (h a s hs)

/-- What every turn and every change of the agenda keep, the way to the next event that is due keeps. -/
theorem advance_keeps {P : State → Prop} (h : ∀ a s, P s → P (takeTurn a s))
    (ha : ∀ s as, P s → P { s with progress.agenda := as }) : ∀ as s, P s → P (advance as s) := by
  intro as
  induction as with
  | nil => intro s hs; exact hs
  | cons a as ih =>
    intro s hs
    unfold advance
    split
    · exact ha _ _ hs
    · exact ih _ (h a s hs)

theorem settle_keeps {P : State → Prop} (h : ∀ a s, P s → P (takeTurn a s))
    (ha : ∀ s as, P s → P { s with progress.agenda := as }) {s : State} (hs : P s) : P (settle s) :=
  runAll_keeps h _ _ (ha s [] hs)

theorem runEvent_keeps {P : State → Prop} (h : ∀ a s, P s → P (takeTurn a s))
    (ha : ∀ s as, P s → P { s with progress.agenda := as }) (a : Act) {s : State} (hs : P s) : P (runEvent a s) := by
  unfold runEvent
  split
  · exact advance_keeps h ha _ _ (h _ _ (runAll_keeps h _ _ (ha s [] hs)))
  · exact hs

/-- With no boundary in progress there is nothing to settle. -/
theorem settle_of_empty {s : State} (h : s.progress.agenda = []) : settle s = s := by
  unfold settle
  rw [h]
  show { s with progress.agenda := [] } = s
  rw [← h]

/-- The turns of two lists follow one another. -/
theorem runAll_append (as bs : List Act) (s : State) : runAll (as ++ bs) s = runAll bs (runAll as s) := by
  induction as generalizing s with
  | nil => rfl
  | cons a as ih => exact ih _

/-! ### The turns of a receiver -/

/-- What holds across every turn holds across a run of turns. -/
theorem runTurns_keeps {turn : List Byte → State → Turn} {R : State → State → Prop} (hr : ∀ s, R s s)
    (ht : ∀ {s t u}, R s t → R t u → R s u) (h : ∀ bs s, R s (turn bs s).state) :
    ∀ n bs s, R s (runTurns turn n bs s) := by
  intro n
  induction n with
  | zero => exact fun _ => hr
  | succ n ih =>
    intro bs s
    unfold runTurns
    split
    · exact h bs s
    · exact ht (h bs s) (ih _ _)

/-- Where every turn that goes on brings a measure down, any two bounds above the measure give the same run. -/
theorem runTurns_bound {turn : List Byte → State → Turn} {μ : List Byte → State → Nat}
    (h : ∀ bs s l, (turn bs s).rest = some l → μ l (turn bs s).state < μ bs s) :
    ∀ n m bs s, μ bs s < n → μ bs s < m → runTurns turn n bs s = runTurns turn m bs s := by
  intro n
  induction n with
  | zero => exact fun m bs s hn => absurd hn (Nat.not_lt_zero _)
  | succ n ih =>
    intro m bs s hn hm
    obtain _ | m := m
    · exact absurd hm (Nat.not_lt_zero _)
    unfold runTurns
    split
    · rfl
    · rename_i l hl
      have := h bs s l hl
      exact ih m l _ (by omega) (by omega)

end Sys2Proof.Machine
end

