-- ==== Sys2Proof/Laws/Events.lean ====
section
/-! SUPPORT. The events of a boundary: when each is due and what it is, and how a command of an event runs; what the
hand-ins and the cut of a frame can change. A proof about an event cites these and unfolds no dispatch. -/

namespace Sys2Proof.Machine

/-! ### Counters -/

@[simp] theorem bumpBy_zero (n : Nat) : bumpBy n 0 = n := by
  unfold bumpBy
  omega

@[simp] theorem bumpBy_bit (n : Nat) (b : Bool) : bumpBy n (bit b 1) = if b then bump n else n := by
  cases b <;> simp [bit, bump]

/-! ### An event's command -/

/-- An event that is part of the boundary in progress: its turn is taken in the state that the actions before it leave,
and the boundary goes on (log 1). -/
theorem runEvent_turn {a : Act} {s t : State} {rest : List Act} (h : EventTurn a s t rest) :
    runEvent a s = advance rest (takeTurn a t) := by
  obtain ⟨b, h1, h2, rfl⟩ := h
  have hc : s.progress.agenda.contains a = true := by simp [h1]
  have hb : ∀ x ∈ b, (x != a) = true := by
    intro x hx
    simp only [bne_iff_ne, ne_eq]
    rintro rfl
    exact h2 hx
  have ht : s.progress.agenda.takeWhile (· != a) = b := by
    rw [h1, List.takeWhile_append_of_pos hb]
    simp
  have hd : s.progress.agenda.dropWhile (· != a) = a :: rest := by
    rw [h1, List.dropWhile_append_of_pos hb]
    simp
  unfold runEvent
  rw [if_pos hc, ht, hd]
  rfl

/-- An event that is due, at its turn. -/
theorem runEvent_due {a : Act} {s t : State} {rest : List Act} (h : EventTurn a s t rest) (hd : due a t = true) :
    runEvent a s = advance rest (fire a t) := by
  rw [runEvent_turn h, takeTurn, if_pos hd]

/-! ### When each event is due -/

@[simp] theorem due_frameJump (s : State) : due .frameJump s = true := rfl
@[simp] theorem due_holdoverExpired (s : State) : due .holdoverExpired s = true := rfl
@[simp] theorem due_readFailed (s : State) : due .readFailed s = (s.cfl.reading && s.cfl.readAge == 25) := rfl
@[simp] theorem due_feedLost (p : PortId) (s : State) : due (.feedLost p) s = lossDue s p := rfl
@[simp] theorem due_feedSwitch (k : ServiceIx) (s : State) : due (.feedSwitch k) s = switchDue s k := rfl
@[simp] theorem due_feedRevert (k : ServiceIx) (s : State) : due (.feedRevert k) s = revertDue s k := rfl
@[simp] theorem due_slotRemoval (u : UnitId) (s : State) : due (.slotRemoval u) s =
    (tableRuns s.pvw.unit && u != selfOf s && s.pvw.slots[u].removal.any (nowReaches s)) := rfl
@[simp] theorem due_claimInForce (u : UnitId) (s : State) : due (.claimInForce u) s =
    (tableRuns s.pvw.unit && s.pvw.slots[u].waiting.any (fun c => nowReaches s c.frame)) := rfl
@[simp] theorem due_peerSilent (u : UnitId) (s : State) : due (.peerSilent u) s =
    ((s.pvw.unit = .listen || joined s.pvw.unit) && u != selfOf s &&
      s.ftu.now.any (fun n => silenceDue n s.pvw.slots[u])) := rfl
@[simp] theorem due_enterJoining (s : State) : due .enterJoining s =
    (s.pvw.unit = .listen && s.pvw.listenCount == 32 && s.ftu.now.isSome) := rfl
@[simp] theorem due_enterOnAir (s : State) : due .enterOnAir s =
    (s.pvw.unit = .joining && s.pvw.joinFrame.isSome && s.pvw.joinFrame == s.ftu.now) := rfl
@[simp] theorem due_enterIsolated (s : State) : due .enterIsolated s = (joined s.pvw.unit && s.lkp.echoAge == 25) := rfl
@[simp] theorem due_textExpiry (k : ServiceIx) (i : SlotIx) (s : State) : due (.textExpiry k i) s =
    (textExpired s.txc.carousels[k].slots[i]) := rfl
@[simp] theorem due_pictureLoadTimeout (k : ServiceIx) (o : ObjectId) (s : State) : due (.pictureLoadTimeout k o) s =
    ((findObject k o s).any loadTimedOut) := rfl
@[simp] theorem due_pictureExpiry (k : ServiceIx) (o : ObjectId) (s : State) : due (.pictureExpiry k o) s =
    ((findObject k o s).any pictureExpired) := rfl
@[simp] theorem due_presenceSend (s : State) : due .presenceSend s =
    (s.pvw.unit.viewing && !s.progress.presenceSent && s.pvw.presenceCount == 4) := rfl
@[simp] theorem due_claimResend (s : State) : due .claimResend s =
    (joined s.pvw.unit && s.pvw.ownClaim.isSome && !s.progress.claimSent && s.pvw.claimCount == 24) := rfl
@[simp] theorem due_alertRecordStart (i : AlertId) (s : State) : due (.alertRecordStart i) s =
    (s.pvw.unit.viewing && (recordOf s i).any (fun r => r.state = .waiting && nowReaches s r.start)) := rfl
@[simp] theorem due_alertRecordEnded (i : AlertId) (s : State) : due (.alertRecordEnded i) s =
    (s.pvw.unit.viewing && (recordOf s i).any (fun r => r.stop.any (fun e => nowReaches s e.frame))) := rfl
@[simp] theorem due_localAlertOn (s : State) : due .localAlertOn s =
    (s.alc.localAlert.state = .announced && s.alc.localAlert.start.any (nowReaches s)) := rfl
@[simp] theorem due_localAlertIdle (s : State) : due .localAlertIdle s =
    (s.alc.localAlert.state = .ending && s.alc.localAlert.stop.any (nowReaches s)) := rfl
@[simp] theorem due_alertDurationLimit (s : State) : due .alertDurationLimit s =
    (s.ftu.now.any (fun n => durationDue n s)) := rfl
@[simp] theorem due_alertRepeat (s : State) : due .alertRepeat s =
    (s.alc.localAlert.state != .idle && !s.progress.alertSent && s.alc.repeatCount == 4) := rfl

/-! ### What each event is -/

@[simp] theorem fire_frameJump (s : State) : fire .frameJump s = frameJump s := rfl
@[simp] theorem fire_holdoverExpired (s : State) : fire .holdoverExpired s = holdoverExpired s := rfl
@[simp] theorem fire_readFailed (s : State) : fire .readFailed s = refuseImage .readFailed none s := rfl
@[simp] theorem fire_feedLost (p : PortId) (s : State) : fire (.feedLost p) s = losePort p s := rfl
@[simp] theorem fire_feedSwitch (k : ServiceIx) (s : State) : fire (.feedSwitch k) s =
    selectPort k .onBackup s := rfl
@[simp] theorem fire_feedRevert (k : ServiceIx) (s : State) : fire (.feedRevert k) s = selectPort k .onMain s := rfl
@[simp] theorem fire_slotRemoval (u : UnitId) (s : State) : fire (.slotRemoval u) s = removeSlot u s := rfl
@[simp] theorem fire_claimInForce (u : UnitId) (s : State) : fire (.claimInForce u) s =
    modifyPeer u putInForce s := rfl
@[simp] theorem fire_peerSilent (u : UnitId) (s : State) : fire (.peerSilent u) s = atNow (goSilent u) s := rfl
@[simp] theorem fire_enterJoining (s : State) : fire .enterJoining s = atNow enterJoining s := rfl
@[simp] theorem fire_enterOnAir (s : State) : fire .enterOnAir s = enterOnAir s := rfl
@[simp] theorem fire_enterIsolated (s : State) : fire .enterIsolated s = enterIsolated s := rfl
@[simp] theorem fire_textExpiry (k : ServiceIx) (i : SlotIx) (s : State) : fire (.textExpiry k i) s =
    modifyCarousel k (expireText i) s := rfl
@[simp] theorem fire_pictureLoadTimeout (k : ServiceIx) (o : ObjectId) (s : State) : fire (.pictureLoadTimeout k o) s =
    timeOutLoad k o s := rfl
@[simp] theorem fire_pictureExpiry (k : ServiceIx) (o : ObjectId) (s : State) : fire (.pictureExpiry k o) s =
    expirePicture k o s := rfl
@[simp] theorem fire_presenceSend (s : State) : fire .presenceSend s = sendPresence s := rfl
@[simp] theorem fire_claimResend (s : State) : fire .claimResend s = resendClaim s := rfl
@[simp] theorem fire_alertRecordStart (i : AlertId) (s : State) : fire (.alertRecordStart i) s =
    modifyRecord i startRecord s := rfl
@[simp] theorem fire_alertRecordEnded (i : AlertId) (s : State) : fire (.alertRecordEnded i) s = endRecord i s := rfl
@[simp] theorem fire_localAlertOn (s : State) : fire .localAlertOn s = { s with alc.localAlert.state := .on } := rfl
@[simp] theorem fire_localAlertIdle (s : State) : fire .localAlertIdle s = clearLocal s := rfl
@[simp] theorem fire_alertDurationLimit (s : State) : fire .alertDurationLimit s = atNow durationEnd s := rfl
@[simp] theorem fire_alertRepeat (s : State) : fire .alertRepeat s = repeatAlert s := rfl

/-! ### Handing in, and the cut of a frame -/

/-- What the queue makes of a packet changes nothing but the queue, its counters and the flags. -/
theorem enqueue_eq (p : TxPacket) (s : State) :
    (enqueue p s).1 = { s with
      lkp.queue := (enqueue p s).1.lkp.queue, lkp.counters := (enqueue p s).1.lkp.counters
      sup := (enqueue p s).1.sup } := by
  unfold enqueue raiseFlag driveAttention
  simp only
  split
  · rfl
  split
  · rfl
  split
  · rfl
  split <;> rfl

/-- With a place free, the packet joins the queue last, a PRESENCE superseding an older one. -/
theorem enqueue_of_room {p : TxPacket} {s : State} (hv : s.pvw.unit.viewing = true)
    (h : (supersede s.lkp.queue p).length < 64) :
    enqueue p s = ({ s with lkp.queue := supersede s.lkp.queue p ++ [p] }, true) := by
  unfold enqueue
  simp only
  rw [if_neg (by simp [queueOpen, hv]), if_pos (by exact h)]

/-- The arbiter takes a packet it may serve, or leaves the state. -/
theorem arbitrate_cases (s : State) :
    (pickNext s.pvw.unit s.lkp.queue = none ∧ arbitrate s = s) ∨
    ∃ p, pickNext s.pvw.unit s.lkp.queue = some p ∧ arbitrate s = takePacket p s := by
  unfold arbitrate
  cases h : pickNext s.pvw.unit s.lkp.queue with
  | none => exact .inl ⟨rfl, rfl⟩
  | some p => exact .inr ⟨p, rfl, rfl⟩

/-- The arbiter changes nothing outside LKP. -/
theorem arbitrate_eq (s : State) : arbitrate s = { s with lkp := (arbitrate s).lkp } := by
  obtain ⟨-, h⟩ | ⟨p, -, h⟩ := arbitrate_cases s
  · rw [h]
  · rw [h]; rfl

@[simp] theorem serve_of_busy {s : State} (h : s.lkp.transmitting.isSome = true) : serve s = s := by
  unfold serve
  exact if_neg (by simp [Option.isSome_iff_ne_none.mp h])

@[simp] theorem serve_of_free {s : State} (h : s.lkp.transmitting = none) : serve s = arbitrate s := by
  unfold serve
  exact if_pos (by simp [h])

/-- A free transmitter's take changes nothing outside LKP. -/
theorem serve_eq (s : State) : serve s = { s with lkp := (serve s).lkp } := by
  unfold serve
  split
  · exact arbitrate_eq s
  · rfl

/-- A hand-in changes nothing but LKP and the flags. -/
theorem handIn_eq (p : TxPacket) (s : State) :
    (handIn p s).1 = { s with lkp := (handIn p s).1.lkp, sup := (handIn p s).1.sup } := by
  unfold handIn
  simp only
  rw [serve_eq, enqueue_eq]

/-- With a place free, a hand-in appends the packet, a PRESENCE superseding an older one, and a free transmitter takes
at once. -/
theorem handIn_of_room {p : TxPacket} {s : State} (hv : s.pvw.unit.viewing = true)
    (h : (supersede s.lkp.queue p).length < 64) :
    handIn p s = (serve { s with lkp.queue := supersede s.lkp.queue p ++ [p] }, true) := by
  unfold handIn
  rw [enqueue_of_room hv h]

/-- After a hand-in no transmitter is free while the queue holds a packet it may serve (R53). -/
theorem serve_busy (s : State) (h : (serve s).lkp.transmitting = none) :
    pickNext (serve s).pvw.unit (serve s).lkp.queue = none := by
  unfold serve at h ⊢
  split at h
  · rename_i hn
    rw [if_pos hn]
    obtain ⟨hp, he⟩ | ⟨p, -, he⟩ := arbitrate_cases s
    · rw [he]; exact hp
    · rw [he] at h; cases h
  · rename_i hn
    exact absurd (by simp [h]) hn

theorem supersede_length (q : List TxPacket) (p : TxPacket) : (supersede q p).length ≤ q.length := by
  unfold supersede
  split
  · exact List.length_filter_le _ _
  · exact Nat.le_refl _

/-- A PRESENCE sent changes the link's queue and counters, the flags, the presence count and the boundary's mark. -/
theorem sendPresence_eq (s : State) :
    sendPresence s = { s with
      pvw.presenceCount := 0, progress.presenceSent := true
      lkp := (handIn ⟨.presence, 0, 0, ownPresence s⟩ s).1.lkp
      sup := (handIn ⟨.presence, 0, 0, ownPresence s⟩ s).1.sup } := by
  unfold sendPresence
  simp only
  rw [handIn_eq]

/-- A CLAIM sent changes the link's queue and counters, the flags, the claim count and the boundary's mark. -/
theorem sendClaim_eq (c : FramedClaim) (s : State) :
    sendClaim c s = { s with
      pvw.claimCount := 0, progress.claimSent := true
      lkp := (handIn ⟨.claim, 0, 0, claimBytes c⟩ s).1.lkp
      sup := (handIn ⟨.claim, 0, 0, claimBytes c⟩ s).1.sup } := by
  unfold sendClaim
  simp only
  rw [handIn_eq]

/-- The cut of a frame changes nothing but the output and the count of free values. -/
theorem cutFrame_eq (s : State) : cutFrame s = { s with ofr := (cutFrame s).ofr, freeIx := (cutFrame s).freeIx } := by
  unfold cutFrame
  split
  · split <;> rfl
  · rfl

theorem cutFrame_of_idle {s : State} (h : streamingValid s = false) : cutFrame s = s := by
  unfold cutFrame
  unfold streamingValid at h
  split
  · rename_i f hf
    rw [hf] at h
    simp only [Option.any_some] at h
    exact if_neg (by rw [h]; decide)
  · rfl

end Sys2Proof.Machine
end

