-- ==== Sys2Proof/Laws/Layout.lean ====
section
/-! SUPPORT. The ladder, the turns of the entries in rank order, and the chain's answer for a frame: what each can
give. -/

namespace Sys2Proof.Machine

/-! ### The ladder (R26) -/

/-- The four outcomes of the ladder, each with what it takes. -/
theorem ladder_cases (a s p q : Nat) :
    (blockCount a s p ≤ q ∧ ladder a s p q = ⟨.normal, s, p, blockCount a s p⟩) ∨
    (q < blockCount a s p ∧ 0 < s ∧ blockCount a 0 p ≤ q ∧ ladder a s p q = ⟨.shed, 0, p, blockCount a 0 p⟩) ∨
    (q < blockCount a s p ∧ ¬(0 < s ∧ blockCount a 0 p ≤ q) ∧ ∃ c,
      (List.range' (p + 1) (4 - p)).find? (fun c => blockCount a 0 c ≤ q) = some c ∧
      ladder a s p q = ⟨.lowered, 0, c, blockCount a 0 c⟩) ∨
    (q < blockCount a s p ∧ ¬(0 < s ∧ blockCount a 0 p ≤ q) ∧
      (List.range' (p + 1) (4 - p)).find? (fun c => blockCount a 0 c ≤ q) = none ∧
      ladder a s p q = ⟨.unplaced, 0, p, 0⟩) := by
  unfold ladder
  by_cases h1 : blockCount a s p ≤ q
  · exact .inl ⟨h1, if_pos h1⟩
  · rw [if_neg h1]
    have h1' := Nat.lt_of_not_le h1
    by_cases h2 : 0 < s ∧ blockCount a 0 p ≤ q
    · exact .inr (.inl ⟨h1', h2.1, h2.2, if_pos (by simpa using h2)⟩)
    · rw [if_neg (by simpa using h2)]
      cases hf : (List.range' (p + 1) (4 - p)).find? (fun c => blockCount a 0 c ≤ q) with
      | some c => exact .inr (.inr (.inl ⟨h1', h2, c, rfl, rfl⟩))
      | none => exact .inr (.inr (.inr ⟨h1', h2, rfl, rfl⟩))

/-- What the ladder grants fits. -/
theorem ladder_count_le (a s p q : Nat) : (ladder a s p q).count ≤ q := by
  obtain ⟨h, e⟩ | ⟨-, -, h, e⟩ | ⟨-, -, c, h, e⟩ | ⟨-, -, -, e⟩ := ladder_cases a s p q
  · rw [e]; exact h
  · rw [e]; exact h
  · rw [e]; simpa using List.find?_some h
  · rw [e]; exact Nat.zero_le q

/-! ### Entry by entry (R27) -/

theorem placeEntry_end_le (gov : Option AlertSummary) {b : Nat} (e : UnitId × ClaimEntry) (h : b ≤ 500) :
    b + (placeEntry gov b e).count ≤ 500 := by
  have : (placeEntry gov b e).count ≤ 500 - b := ladder_count_le _ _ _ _
  omega

/-- Entries placed after others: the others first, then these from their end block on. -/
theorem placeAll_append (gov : Option AlertSummary) (xs ys : List (UnitId × ClaimEntry)) :
    ∀ b, placeAll gov b (xs ++ ys) =
      ((placeAll gov b xs).1 ++ (placeAll gov (placeAll gov b xs).2 ys).1, (placeAll gov (placeAll gov b xs).2 ys).2) := by
  induction xs with
  | nil => intro b; rfl
  | cons x xs ih => intro b; simp [placeAll, ih]

theorem placeAll_length (gov : Option AlertSummary) (xs : List (UnitId × ClaimEntry)) :
    ∀ b, (placeAll gov b xs).1.length = xs.length := by
  induction xs with
  | nil => intro b; rfl
  | cons x xs ih => intro b; simp [placeAll, ih]

/-- The end block is the first block and every entry's count. -/
theorem placeAll_end (gov : Option AlertSummary) (xs : List (UnitId × ClaimEntry)) :
    ∀ b, (placeAll gov b xs).2 = b + ((placeAll gov b xs).1.map (·.count)).sum := by
  induction xs with
  | nil => intro b; rfl
  | cons x xs ih => intro b; simp [placeAll, ih, Nat.add_assoc]

theorem placeAll_end_le (gov : Option AlertSummary) (xs : List (UnitId × ClaimEntry)) :
    ∀ b, b ≤ 500 → (placeAll gov b xs).2 ≤ 500 := by
  induction xs with
  | nil => intro b h; exact h
  | cons x xs ih => intro b h; exact ih _ (placeEntry_end_le gov x h)

/-! ### The chain (R34) -/

/-- A pair that the chain answers for `m` is one of its pairs and not later than `m`, which the chain covers. -/
theorem chainPair_some {p : Ple} {m f : FrameNo} {l : Layout} (h : chainPair p m = some (f, l)) :
    covers p m = true ∧ (f, l) ∈ p.chain ∧ later f m = false := by
  unfold chainPair at h
  split at h
  · rename_i hc
    have hm := List.mem_of_getLast? h
    rw [List.mem_filter] at hm
    exact ⟨hc, hm.1, by simpa using hm.2⟩
  · cases h

theorem chainPair_none {p : Ple} {m : FrameNo} (h : covers p m = false) : chainPair p m = none := by
  unfold chainPair
  rw [h]
  rfl

end Sys2Proof.Machine
end

