-- ==== Sys2Proof/Laws/Memory.lean ====
section
/-! SUPPORT. The page pool's memory: reads after writes, and the canonical form that every write keeps. -/

namespace Sys2Proof.Machine

theorem memWfFrom_mono {lo lo' : Nat} {m : List Host.Cell} (h : memWfFrom lo m = true) (hl : lo' ≤ lo) :
    memWfFrom lo' m = true := by
  cases m with
  | nil => rfl
  | cons x m =>
    obtain ⟨a, b⟩ := x
    simp only [memWfFrom, Bool.and_eq_true, decide_eq_true_eq] at h ⊢
    exact ⟨⟨by omega, h.1.2⟩, h.2⟩

/-- A write keeps the form, at any lower bound that its address meets. -/
theorem memWrite_wfFrom (m : List Host.Cell) (x : Nat) (v : Byte) :
    ∀ lo, lo ≤ x → memWfFrom lo m = true → memWfFrom lo (memWrite m x v) = true := by
  induction m with
  | nil =>
    intro lo hx _
    by_cases hv : v = memoryDefault
    · simp [memWrite, hv, memWfFrom]
    · simp [memWrite, hv, memWfFrom, hx]
  | cons y m ih =>
    obtain ⟨a, b⟩ := y
    intro lo hx h
    simp only [memWfFrom, Bool.and_eq_true, decide_eq_true_eq] at h
    obtain ⟨⟨ha, hb⟩, hm⟩ := h
    simp only [memWrite]
    split
    · rename_i hlt
      simp only [memWfFrom, Bool.and_eq_true, decide_eq_true_eq]
      exact ⟨⟨ha, hb⟩, ih (a + 1) (by omega) hm⟩
    · split
      · rename_i heq
        subst heq
        split
        · exact memWfFrom_mono hm (by omega)
        · rename_i hv
          simp only [memWfFrom, Bool.and_eq_true, decide_eq_true_eq]
          exact ⟨⟨ha, by simpa using hv⟩, hm⟩
      · rename_i h1 h2
        split
        · simp only [memWfFrom, Bool.and_eq_true, decide_eq_true_eq]
          exact ⟨⟨ha, hb⟩, hm⟩
        · rename_i hv
          simp only [memWfFrom, Bool.and_eq_true, decide_eq_true_eq]
          exact ⟨⟨hx, by simpa using hv⟩, ⟨by omega, hb⟩, hm⟩

/-- Every write keeps the canonical form. -/
theorem memWrite_wf {m : List Host.Cell} (x : Nat) (v : Byte) (h : Memory.wf m = true) :
    Memory.wf (memWrite m x v) = true := memWrite_wfFrom m x v 0 (Nat.zero_le x) h

/-- Writing an object's bytes keeps the canonical form. -/
theorem writeObject_wf (r : PicRecord) (bs : List Byte) :
    ∀ o m, Memory.wf m = true → Memory.wf (writeObject r o bs m) = true := by
  induction bs with
  | nil => intro o m h; exact h
  | cons b bs ih => intro o m h; exact ih _ _ (memWrite_wf _ _ h)

/-- An address below the bound reads the default. -/
theorem memRead_below {m : List Host.Cell} {lo x : Nat} (h : memWfFrom lo m = true) (hx : x < lo) :
    memRead m x = memoryDefault := by
  induction m generalizing lo with
  | nil => rfl
  | cons y m ih =>
    obtain ⟨a, b⟩ := y
    simp only [memWfFrom, Bool.and_eq_true, decide_eq_true_eq] at h
    simp only [memRead]
    rw [if_neg (by omega)]
    exact ih h.2 (by omega)

/-- Reading the byte just written gives it; every other byte reads as before. -/
theorem memRead_memWrite_from (m : List Host.Cell) (x y : Nat) (v : Byte) :
    ∀ lo, memWfFrom lo m = true → memRead (memWrite m x v) y = if y = x then v else memRead m y := by
  induction m with
  | nil =>
    intro lo _
    by_cases hv : v = memoryDefault
    · simp [memWrite, hv, memRead]
    · simp only [memWrite, hv, if_false, memRead, eq_comm (a := y)]
  | cons z m ih =>
    obtain ⟨a, b⟩ := z
    intro lo h
    simp only [memWfFrom, Bool.and_eq_true, decide_eq_true_eq] at h
    obtain ⟨⟨_, _⟩, hm⟩ := h
    simp only [memWrite]
    split
    · simp only [memRead, ih (a + 1) hm]
      split <;> split <;> first | rfl | omega
    · split
      · rename_i heq
        subst heq
        split
        · rename_i hv
          by_cases hy : y = a
          · subst hy; simp only [hv]; exact memRead_below hm (by omega)
          · simp only [memRead, if_neg hy, if_neg (Ne.symm hy)]
        · simp only [memRead, eq_comm (a := y)]
          split <;> rfl
      · rename_i h1 h2
        split
        · rename_i hv
          by_cases hy : y = x
          · subst hy
            simp only [memRead, if_neg h2, hv]
            exact memRead_below hm (by omega)
          · simp only [if_neg hy]
        · simp only [memRead, eq_comm (a := y)]

/-- Read after write. -/
theorem memRead_memWrite {m : List Host.Cell} (x y : Nat) (v : Byte) (h : Memory.wf m = true) :
    memRead (memWrite m x v) y = if y = x then v else memRead m y := memRead_memWrite_from m x y v 0 h

/-- The memory after reset has the canonical form. -/
theorem reset_memory_wf : Memory.wf State.reset.pic.memory = true := rfl

end Sys2Proof.Machine
end

