-- ==== Sys2Proof/WellFormed.lean ====
section
/-! DEFINITION. Which commands can arrive: the sizes that chapter 11's formats and R3's times give the operands. -/

namespace Sys2Proof

/-- The bytes a command brings. -/
def byteCount : Instr → Nat
  | .configReadComplete flash => flash.length
  | .timeMessage bytes => bytes.length
  | .linkHuntPacket bytes => bytes.length
  | .linkHeaderFailed bytes => bytes.length
  | .presence packet => packet.body.length
  | .claim packet => packet.body.length
  | .contrib packet => packet.body.length
  | .alert packet => packet.body.length
  | .alertEnd packet => packet.body.length
  | .feedHuntPacket _ bytes => bytes.length
  | .feedPacketFailed _ bytes => bytes.length
  | .feedPacketMalformed _ _ body => body.length
  | .audio _ body => body.length
  | .textSet _ body => body.length
  | .textClear _ body => body.length
  | .picBegin _ body => body.length
  | .picData _ body => body.length
  | .picEnd _ body => body.length
  | .picDelete _ body => body.length
  | .alertReq _ body => body.length
  | .alertClear _ body => body.length
  | .fill _ body => body.length
  | .requestReceived request => request.body.length
  | _ => 0

/-- A body length fits its 2-byte field (R189, R193, R195). -/
def fitsLength (n : Nat) : Bool := n ≤ 65535

/-- Bytes on the receive line or of a port: at least one. -/
def someBytes (bs : List Byte) : Bool := 1 ≤ bs.length && fitsLength bs.length

/-- A command whose operands can arrive. -/
def wellFormed : Instr → Bool
  | .configReadComplete flash => 2 ≤ flash.length && flash.length ≤ 4096
  | .timeMessage bytes => bytes.length == 7
  | .framePulse elapsed _ => elapsed < 50000
  | .linkHuntPacket bytes => someBytes bytes
  | .linkHeaderFailed bytes => someBytes bytes
  | .feedHuntPacket _ bytes => someBytes bytes
  | .feedPacketFailed _ bytes => someBytes bytes
  | i => fitsLength (byteCount i)

end Sys2Proof
end

