-- ==== Sys2Proof/Laws/PerInstr.lean ====
section
/-! SUPPORT. What the well-formedness check gives of every command, one lemma per command: the bytes it brings fit the
longest length field. -/

namespace Sys2Proof.Laws.Checked

/-- A command whose operands can arrive brings at most 65,535 bytes. -/
def Statement (i : Instr) : Prop := wellFormed i = true → byteCount i ≤ 65535

/-- The commands whose own check bounds their bytes through `fitsLength`. -/
theorem of_fits {i : Instr} (h : wellFormed i = true → fitsLength (byteCount i) = true) : Statement i := by
  intro w
  simpa [fitsLength] using h w

/-- The commands that bring no bytes. -/
theorem of_none {i : Instr} (h : byteCount i = 0) : Statement i := by
  intro _
  omega

theorem powerOn : Statement .powerOn := of_fits (fun h => h)
theorem lineReset : Statement .lineReset := of_fits (fun h => h)
theorem configReadComplete (flash : List Byte) : Statement (.configReadComplete flash) := by
  intro h
  simp only [wellFormed, Bool.and_eq_true, decide_eq_true_eq] at h
  exact Nat.le_trans h.2 (by decide)
theorem readFailed : Statement .readFailed := of_fits (fun h => h)
theorem timeMessage (bytes : List Byte) : Statement (.timeMessage bytes) := by
  intro h
  simp only [wellFormed, beq_iff_eq] at h
  exact Nat.le_trans (Nat.le_of_eq h) (by decide)
theorem framePulse (elapsed : Nat) (order : BoundaryOrder) : Statement (.framePulse elapsed order) := of_none rfl
theorem localTimerExpiry (order : BoundaryOrder) : Statement (.localTimerExpiry order) := of_fits (fun h => h)
theorem missedPulse : Statement .missedPulse := of_fits (fun h => h)
theorem holdoverExpired : Statement .holdoverExpired := of_fits (fun h => h)
theorem frameJump : Statement .frameJump := of_fits (fun h => h)
theorem enterJoining : Statement .enterJoining := of_fits (fun h => h)
theorem enterOnAir : Statement .enterOnAir := of_fits (fun h => h)
theorem enterIsolated : Statement .enterIsolated := of_fits (fun h => h)
theorem presenceSend : Statement .presenceSend := of_fits (fun h => h)
theorem claimResend : Statement .claimResend := of_fits (fun h => h)
theorem peerSilent (unit : UnitId) : Statement (.peerSilent unit) := of_fits (fun h => h)
theorem slotRemoval (unit : UnitId) : Statement (.slotRemoval unit) := of_fits (fun h => h)
theorem claimInForce (unit : UnitId) : Statement (.claimInForce unit) := of_fits (fun h => h)
theorem linkHuntPacket (bytes : List Byte) : Statement (.linkHuntPacket bytes) :=
  of_fits (fun h => ((Bool.and_eq_true _ _).mp h).2)
theorem linkHeaderFailed (bytes : List Byte) : Statement (.linkHeaderFailed bytes) :=
  of_fits (fun h => ((Bool.and_eq_true _ _).mp h).2)
theorem presence (packet : LinkPacket) : Statement (.presence packet) := of_fits (fun h => h)
theorem claim (packet : LinkPacket) : Statement (.claim packet) := of_fits (fun h => h)
theorem contrib (packet : LinkPacket) : Statement (.contrib packet) := of_fits (fun h => h)
theorem alert (packet : LinkPacket) : Statement (.alert packet) := of_fits (fun h => h)
theorem alertEnd (packet : LinkPacket) : Statement (.alertEnd packet) := of_fits (fun h => h)
theorem transmitDone : Statement .transmitDone := of_fits (fun h => h)
theorem feedHuntPacket (port : PortId) (bytes : List Byte) : Statement (.feedHuntPacket port bytes) :=
  of_fits (fun h => ((Bool.and_eq_true _ _).mp h).2)
theorem feedPacketFailed (port : PortId) (bytes : List Byte) : Statement (.feedPacketFailed port bytes) :=
  of_fits (fun h => ((Bool.and_eq_true _ _).mp h).2)
theorem feedPacketMalformed (port : PortId) (kind : Byte) (body : List Byte) :
    Statement (.feedPacketMalformed port kind body) := of_fits (fun h => h)
theorem audio (port : PortId) (body : List Byte) : Statement (.audio port body) := of_fits (fun h => h)
theorem textSet (port : PortId) (body : List Byte) : Statement (.textSet port body) := of_fits (fun h => h)
theorem textClear (port : PortId) (body : List Byte) : Statement (.textClear port body) := of_fits (fun h => h)
theorem picBegin (port : PortId) (body : List Byte) : Statement (.picBegin port body) := of_fits (fun h => h)
theorem picData (port : PortId) (body : List Byte) : Statement (.picData port body) := of_fits (fun h => h)
theorem picEnd (port : PortId) (body : List Byte) : Statement (.picEnd port body) := of_fits (fun h => h)
theorem picDelete (port : PortId) (body : List Byte) : Statement (.picDelete port body) := of_fits (fun h => h)
theorem alertReq (port : PortId) (body : List Byte) : Statement (.alertReq port body) := of_fits (fun h => h)
theorem alertClear (port : PortId) (body : List Byte) : Statement (.alertClear port body) := of_fits (fun h => h)
theorem fill (port : PortId) (body : List Byte) : Statement (.fill port body) := of_fits (fun h => h)
theorem feedLost (port : PortId) : Statement (.feedLost port) := of_fits (fun h => h)
theorem feedSwitch (service : ServiceIx) : Statement (.feedSwitch service) := of_fits (fun h => h)
theorem feedRevert (service : ServiceIx) : Statement (.feedRevert service) := of_fits (fun h => h)
theorem textExpiry (service : ServiceIx) (slot : SlotIx) : Statement (.textExpiry service slot) := of_fits (fun h => h)
theorem pictureLoadTimeout (service : ServiceIx) (object : ObjectId) :
    Statement (.pictureLoadTimeout service object) := of_fits (fun h => h)
theorem pictureExpiry (service : ServiceIx) (object : ObjectId) :
    Statement (.pictureExpiry service object) := of_fits (fun h => h)
theorem alertLineChange (line : LineIx) (high : Bool) : Statement (.alertLineChange line high) := of_fits (fun h => h)
theorem alertDurationLimit : Statement .alertDurationLimit := of_fits (fun h => h)
theorem localAlertOn : Statement .localAlertOn := of_fits (fun h => h)
theorem localAlertIdle : Statement .localAlertIdle := of_fits (fun h => h)
theorem alertRepeat : Statement .alertRepeat := of_fits (fun h => h)
theorem alertRecordStart (id : AlertId) : Statement (.alertRecordStart id) := of_fits (fun h => h)
theorem alertRecordEnded (id : AlertId) : Statement (.alertRecordEnded id) := of_fits (fun h => h)
theorem requestReceived (request : RequestFrame) : Statement (.requestReceived request) := of_fits (fun h => h)
theorem readStatus : Statement .readStatus := of_fits (fun h => h)
theorem readCounters : Statement .readCounters := of_fits (fun h => h)
theorem readView : Statement .readView := of_fits (fun h => h)
theorem readLayout : Statement .readLayout := of_fits (fun h => h)
theorem readAlerts : Statement .readAlerts := of_fits (fun h => h)
theorem readText : Statement .readText := of_fits (fun h => h)
theorem readPictures : Statement .readPictures := of_fits (fun h => h)
theorem clearFlags : Statement .clearFlags := of_fits (fun h => h)
theorem clearCounters : Statement .clearCounters := of_fits (fun h => h)
theorem serviceOff : Statement .serviceOff := of_fits (fun h => h)
theorem serviceOn : Statement .serviceOn := of_fits (fun h => h)
theorem alertStart : Statement .alertStart := of_fits (fun h => h)
theorem alertTest : Statement .alertTest := of_fits (fun h => h)
theorem alertStop : Statement .alertStop := of_fits (fun h => h)
theorem textFlush : Statement .textFlush := of_fits (fun h => h)
theorem pictureFlush : Statement .pictureFlush := of_fits (fun h => h)
theorem rejoin : Statement .rejoin := of_fits (fun h => h)
theorem softReset : Statement .softReset := of_fits (fun h => h)
theorem loadConfig : Statement .loadConfig := of_fits (fun h => h)

end Sys2Proof.Laws.Checked
end

