-- ==== Sys2Proof/Laws/State.lean ====
section
/-! SUPPORT. The named updates of the state, field by field: what each leaves alone, and what it writes. -/

namespace Sys2Proof.Machine

variable (s : State)

/-! `modifyCarousel` -/

@[simp] theorem modifyCarousel_pending (k : ServiceIx) (f : Carousel → Carousel) :
    (modifyCarousel k f s).pending = s.pending := rfl
@[simp] theorem modifyCarousel_progress (k : ServiceIx) (f : Carousel → Carousel) :
    (modifyCarousel k f s).progress = s.progress := rfl
@[simp] theorem modifyCarousel_freeIx (k : ServiceIx) (f : Carousel → Carousel) :
    (modifyCarousel k f s).freeIx = s.freeIx := rfl
@[simp] theorem modifyCarousel_lines (k : ServiceIx) (f : Carousel → Carousel) :
    (modifyCarousel k f s).lines = s.lines := rfl
@[simp] theorem modifyCarousel_ftu (k : ServiceIx) (f : Carousel → Carousel) : (modifyCarousel k f s).ftu = s.ftu := rfl
@[simp] theorem modifyCarousel_ofr (k : ServiceIx) (f : Carousel → Carousel) : (modifyCarousel k f s).ofr = s.ofr := rfl
@[simp] theorem modifyCarousel_ple (k : ServiceIx) (f : Carousel → Carousel) : (modifyCarousel k f s).ple = s.ple := rfl
@[simp] theorem modifyCarousel_lkp (k : ServiceIx) (f : Carousel → Carousel) : (modifyCarousel k f s).lkp = s.lkp := rfl
@[simp] theorem modifyCarousel_pvw (k : ServiceIx) (f : Carousel → Carousel) : (modifyCarousel k f s).pvw = s.pvw := rfl
@[simp] theorem modifyCarousel_cpr (k : ServiceIx) (f : Carousel → Carousel) : (modifyCarousel k f s).cpr = s.cpr := rfl
@[simp] theorem modifyCarousel_asm (k : ServiceIx) (f : Carousel → Carousel) : (modifyCarousel k f s).asm = s.asm := rfl
@[simp] theorem modifyCarousel_sin (k : ServiceIx) (f : Carousel → Carousel) : (modifyCarousel k f s).sin = s.sin := rfl
@[simp] theorem modifyCarousel_pic (k : ServiceIx) (f : Carousel → Carousel) : (modifyCarousel k f s).pic = s.pic := rfl
@[simp] theorem modifyCarousel_alc (k : ServiceIx) (f : Carousel → Carousel) : (modifyCarousel k f s).alc = s.alc := rfl
@[simp] theorem modifyCarousel_sup (k : ServiceIx) (f : Carousel → Carousel) : (modifyCarousel k f s).sup = s.sup := rfl
@[simp] theorem modifyCarousel_cfl (k : ServiceIx) (f : Carousel → Carousel) : (modifyCarousel k f s).cfl = s.cfl := rfl

/-! `modifyPicCarousel` -/

@[simp] theorem modifyPicCarousel_pending (k : ServiceIx) (f : PicCarousel → PicCarousel) :
    (modifyPicCarousel k f s).pending = s.pending := rfl
@[simp] theorem modifyPicCarousel_progress (k : ServiceIx) (f : PicCarousel → PicCarousel) :
    (modifyPicCarousel k f s).progress = s.progress := rfl
@[simp] theorem modifyPicCarousel_freeIx (k : ServiceIx) (f : PicCarousel → PicCarousel) :
    (modifyPicCarousel k f s).freeIx = s.freeIx := rfl
@[simp] theorem modifyPicCarousel_lines (k : ServiceIx) (f : PicCarousel → PicCarousel) :
    (modifyPicCarousel k f s).lines = s.lines := rfl
@[simp] theorem modifyPicCarousel_ftu (k : ServiceIx) (f : PicCarousel → PicCarousel) :
    (modifyPicCarousel k f s).ftu = s.ftu := rfl
@[simp] theorem modifyPicCarousel_ofr (k : ServiceIx) (f : PicCarousel → PicCarousel) :
    (modifyPicCarousel k f s).ofr = s.ofr := rfl
@[simp] theorem modifyPicCarousel_ple (k : ServiceIx) (f : PicCarousel → PicCarousel) :
    (modifyPicCarousel k f s).ple = s.ple := rfl
@[simp] theorem modifyPicCarousel_lkp (k : ServiceIx) (f : PicCarousel → PicCarousel) :
    (modifyPicCarousel k f s).lkp = s.lkp := rfl
@[simp] theorem modifyPicCarousel_pvw (k : ServiceIx) (f : PicCarousel → PicCarousel) :
    (modifyPicCarousel k f s).pvw = s.pvw := rfl
@[simp] theorem modifyPicCarousel_cpr (k : ServiceIx) (f : PicCarousel → PicCarousel) :
    (modifyPicCarousel k f s).cpr = s.cpr := rfl
@[simp] theorem modifyPicCarousel_asm (k : ServiceIx) (f : PicCarousel → PicCarousel) :
    (modifyPicCarousel k f s).asm = s.asm := rfl
@[simp] theorem modifyPicCarousel_sin (k : ServiceIx) (f : PicCarousel → PicCarousel) :
    (modifyPicCarousel k f s).sin = s.sin := rfl
@[simp] theorem modifyPicCarousel_txc (k : ServiceIx) (f : PicCarousel → PicCarousel) :
    (modifyPicCarousel k f s).txc = s.txc := rfl
@[simp] theorem modifyPicCarousel_alc (k : ServiceIx) (f : PicCarousel → PicCarousel) :
    (modifyPicCarousel k f s).alc = s.alc := rfl
@[simp] theorem modifyPicCarousel_sup (k : ServiceIx) (f : PicCarousel → PicCarousel) :
    (modifyPicCarousel k f s).sup = s.sup := rfl
@[simp] theorem modifyPicCarousel_cfl (k : ServiceIx) (f : PicCarousel → PicCarousel) :
    (modifyPicCarousel k f s).cfl = s.cfl := rfl

/-! `modifyPeer` -/

@[simp] theorem modifyPeer_pending (u : UnitId) (f : PeerSlot → PeerSlot) :
    (modifyPeer u f s).pending = s.pending := rfl
@[simp] theorem modifyPeer_progress (u : UnitId) (f : PeerSlot → PeerSlot) :
    (modifyPeer u f s).progress = s.progress := rfl
@[simp] theorem modifyPeer_freeIx (u : UnitId) (f : PeerSlot → PeerSlot) : (modifyPeer u f s).freeIx = s.freeIx := rfl
@[simp] theorem modifyPeer_lines (u : UnitId) (f : PeerSlot → PeerSlot) : (modifyPeer u f s).lines = s.lines := rfl
@[simp] theorem modifyPeer_ftu (u : UnitId) (f : PeerSlot → PeerSlot) : (modifyPeer u f s).ftu = s.ftu := rfl
@[simp] theorem modifyPeer_ofr (u : UnitId) (f : PeerSlot → PeerSlot) : (modifyPeer u f s).ofr = s.ofr := rfl
@[simp] theorem modifyPeer_ple (u : UnitId) (f : PeerSlot → PeerSlot) : (modifyPeer u f s).ple = s.ple := rfl
@[simp] theorem modifyPeer_lkp (u : UnitId) (f : PeerSlot → PeerSlot) : (modifyPeer u f s).lkp = s.lkp := rfl
@[simp] theorem modifyPeer_cpr (u : UnitId) (f : PeerSlot → PeerSlot) : (modifyPeer u f s).cpr = s.cpr := rfl
@[simp] theorem modifyPeer_asm (u : UnitId) (f : PeerSlot → PeerSlot) : (modifyPeer u f s).asm = s.asm := rfl
@[simp] theorem modifyPeer_sin (u : UnitId) (f : PeerSlot → PeerSlot) : (modifyPeer u f s).sin = s.sin := rfl
@[simp] theorem modifyPeer_txc (u : UnitId) (f : PeerSlot → PeerSlot) : (modifyPeer u f s).txc = s.txc := rfl
@[simp] theorem modifyPeer_pic (u : UnitId) (f : PeerSlot → PeerSlot) : (modifyPeer u f s).pic = s.pic := rfl
@[simp] theorem modifyPeer_alc (u : UnitId) (f : PeerSlot → PeerSlot) : (modifyPeer u f s).alc = s.alc := rfl
@[simp] theorem modifyPeer_sup (u : UnitId) (f : PeerSlot → PeerSlot) : (modifyPeer u f s).sup = s.sup := rfl
@[simp] theorem modifyPeer_cfl (u : UnitId) (f : PeerSlot → PeerSlot) : (modifyPeer u f s).cfl = s.cfl := rfl

/-! `modifySender` -/

@[simp] theorem modifySender_pending (u : UnitId) (f : SenderRecord → SenderRecord) :
    (modifySender u f s).pending = s.pending := rfl
@[simp] theorem modifySender_progress (u : UnitId) (f : SenderRecord → SenderRecord) :
    (modifySender u f s).progress = s.progress := rfl
@[simp] theorem modifySender_freeIx (u : UnitId) (f : SenderRecord → SenderRecord) :
    (modifySender u f s).freeIx = s.freeIx := rfl
@[simp] theorem modifySender_lines (u : UnitId) (f : SenderRecord → SenderRecord) :
    (modifySender u f s).lines = s.lines := rfl
@[simp] theorem modifySender_ftu (u : UnitId) (f : SenderRecord → SenderRecord) :
    (modifySender u f s).ftu = s.ftu := rfl
@[simp] theorem modifySender_ofr (u : UnitId) (f : SenderRecord → SenderRecord) :
    (modifySender u f s).ofr = s.ofr := rfl
@[simp] theorem modifySender_ple (u : UnitId) (f : SenderRecord → SenderRecord) :
    (modifySender u f s).ple = s.ple := rfl
@[simp] theorem modifySender_pvw (u : UnitId) (f : SenderRecord → SenderRecord) :
    (modifySender u f s).pvw = s.pvw := rfl
@[simp] theorem modifySender_cpr (u : UnitId) (f : SenderRecord → SenderRecord) :
    (modifySender u f s).cpr = s.cpr := rfl
@[simp] theorem modifySender_asm (u : UnitId) (f : SenderRecord → SenderRecord) :
    (modifySender u f s).asm = s.asm := rfl
@[simp] theorem modifySender_sin (u : UnitId) (f : SenderRecord → SenderRecord) :
    (modifySender u f s).sin = s.sin := rfl
@[simp] theorem modifySender_txc (u : UnitId) (f : SenderRecord → SenderRecord) :
    (modifySender u f s).txc = s.txc := rfl
@[simp] theorem modifySender_pic (u : UnitId) (f : SenderRecord → SenderRecord) :
    (modifySender u f s).pic = s.pic := rfl
@[simp] theorem modifySender_alc (u : UnitId) (f : SenderRecord → SenderRecord) :
    (modifySender u f s).alc = s.alc := rfl
@[simp] theorem modifySender_sup (u : UnitId) (f : SenderRecord → SenderRecord) :
    (modifySender u f s).sup = s.sup := rfl
@[simp] theorem modifySender_cfl (u : UnitId) (f : SenderRecord → SenderRecord) :
    (modifySender u f s).cfl = s.cfl := rfl

/-! `modifyPort` -/

@[simp] theorem modifyPort_pending (p : PortId) (f : Port → Port) : (modifyPort p f s).pending = s.pending := rfl
@[simp] theorem modifyPort_progress (p : PortId) (f : Port → Port) : (modifyPort p f s).progress = s.progress := rfl
@[simp] theorem modifyPort_freeIx (p : PortId) (f : Port → Port) : (modifyPort p f s).freeIx = s.freeIx := rfl
@[simp] theorem modifyPort_lines (p : PortId) (f : Port → Port) : (modifyPort p f s).lines = s.lines := rfl
@[simp] theorem modifyPort_ftu (p : PortId) (f : Port → Port) : (modifyPort p f s).ftu = s.ftu := rfl
@[simp] theorem modifyPort_ofr (p : PortId) (f : Port → Port) : (modifyPort p f s).ofr = s.ofr := rfl
@[simp] theorem modifyPort_ple (p : PortId) (f : Port → Port) : (modifyPort p f s).ple = s.ple := rfl
@[simp] theorem modifyPort_lkp (p : PortId) (f : Port → Port) : (modifyPort p f s).lkp = s.lkp := rfl
@[simp] theorem modifyPort_pvw (p : PortId) (f : Port → Port) : (modifyPort p f s).pvw = s.pvw := rfl
@[simp] theorem modifyPort_cpr (p : PortId) (f : Port → Port) : (modifyPort p f s).cpr = s.cpr := rfl
@[simp] theorem modifyPort_asm (p : PortId) (f : Port → Port) : (modifyPort p f s).asm = s.asm := rfl
@[simp] theorem modifyPort_txc (p : PortId) (f : Port → Port) : (modifyPort p f s).txc = s.txc := rfl
@[simp] theorem modifyPort_pic (p : PortId) (f : Port → Port) : (modifyPort p f s).pic = s.pic := rfl
@[simp] theorem modifyPort_alc (p : PortId) (f : Port → Port) : (modifyPort p f s).alc = s.alc := rfl
@[simp] theorem modifyPort_sup (p : PortId) (f : Port → Port) : (modifyPort p f s).sup = s.sup := rfl
@[simp] theorem modifyPort_cfl (p : PortId) (f : Port → Port) : (modifyPort p f s).cfl = s.cfl := rfl

/-! `modifyIntake` -/

@[simp] theorem modifyIntake_pending (k : ServiceIx) (f : Intake → Intake) :
    (modifyIntake k f s).pending = s.pending := rfl
@[simp] theorem modifyIntake_progress (k : ServiceIx) (f : Intake → Intake) :
    (modifyIntake k f s).progress = s.progress := rfl
@[simp] theorem modifyIntake_freeIx (k : ServiceIx) (f : Intake → Intake) :
    (modifyIntake k f s).freeIx = s.freeIx := rfl
@[simp] theorem modifyIntake_lines (k : ServiceIx) (f : Intake → Intake) : (modifyIntake k f s).lines = s.lines := rfl
@[simp] theorem modifyIntake_ftu (k : ServiceIx) (f : Intake → Intake) : (modifyIntake k f s).ftu = s.ftu := rfl
@[simp] theorem modifyIntake_ofr (k : ServiceIx) (f : Intake → Intake) : (modifyIntake k f s).ofr = s.ofr := rfl
@[simp] theorem modifyIntake_ple (k : ServiceIx) (f : Intake → Intake) : (modifyIntake k f s).ple = s.ple := rfl
@[simp] theorem modifyIntake_lkp (k : ServiceIx) (f : Intake → Intake) : (modifyIntake k f s).lkp = s.lkp := rfl
@[simp] theorem modifyIntake_pvw (k : ServiceIx) (f : Intake → Intake) : (modifyIntake k f s).pvw = s.pvw := rfl
@[simp] theorem modifyIntake_cpr (k : ServiceIx) (f : Intake → Intake) : (modifyIntake k f s).cpr = s.cpr := rfl
@[simp] theorem modifyIntake_asm (k : ServiceIx) (f : Intake → Intake) : (modifyIntake k f s).asm = s.asm := rfl
@[simp] theorem modifyIntake_txc (k : ServiceIx) (f : Intake → Intake) : (modifyIntake k f s).txc = s.txc := rfl
@[simp] theorem modifyIntake_pic (k : ServiceIx) (f : Intake → Intake) : (modifyIntake k f s).pic = s.pic := rfl
@[simp] theorem modifyIntake_alc (k : ServiceIx) (f : Intake → Intake) : (modifyIntake k f s).alc = s.alc := rfl
@[simp] theorem modifyIntake_sup (k : ServiceIx) (f : Intake → Intake) : (modifyIntake k f s).sup = s.sup := rfl
@[simp] theorem modifyIntake_cfl (k : ServiceIx) (f : Intake → Intake) : (modifyIntake k f s).cfl = s.cfl := rfl

/-! `modifySource` -/

@[simp] theorem modifySource_pending (i : SourceId) (f : Source → Source) :
    (modifySource i f s).pending = s.pending := rfl
@[simp] theorem modifySource_progress (i : SourceId) (f : Source → Source) :
    (modifySource i f s).progress = s.progress := rfl
@[simp] theorem modifySource_freeIx (i : SourceId) (f : Source → Source) : (modifySource i f s).freeIx = s.freeIx := rfl
@[simp] theorem modifySource_lines (i : SourceId) (f : Source → Source) : (modifySource i f s).lines = s.lines := rfl
@[simp] theorem modifySource_ftu (i : SourceId) (f : Source → Source) : (modifySource i f s).ftu = s.ftu := rfl
@[simp] theorem modifySource_ofr (i : SourceId) (f : Source → Source) : (modifySource i f s).ofr = s.ofr := rfl
@[simp] theorem modifySource_ple (i : SourceId) (f : Source → Source) : (modifySource i f s).ple = s.ple := rfl
@[simp] theorem modifySource_lkp (i : SourceId) (f : Source → Source) : (modifySource i f s).lkp = s.lkp := rfl
@[simp] theorem modifySource_pvw (i : SourceId) (f : Source → Source) : (modifySource i f s).pvw = s.pvw := rfl
@[simp] theorem modifySource_cpr (i : SourceId) (f : Source → Source) : (modifySource i f s).cpr = s.cpr := rfl
@[simp] theorem modifySource_asm (i : SourceId) (f : Source → Source) : (modifySource i f s).asm = s.asm := rfl
@[simp] theorem modifySource_sin (i : SourceId) (f : Source → Source) : (modifySource i f s).sin = s.sin := rfl
@[simp] theorem modifySource_txc (i : SourceId) (f : Source → Source) : (modifySource i f s).txc = s.txc := rfl
@[simp] theorem modifySource_pic (i : SourceId) (f : Source → Source) : (modifySource i f s).pic = s.pic := rfl
@[simp] theorem modifySource_sup (i : SourceId) (f : Source → Source) : (modifySource i f s).sup = s.sup := rfl
@[simp] theorem modifySource_cfl (i : SourceId) (f : Source → Source) : (modifySource i f s).cfl = s.cfl := rfl

/-! `driveAttention` -/

@[simp] theorem driveAttention_pending : (driveAttention s).pending = s.pending := rfl
@[simp] theorem driveAttention_progress : (driveAttention s).progress = s.progress := rfl
@[simp] theorem driveAttention_freeIx : (driveAttention s).freeIx = s.freeIx := rfl
@[simp] theorem driveAttention_lines : (driveAttention s).lines = s.lines := rfl
@[simp] theorem driveAttention_ftu : (driveAttention s).ftu = s.ftu := rfl
@[simp] theorem driveAttention_ofr : (driveAttention s).ofr = s.ofr := rfl
@[simp] theorem driveAttention_ple : (driveAttention s).ple = s.ple := rfl
@[simp] theorem driveAttention_lkp : (driveAttention s).lkp = s.lkp := rfl
@[simp] theorem driveAttention_pvw : (driveAttention s).pvw = s.pvw := rfl
@[simp] theorem driveAttention_cpr : (driveAttention s).cpr = s.cpr := rfl
@[simp] theorem driveAttention_asm : (driveAttention s).asm = s.asm := rfl
@[simp] theorem driveAttention_sin : (driveAttention s).sin = s.sin := rfl
@[simp] theorem driveAttention_txc : (driveAttention s).txc = s.txc := rfl
@[simp] theorem driveAttention_pic : (driveAttention s).pic = s.pic := rfl
@[simp] theorem driveAttention_alc : (driveAttention s).alc = s.alc := rfl
@[simp] theorem driveAttention_cfl : (driveAttention s).cfl = s.cfl := rfl

/-! `raiseFlag` -/

@[simp] theorem raiseFlag_pending (f : Flag) : (raiseFlag f s).pending = s.pending := rfl
@[simp] theorem raiseFlag_progress (f : Flag) : (raiseFlag f s).progress = s.progress := rfl
@[simp] theorem raiseFlag_freeIx (f : Flag) : (raiseFlag f s).freeIx = s.freeIx := rfl
@[simp] theorem raiseFlag_lines (f : Flag) : (raiseFlag f s).lines = s.lines := rfl
@[simp] theorem raiseFlag_ftu (f : Flag) : (raiseFlag f s).ftu = s.ftu := rfl
@[simp] theorem raiseFlag_ofr (f : Flag) : (raiseFlag f s).ofr = s.ofr := rfl
@[simp] theorem raiseFlag_ple (f : Flag) : (raiseFlag f s).ple = s.ple := rfl
@[simp] theorem raiseFlag_lkp (f : Flag) : (raiseFlag f s).lkp = s.lkp := rfl
@[simp] theorem raiseFlag_pvw (f : Flag) : (raiseFlag f s).pvw = s.pvw := rfl
@[simp] theorem raiseFlag_cpr (f : Flag) : (raiseFlag f s).cpr = s.cpr := rfl
@[simp] theorem raiseFlag_asm (f : Flag) : (raiseFlag f s).asm = s.asm := rfl
@[simp] theorem raiseFlag_sin (f : Flag) : (raiseFlag f s).sin = s.sin := rfl
@[simp] theorem raiseFlag_txc (f : Flag) : (raiseFlag f s).txc = s.txc := rfl
@[simp] theorem raiseFlag_pic (f : Flag) : (raiseFlag f s).pic = s.pic := rfl
@[simp] theorem raiseFlag_alc (f : Flag) : (raiseFlag f s).alc = s.alc := rfl
@[simp] theorem raiseFlag_cfl (f : Flag) : (raiseFlag f s).cfl = s.cfl := rfl

/-! `clearFlagSet` -/

@[simp] theorem clearFlagSet_pending (m : BitVec 24) : (clearFlagSet m s).pending = s.pending := rfl
@[simp] theorem clearFlagSet_progress (m : BitVec 24) : (clearFlagSet m s).progress = s.progress := rfl
@[simp] theorem clearFlagSet_freeIx (m : BitVec 24) : (clearFlagSet m s).freeIx = s.freeIx := rfl
@[simp] theorem clearFlagSet_lines (m : BitVec 24) : (clearFlagSet m s).lines = s.lines := rfl
@[simp] theorem clearFlagSet_ftu (m : BitVec 24) : (clearFlagSet m s).ftu = s.ftu := rfl
@[simp] theorem clearFlagSet_ofr (m : BitVec 24) : (clearFlagSet m s).ofr = s.ofr := rfl
@[simp] theorem clearFlagSet_ple (m : BitVec 24) : (clearFlagSet m s).ple = s.ple := rfl
@[simp] theorem clearFlagSet_lkp (m : BitVec 24) : (clearFlagSet m s).lkp = s.lkp := rfl
@[simp] theorem clearFlagSet_pvw (m : BitVec 24) : (clearFlagSet m s).pvw = s.pvw := rfl
@[simp] theorem clearFlagSet_cpr (m : BitVec 24) : (clearFlagSet m s).cpr = s.cpr := rfl
@[simp] theorem clearFlagSet_asm (m : BitVec 24) : (clearFlagSet m s).asm = s.asm := rfl
@[simp] theorem clearFlagSet_sin (m : BitVec 24) : (clearFlagSet m s).sin = s.sin := rfl
@[simp] theorem clearFlagSet_txc (m : BitVec 24) : (clearFlagSet m s).txc = s.txc := rfl
@[simp] theorem clearFlagSet_pic (m : BitVec 24) : (clearFlagSet m s).pic = s.pic := rfl
@[simp] theorem clearFlagSet_alc (m : BitVec 24) : (clearFlagSet m s).alc = s.alc := rfl
@[simp] theorem clearFlagSet_cfl (m : BitVec 24) : (clearFlagSet m s).cfl = s.cfl := rfl

/-! `holdImage` -/

@[simp] theorem holdImage_pending (i : Option Image) : (holdImage i s).pending = s.pending := rfl
@[simp] theorem holdImage_progress (i : Option Image) : (holdImage i s).progress = s.progress := rfl
@[simp] theorem holdImage_freeIx (i : Option Image) : (holdImage i s).freeIx = s.freeIx := rfl
@[simp] theorem holdImage_lines (i : Option Image) : (holdImage i s).lines = s.lines := rfl
@[simp] theorem holdImage_ftu (i : Option Image) : (holdImage i s).ftu = s.ftu := rfl
@[simp] theorem holdImage_ofr (i : Option Image) : (holdImage i s).ofr = s.ofr := rfl
@[simp] theorem holdImage_ple (i : Option Image) : (holdImage i s).ple = s.ple := rfl
@[simp] theorem holdImage_lkp (i : Option Image) : (holdImage i s).lkp = s.lkp := rfl
@[simp] theorem holdImage_pvw (i : Option Image) : (holdImage i s).pvw = s.pvw := rfl
@[simp] theorem holdImage_cpr (i : Option Image) : (holdImage i s).cpr = s.cpr := rfl
@[simp] theorem holdImage_asm (i : Option Image) : (holdImage i s).asm = s.asm := rfl
@[simp] theorem holdImage_sin (i : Option Image) : (holdImage i s).sin = s.sin := rfl
@[simp] theorem holdImage_txc (i : Option Image) : (holdImage i s).txc = s.txc := rfl
@[simp] theorem holdImage_pic (i : Option Image) : (holdImage i s).pic = s.pic := rfl
@[simp] theorem holdImage_alc (i : Option Image) : (holdImage i s).alc = s.alc := rfl

/-! `setUnit` -/

@[simp] theorem setUnit_pending (u : UnitState) : (setUnit u s).pending = s.pending := rfl
@[simp] theorem setUnit_progress (u : UnitState) : (setUnit u s).progress = s.progress := rfl
@[simp] theorem setUnit_freeIx (u : UnitState) : (setUnit u s).freeIx = s.freeIx := rfl
@[simp] theorem setUnit_lines (u : UnitState) : (setUnit u s).lines = s.lines := rfl
@[simp] theorem setUnit_ftu (u : UnitState) : (setUnit u s).ftu = s.ftu := rfl
@[simp] theorem setUnit_ofr (u : UnitState) : (setUnit u s).ofr = s.ofr := rfl
@[simp] theorem setUnit_ple (u : UnitState) : (setUnit u s).ple = s.ple := rfl
@[simp] theorem setUnit_lkp (u : UnitState) : (setUnit u s).lkp = s.lkp := rfl
@[simp] theorem setUnit_cpr (u : UnitState) : (setUnit u s).cpr = s.cpr := rfl
@[simp] theorem setUnit_asm (u : UnitState) : (setUnit u s).asm = s.asm := rfl
@[simp] theorem setUnit_sin (u : UnitState) : (setUnit u s).sin = s.sin := rfl
@[simp] theorem setUnit_txc (u : UnitState) : (setUnit u s).txc = s.txc := rfl
@[simp] theorem setUnit_pic (u : UnitState) : (setUnit u s).pic = s.pic := rfl
@[simp] theorem setUnit_alc (u : UnitState) : (setUnit u s).alc = s.alc := rfl
@[simp] theorem setUnit_sup (u : UnitState) : (setUnit u s).sup = s.sup := rfl
@[simp] theorem setUnit_cfl (u : UnitState) : (setUnit u s).cfl = s.cfl := rfl

/-! `clearView` -/

@[simp] theorem clearView_pending : (clearView s).pending = s.pending := rfl
@[simp] theorem clearView_progress : (clearView s).progress = s.progress := rfl
@[simp] theorem clearView_freeIx : (clearView s).freeIx = s.freeIx := rfl
@[simp] theorem clearView_lines : (clearView s).lines = s.lines := rfl
@[simp] theorem clearView_ftu : (clearView s).ftu = s.ftu := rfl
@[simp] theorem clearView_ofr : (clearView s).ofr = s.ofr := rfl
@[simp] theorem clearView_ple : (clearView s).ple = s.ple := rfl
@[simp] theorem clearView_lkp : (clearView s).lkp = s.lkp := rfl
@[simp] theorem clearView_cpr : (clearView s).cpr = s.cpr := rfl
@[simp] theorem clearView_asm : (clearView s).asm = s.asm := rfl
@[simp] theorem clearView_sin : (clearView s).sin = s.sin := rfl
@[simp] theorem clearView_txc : (clearView s).txc = s.txc := rfl
@[simp] theorem clearView_pic : (clearView s).pic = s.pic := rfl
@[simp] theorem clearView_alc : (clearView s).alc = s.alc := rfl
@[simp] theorem clearView_sup : (clearView s).sup = s.sup := rfl
@[simp] theorem clearView_cfl : (clearView s).cfl = s.cfl := rfl

/-! `emptyChain` -/

@[simp] theorem emptyChain_pending : (emptyChain s).pending = s.pending := rfl
@[simp] theorem emptyChain_progress : (emptyChain s).progress = s.progress := rfl
@[simp] theorem emptyChain_freeIx : (emptyChain s).freeIx = s.freeIx := rfl
@[simp] theorem emptyChain_lines : (emptyChain s).lines = s.lines := rfl
@[simp] theorem emptyChain_ftu : (emptyChain s).ftu = s.ftu := rfl
@[simp] theorem emptyChain_ofr : (emptyChain s).ofr = s.ofr := rfl
@[simp] theorem emptyChain_lkp : (emptyChain s).lkp = s.lkp := rfl
@[simp] theorem emptyChain_pvw : (emptyChain s).pvw = s.pvw := rfl
@[simp] theorem emptyChain_cpr : (emptyChain s).cpr = s.cpr := rfl
@[simp] theorem emptyChain_asm : (emptyChain s).asm = s.asm := rfl
@[simp] theorem emptyChain_sin : (emptyChain s).sin = s.sin := rfl
@[simp] theorem emptyChain_txc : (emptyChain s).txc = s.txc := rfl
@[simp] theorem emptyChain_pic : (emptyChain s).pic = s.pic := rfl
@[simp] theorem emptyChain_alc : (emptyChain s).alc = s.alc := rfl
@[simp] theorem emptyChain_sup : (emptyChain s).sup = s.sup := rfl
@[simp] theorem emptyChain_cfl : (emptyChain s).cfl = s.cfl := rfl

/-! `removeByState` -/

@[simp] theorem removeByState_pending (p : TxPacket → Bool) : (removeByState p s).pending = s.pending := rfl
@[simp] theorem removeByState_progress (p : TxPacket → Bool) : (removeByState p s).progress = s.progress := rfl
@[simp] theorem removeByState_freeIx (p : TxPacket → Bool) : (removeByState p s).freeIx = s.freeIx := rfl
@[simp] theorem removeByState_lines (p : TxPacket → Bool) : (removeByState p s).lines = s.lines := rfl
@[simp] theorem removeByState_ftu (p : TxPacket → Bool) : (removeByState p s).ftu = s.ftu := rfl
@[simp] theorem removeByState_ofr (p : TxPacket → Bool) : (removeByState p s).ofr = s.ofr := rfl
@[simp] theorem removeByState_ple (p : TxPacket → Bool) : (removeByState p s).ple = s.ple := rfl
@[simp] theorem removeByState_pvw (p : TxPacket → Bool) : (removeByState p s).pvw = s.pvw := rfl
@[simp] theorem removeByState_cpr (p : TxPacket → Bool) : (removeByState p s).cpr = s.cpr := rfl
@[simp] theorem removeByState_asm (p : TxPacket → Bool) : (removeByState p s).asm = s.asm := rfl
@[simp] theorem removeByState_sin (p : TxPacket → Bool) : (removeByState p s).sin = s.sin := rfl
@[simp] theorem removeByState_txc (p : TxPacket → Bool) : (removeByState p s).txc = s.txc := rfl
@[simp] theorem removeByState_pic (p : TxPacket → Bool) : (removeByState p s).pic = s.pic := rfl
@[simp] theorem removeByState_alc (p : TxPacket → Bool) : (removeByState p s).alc = s.alc := rfl
@[simp] theorem removeByState_sup (p : TxPacket → Bool) : (removeByState p s).sup = s.sup := rfl
@[simp] theorem removeByState_cfl (p : TxPacket → Bool) : (removeByState p s).cfl = s.cfl := rfl

/-! `setSlot` -/

@[simp] theorem setSlot_pending (n : FrameNo) (x : FrameSlot) : (setSlot n x s).pending = s.pending := rfl
@[simp] theorem setSlot_progress (n : FrameNo) (x : FrameSlot) : (setSlot n x s).progress = s.progress := rfl
@[simp] theorem setSlot_freeIx (n : FrameNo) (x : FrameSlot) : (setSlot n x s).freeIx = s.freeIx := rfl
@[simp] theorem setSlot_lines (n : FrameNo) (x : FrameSlot) : (setSlot n x s).lines = s.lines := rfl
@[simp] theorem setSlot_ftu (n : FrameNo) (x : FrameSlot) : (setSlot n x s).ftu = s.ftu := rfl
@[simp] theorem setSlot_ofr (n : FrameNo) (x : FrameSlot) : (setSlot n x s).ofr = s.ofr := rfl
@[simp] theorem setSlot_ple (n : FrameNo) (x : FrameSlot) : (setSlot n x s).ple = s.ple := rfl
@[simp] theorem setSlot_lkp (n : FrameNo) (x : FrameSlot) : (setSlot n x s).lkp = s.lkp := rfl
@[simp] theorem setSlot_pvw (n : FrameNo) (x : FrameSlot) : (setSlot n x s).pvw = s.pvw := rfl
@[simp] theorem setSlot_cpr (n : FrameNo) (x : FrameSlot) : (setSlot n x s).cpr = s.cpr := rfl
@[simp] theorem setSlot_sin (n : FrameNo) (x : FrameSlot) : (setSlot n x s).sin = s.sin := rfl
@[simp] theorem setSlot_txc (n : FrameNo) (x : FrameSlot) : (setSlot n x s).txc = s.txc := rfl
@[simp] theorem setSlot_pic (n : FrameNo) (x : FrameSlot) : (setSlot n x s).pic = s.pic := rfl
@[simp] theorem setSlot_alc (n : FrameNo) (x : FrameSlot) : (setSlot n x s).alc = s.alc := rfl
@[simp] theorem setSlot_sup (n : FrameNo) (x : FrameSlot) : (setSlot n x s).sup = s.sup := rfl
@[simp] theorem setSlot_cfl (n : FrameNo) (x : FrameSlot) : (setSlot n x s).cfl = s.cfl := rfl

/-! `countAsm` -/

@[simp] theorem countAsm_pending (f : AsmCounters → AsmCounters) : (countAsm f s).pending = s.pending := rfl
@[simp] theorem countAsm_progress (f : AsmCounters → AsmCounters) : (countAsm f s).progress = s.progress := rfl
@[simp] theorem countAsm_freeIx (f : AsmCounters → AsmCounters) : (countAsm f s).freeIx = s.freeIx := rfl
@[simp] theorem countAsm_lines (f : AsmCounters → AsmCounters) : (countAsm f s).lines = s.lines := rfl
@[simp] theorem countAsm_ftu (f : AsmCounters → AsmCounters) : (countAsm f s).ftu = s.ftu := rfl
@[simp] theorem countAsm_ofr (f : AsmCounters → AsmCounters) : (countAsm f s).ofr = s.ofr := rfl
@[simp] theorem countAsm_ple (f : AsmCounters → AsmCounters) : (countAsm f s).ple = s.ple := rfl
@[simp] theorem countAsm_lkp (f : AsmCounters → AsmCounters) : (countAsm f s).lkp = s.lkp := rfl
@[simp] theorem countAsm_pvw (f : AsmCounters → AsmCounters) : (countAsm f s).pvw = s.pvw := rfl
@[simp] theorem countAsm_cpr (f : AsmCounters → AsmCounters) : (countAsm f s).cpr = s.cpr := rfl
@[simp] theorem countAsm_sin (f : AsmCounters → AsmCounters) : (countAsm f s).sin = s.sin := rfl
@[simp] theorem countAsm_txc (f : AsmCounters → AsmCounters) : (countAsm f s).txc = s.txc := rfl
@[simp] theorem countAsm_pic (f : AsmCounters → AsmCounters) : (countAsm f s).pic = s.pic := rfl
@[simp] theorem countAsm_alc (f : AsmCounters → AsmCounters) : (countAsm f s).alc = s.alc := rfl
@[simp] theorem countAsm_sup (f : AsmCounters → AsmCounters) : (countAsm f s).sup = s.sup := rfl
@[simp] theorem countAsm_cfl (f : AsmCounters → AsmCounters) : (countAsm f s).cfl = s.cfl := rfl

/-! `clearStore` -/

@[simp] theorem clearStore_pending : (clearStore s).pending = s.pending := rfl
@[simp] theorem clearStore_progress : (clearStore s).progress = s.progress := rfl
@[simp] theorem clearStore_freeIx : (clearStore s).freeIx = s.freeIx := rfl
@[simp] theorem clearStore_lines : (clearStore s).lines = s.lines := rfl
@[simp] theorem clearStore_ftu : (clearStore s).ftu = s.ftu := rfl
@[simp] theorem clearStore_ofr : (clearStore s).ofr = s.ofr := rfl
@[simp] theorem clearStore_ple : (clearStore s).ple = s.ple := rfl
@[simp] theorem clearStore_lkp : (clearStore s).lkp = s.lkp := rfl
@[simp] theorem clearStore_pvw : (clearStore s).pvw = s.pvw := rfl
@[simp] theorem clearStore_sin : (clearStore s).sin = s.sin := rfl
@[simp] theorem clearStore_txc : (clearStore s).txc = s.txc := rfl
@[simp] theorem clearStore_pic : (clearStore s).pic = s.pic := rfl
@[simp] theorem clearStore_alc : (clearStore s).alc = s.alc := rfl
@[simp] theorem clearStore_sup : (clearStore s).sup = s.sup := rfl
@[simp] theorem clearStore_cfl : (clearStore s).cfl = s.cfl := rfl

/-! `countPic` -/

@[simp] theorem countPic_pending (k : ServiceIx) (f : PicCounters → PicCounters) :
    (countPic k f s).pending = s.pending := rfl
@[simp] theorem countPic_progress (k : ServiceIx) (f : PicCounters → PicCounters) :
    (countPic k f s).progress = s.progress := rfl
@[simp] theorem countPic_freeIx (k : ServiceIx) (f : PicCounters → PicCounters) :
    (countPic k f s).freeIx = s.freeIx := rfl
@[simp] theorem countPic_lines (k : ServiceIx) (f : PicCounters → PicCounters) : (countPic k f s).lines = s.lines := rfl
@[simp] theorem countPic_ftu (k : ServiceIx) (f : PicCounters → PicCounters) : (countPic k f s).ftu = s.ftu := rfl
@[simp] theorem countPic_ofr (k : ServiceIx) (f : PicCounters → PicCounters) : (countPic k f s).ofr = s.ofr := rfl
@[simp] theorem countPic_ple (k : ServiceIx) (f : PicCounters → PicCounters) : (countPic k f s).ple = s.ple := rfl
@[simp] theorem countPic_lkp (k : ServiceIx) (f : PicCounters → PicCounters) : (countPic k f s).lkp = s.lkp := rfl
@[simp] theorem countPic_pvw (k : ServiceIx) (f : PicCounters → PicCounters) : (countPic k f s).pvw = s.pvw := rfl
@[simp] theorem countPic_cpr (k : ServiceIx) (f : PicCounters → PicCounters) : (countPic k f s).cpr = s.cpr := rfl
@[simp] theorem countPic_asm (k : ServiceIx) (f : PicCounters → PicCounters) : (countPic k f s).asm = s.asm := rfl
@[simp] theorem countPic_sin (k : ServiceIx) (f : PicCounters → PicCounters) : (countPic k f s).sin = s.sin := rfl
@[simp] theorem countPic_txc (k : ServiceIx) (f : PicCounters → PicCounters) : (countPic k f s).txc = s.txc := rfl
@[simp] theorem countPic_alc (k : ServiceIx) (f : PicCounters → PicCounters) : (countPic k f s).alc = s.alc := rfl
@[simp] theorem countPic_sup (k : ServiceIx) (f : PicCounters → PicCounters) : (countPic k f s).sup = s.sup := rfl
@[simp] theorem countPic_cfl (k : ServiceIx) (f : PicCounters → PicCounters) : (countPic k f s).cfl = s.cfl := rfl

/-! `modifyObject` -/

@[simp] theorem modifyObject_pending (k : ServiceIx) (o : ObjectId) (f : PicRecord → PicRecord) :
    (modifyObject k o f s).pending = s.pending := rfl
@[simp] theorem modifyObject_progress (k : ServiceIx) (o : ObjectId) (f : PicRecord → PicRecord) :
    (modifyObject k o f s).progress = s.progress := rfl
@[simp] theorem modifyObject_freeIx (k : ServiceIx) (o : ObjectId) (f : PicRecord → PicRecord) :
    (modifyObject k o f s).freeIx = s.freeIx := rfl
@[simp] theorem modifyObject_lines (k : ServiceIx) (o : ObjectId) (f : PicRecord → PicRecord) :
    (modifyObject k o f s).lines = s.lines := rfl
@[simp] theorem modifyObject_ftu (k : ServiceIx) (o : ObjectId) (f : PicRecord → PicRecord) :
    (modifyObject k o f s).ftu = s.ftu := rfl
@[simp] theorem modifyObject_ofr (k : ServiceIx) (o : ObjectId) (f : PicRecord → PicRecord) :
    (modifyObject k o f s).ofr = s.ofr := rfl
@[simp] theorem modifyObject_ple (k : ServiceIx) (o : ObjectId) (f : PicRecord → PicRecord) :
    (modifyObject k o f s).ple = s.ple := rfl
@[simp] theorem modifyObject_lkp (k : ServiceIx) (o : ObjectId) (f : PicRecord → PicRecord) :
    (modifyObject k o f s).lkp = s.lkp := rfl
@[simp] theorem modifyObject_pvw (k : ServiceIx) (o : ObjectId) (f : PicRecord → PicRecord) :
    (modifyObject k o f s).pvw = s.pvw := rfl
@[simp] theorem modifyObject_cpr (k : ServiceIx) (o : ObjectId) (f : PicRecord → PicRecord) :
    (modifyObject k o f s).cpr = s.cpr := rfl
@[simp] theorem modifyObject_asm (k : ServiceIx) (o : ObjectId) (f : PicRecord → PicRecord) :
    (modifyObject k o f s).asm = s.asm := rfl
@[simp] theorem modifyObject_sin (k : ServiceIx) (o : ObjectId) (f : PicRecord → PicRecord) :
    (modifyObject k o f s).sin = s.sin := rfl
@[simp] theorem modifyObject_txc (k : ServiceIx) (o : ObjectId) (f : PicRecord → PicRecord) :
    (modifyObject k o f s).txc = s.txc := rfl
@[simp] theorem modifyObject_alc (k : ServiceIx) (o : ObjectId) (f : PicRecord → PicRecord) :
    (modifyObject k o f s).alc = s.alc := rfl
@[simp] theorem modifyObject_sup (k : ServiceIx) (o : ObjectId) (f : PicRecord → PicRecord) :
    (modifyObject k o f s).sup = s.sup := rfl
@[simp] theorem modifyObject_cfl (k : ServiceIx) (o : ObjectId) (f : PicRecord → PicRecord) :
    (modifyObject k o f s).cfl = s.cfl := rfl

/-! `removeObject` -/

@[simp] theorem removeObject_pending (k : ServiceIx) (o : ObjectId) : (removeObject k o s).pending = s.pending := rfl
@[simp] theorem removeObject_progress (k : ServiceIx) (o : ObjectId) : (removeObject k o s).progress = s.progress := rfl
@[simp] theorem removeObject_freeIx (k : ServiceIx) (o : ObjectId) : (removeObject k o s).freeIx = s.freeIx := rfl
@[simp] theorem removeObject_lines (k : ServiceIx) (o : ObjectId) : (removeObject k o s).lines = s.lines := rfl
@[simp] theorem removeObject_ftu (k : ServiceIx) (o : ObjectId) : (removeObject k o s).ftu = s.ftu := rfl
@[simp] theorem removeObject_ofr (k : ServiceIx) (o : ObjectId) : (removeObject k o s).ofr = s.ofr := rfl
@[simp] theorem removeObject_ple (k : ServiceIx) (o : ObjectId) : (removeObject k o s).ple = s.ple := rfl
@[simp] theorem removeObject_lkp (k : ServiceIx) (o : ObjectId) : (removeObject k o s).lkp = s.lkp := rfl
@[simp] theorem removeObject_pvw (k : ServiceIx) (o : ObjectId) : (removeObject k o s).pvw = s.pvw := rfl
@[simp] theorem removeObject_cpr (k : ServiceIx) (o : ObjectId) : (removeObject k o s).cpr = s.cpr := rfl
@[simp] theorem removeObject_asm (k : ServiceIx) (o : ObjectId) : (removeObject k o s).asm = s.asm := rfl
@[simp] theorem removeObject_sin (k : ServiceIx) (o : ObjectId) : (removeObject k o s).sin = s.sin := rfl
@[simp] theorem removeObject_txc (k : ServiceIx) (o : ObjectId) : (removeObject k o s).txc = s.txc := rfl
@[simp] theorem removeObject_alc (k : ServiceIx) (o : ObjectId) : (removeObject k o s).alc = s.alc := rfl
@[simp] theorem removeObject_sup (k : ServiceIx) (o : ObjectId) : (removeObject k o s).sup = s.sup := rfl
@[simp] theorem removeObject_cfl (k : ServiceIx) (o : ObjectId) : (removeObject k o s).cfl = s.cfl := rfl

/-! `modifyRecord` -/

@[simp] theorem modifyRecord_pending (i : AlertId) (f : AlertRecord → AlertRecord) :
    (modifyRecord i f s).pending = s.pending := rfl
@[simp] theorem modifyRecord_progress (i : AlertId) (f : AlertRecord → AlertRecord) :
    (modifyRecord i f s).progress = s.progress := rfl
@[simp] theorem modifyRecord_freeIx (i : AlertId) (f : AlertRecord → AlertRecord) :
    (modifyRecord i f s).freeIx = s.freeIx := rfl
@[simp] theorem modifyRecord_lines (i : AlertId) (f : AlertRecord → AlertRecord) :
    (modifyRecord i f s).lines = s.lines := rfl
@[simp] theorem modifyRecord_ftu (i : AlertId) (f : AlertRecord → AlertRecord) : (modifyRecord i f s).ftu = s.ftu := rfl
@[simp] theorem modifyRecord_ofr (i : AlertId) (f : AlertRecord → AlertRecord) : (modifyRecord i f s).ofr = s.ofr := rfl
@[simp] theorem modifyRecord_ple (i : AlertId) (f : AlertRecord → AlertRecord) : (modifyRecord i f s).ple = s.ple := rfl
@[simp] theorem modifyRecord_lkp (i : AlertId) (f : AlertRecord → AlertRecord) : (modifyRecord i f s).lkp = s.lkp := rfl
@[simp] theorem modifyRecord_pvw (i : AlertId) (f : AlertRecord → AlertRecord) : (modifyRecord i f s).pvw = s.pvw := rfl
@[simp] theorem modifyRecord_cpr (i : AlertId) (f : AlertRecord → AlertRecord) : (modifyRecord i f s).cpr = s.cpr := rfl
@[simp] theorem modifyRecord_asm (i : AlertId) (f : AlertRecord → AlertRecord) : (modifyRecord i f s).asm = s.asm := rfl
@[simp] theorem modifyRecord_sin (i : AlertId) (f : AlertRecord → AlertRecord) : (modifyRecord i f s).sin = s.sin := rfl
@[simp] theorem modifyRecord_txc (i : AlertId) (f : AlertRecord → AlertRecord) : (modifyRecord i f s).txc = s.txc := rfl
@[simp] theorem modifyRecord_pic (i : AlertId) (f : AlertRecord → AlertRecord) : (modifyRecord i f s).pic = s.pic := rfl
@[simp] theorem modifyRecord_sup (i : AlertId) (f : AlertRecord → AlertRecord) : (modifyRecord i f s).sup = s.sup := rfl
@[simp] theorem modifyRecord_cfl (i : AlertId) (f : AlertRecord → AlertRecord) : (modifyRecord i f s).cfl = s.cfl := rfl

/-! `setRaised` -/

@[simp] theorem setRaised_pending (i : SourceId) (b : Bool) : (setRaised i b s).pending = s.pending := rfl
@[simp] theorem setRaised_progress (i : SourceId) (b : Bool) : (setRaised i b s).progress = s.progress := rfl
@[simp] theorem setRaised_freeIx (i : SourceId) (b : Bool) : (setRaised i b s).freeIx = s.freeIx := rfl
@[simp] theorem setRaised_lines (i : SourceId) (b : Bool) : (setRaised i b s).lines = s.lines := rfl
@[simp] theorem setRaised_ftu (i : SourceId) (b : Bool) : (setRaised i b s).ftu = s.ftu := rfl
@[simp] theorem setRaised_ofr (i : SourceId) (b : Bool) : (setRaised i b s).ofr = s.ofr := rfl
@[simp] theorem setRaised_ple (i : SourceId) (b : Bool) : (setRaised i b s).ple = s.ple := rfl
@[simp] theorem setRaised_lkp (i : SourceId) (b : Bool) : (setRaised i b s).lkp = s.lkp := rfl
@[simp] theorem setRaised_pvw (i : SourceId) (b : Bool) : (setRaised i b s).pvw = s.pvw := rfl
@[simp] theorem setRaised_cpr (i : SourceId) (b : Bool) : (setRaised i b s).cpr = s.cpr := rfl
@[simp] theorem setRaised_asm (i : SourceId) (b : Bool) : (setRaised i b s).asm = s.asm := rfl
@[simp] theorem setRaised_sin (i : SourceId) (b : Bool) : (setRaised i b s).sin = s.sin := rfl
@[simp] theorem setRaised_txc (i : SourceId) (b : Bool) : (setRaised i b s).txc = s.txc := rfl
@[simp] theorem setRaised_pic (i : SourceId) (b : Bool) : (setRaised i b s).pic = s.pic := rfl
@[simp] theorem setRaised_sup (i : SourceId) (b : Bool) : (setRaised i b s).sup = s.sup := rfl
@[simp] theorem setRaised_cfl (i : SourceId) (b : Bool) : (setRaised i b s).cfl = s.cfl := rfl

/-! `clearLocal` -/

@[simp] theorem clearLocal_pending : (clearLocal s).pending = s.pending := rfl
@[simp] theorem clearLocal_progress : (clearLocal s).progress = s.progress := rfl
@[simp] theorem clearLocal_freeIx : (clearLocal s).freeIx = s.freeIx := rfl
@[simp] theorem clearLocal_lines : (clearLocal s).lines = s.lines := rfl
@[simp] theorem clearLocal_ftu : (clearLocal s).ftu = s.ftu := rfl
@[simp] theorem clearLocal_ofr : (clearLocal s).ofr = s.ofr := rfl
@[simp] theorem clearLocal_ple : (clearLocal s).ple = s.ple := rfl
@[simp] theorem clearLocal_lkp : (clearLocal s).lkp = s.lkp := rfl
@[simp] theorem clearLocal_pvw : (clearLocal s).pvw = s.pvw := rfl
@[simp] theorem clearLocal_cpr : (clearLocal s).cpr = s.cpr := rfl
@[simp] theorem clearLocal_asm : (clearLocal s).asm = s.asm := rfl
@[simp] theorem clearLocal_sin : (clearLocal s).sin = s.sin := rfl
@[simp] theorem clearLocal_txc : (clearLocal s).txc = s.txc := rfl
@[simp] theorem clearLocal_pic : (clearLocal s).pic = s.pic := rfl
@[simp] theorem clearLocal_sup : (clearLocal s).sup = s.sup := rfl
@[simp] theorem clearLocal_cfl : (clearLocal s).cfl = s.cfl := rfl

/-! `dropLocal` -/

@[simp] theorem dropLocal_pending : (dropLocal s).pending = s.pending := rfl
@[simp] theorem dropLocal_progress : (dropLocal s).progress = s.progress := rfl
@[simp] theorem dropLocal_freeIx : (dropLocal s).freeIx = s.freeIx := rfl
@[simp] theorem dropLocal_lines : (dropLocal s).lines = s.lines := rfl
@[simp] theorem dropLocal_ftu : (dropLocal s).ftu = s.ftu := rfl
@[simp] theorem dropLocal_ofr : (dropLocal s).ofr = s.ofr := rfl
@[simp] theorem dropLocal_ple : (dropLocal s).ple = s.ple := rfl
@[simp] theorem dropLocal_lkp : (dropLocal s).lkp = s.lkp := rfl
@[simp] theorem dropLocal_pvw : (dropLocal s).pvw = s.pvw := rfl
@[simp] theorem dropLocal_cpr : (dropLocal s).cpr = s.cpr := rfl
@[simp] theorem dropLocal_asm : (dropLocal s).asm = s.asm := rfl
@[simp] theorem dropLocal_sin : (dropLocal s).sin = s.sin := rfl
@[simp] theorem dropLocal_txc : (dropLocal s).txc = s.txc := rfl
@[simp] theorem dropLocal_pic : (dropLocal s).pic = s.pic := rfl
@[simp] theorem dropLocal_sup : (dropLocal s).sup = s.sup := rfl
@[simp] theorem dropLocal_cfl : (dropLocal s).cfl = s.cfl := rfl

/-! `emptyAlerts` -/

@[simp] theorem emptyAlerts_pending : (emptyAlerts s).pending = s.pending := rfl
@[simp] theorem emptyAlerts_progress : (emptyAlerts s).progress = s.progress := rfl
@[simp] theorem emptyAlerts_freeIx : (emptyAlerts s).freeIx = s.freeIx := rfl
@[simp] theorem emptyAlerts_lines : (emptyAlerts s).lines = s.lines := rfl
@[simp] theorem emptyAlerts_ftu : (emptyAlerts s).ftu = s.ftu := rfl
@[simp] theorem emptyAlerts_ofr : (emptyAlerts s).ofr = s.ofr := rfl
@[simp] theorem emptyAlerts_ple : (emptyAlerts s).ple = s.ple := rfl
@[simp] theorem emptyAlerts_lkp : (emptyAlerts s).lkp = s.lkp := rfl
@[simp] theorem emptyAlerts_pvw : (emptyAlerts s).pvw = s.pvw := rfl
@[simp] theorem emptyAlerts_cpr : (emptyAlerts s).cpr = s.cpr := rfl
@[simp] theorem emptyAlerts_asm : (emptyAlerts s).asm = s.asm := rfl
@[simp] theorem emptyAlerts_sin : (emptyAlerts s).sin = s.sin := rfl
@[simp] theorem emptyAlerts_txc : (emptyAlerts s).txc = s.txc := rfl
@[simp] theorem emptyAlerts_pic : (emptyAlerts s).pic = s.pic := rfl
@[simp] theorem emptyAlerts_sup : (emptyAlerts s).sup = s.sup := rfl
@[simp] theorem emptyAlerts_cfl : (emptyAlerts s).cfl = s.cfl := rfl

/-! `noticeRemoval` -/

@[simp] theorem noticeRemoval_pending (u : UnitId) (f : FrameNo) : (noticeRemoval u f s).pending = s.pending := rfl
@[simp] theorem noticeRemoval_progress (u : UnitId) (f : FrameNo) : (noticeRemoval u f s).progress = s.progress := rfl
@[simp] theorem noticeRemoval_freeIx (u : UnitId) (f : FrameNo) : (noticeRemoval u f s).freeIx = s.freeIx := rfl
@[simp] theorem noticeRemoval_lines (u : UnitId) (f : FrameNo) : (noticeRemoval u f s).lines = s.lines := rfl
@[simp] theorem noticeRemoval_ftu (u : UnitId) (f : FrameNo) : (noticeRemoval u f s).ftu = s.ftu := rfl
@[simp] theorem noticeRemoval_ofr (u : UnitId) (f : FrameNo) : (noticeRemoval u f s).ofr = s.ofr := rfl
@[simp] theorem noticeRemoval_ple (u : UnitId) (f : FrameNo) : (noticeRemoval u f s).ple = s.ple := rfl
@[simp] theorem noticeRemoval_lkp (u : UnitId) (f : FrameNo) : (noticeRemoval u f s).lkp = s.lkp := rfl
@[simp] theorem noticeRemoval_pvw (u : UnitId) (f : FrameNo) : (noticeRemoval u f s).pvw = s.pvw := rfl
@[simp] theorem noticeRemoval_cpr (u : UnitId) (f : FrameNo) : (noticeRemoval u f s).cpr = s.cpr := rfl
@[simp] theorem noticeRemoval_asm (u : UnitId) (f : FrameNo) : (noticeRemoval u f s).asm = s.asm := rfl
@[simp] theorem noticeRemoval_sin (u : UnitId) (f : FrameNo) : (noticeRemoval u f s).sin = s.sin := rfl
@[simp] theorem noticeRemoval_txc (u : UnitId) (f : FrameNo) : (noticeRemoval u f s).txc = s.txc := rfl
@[simp] theorem noticeRemoval_pic (u : UnitId) (f : FrameNo) : (noticeRemoval u f s).pic = s.pic := rfl
@[simp] theorem noticeRemoval_sup (u : UnitId) (f : FrameNo) : (noticeRemoval u f s).sup = s.sup := rfl
@[simp] theorem noticeRemoval_cfl (u : UnitId) (f : FrameNo) : (noticeRemoval u f s).cfl = s.cfl := rfl

/-! `noticeCancelled` -/

@[simp] theorem noticeCancelled_pending (u : UnitId) : (noticeCancelled u s).pending = s.pending := rfl
@[simp] theorem noticeCancelled_progress (u : UnitId) : (noticeCancelled u s).progress = s.progress := rfl
@[simp] theorem noticeCancelled_freeIx (u : UnitId) : (noticeCancelled u s).freeIx = s.freeIx := rfl
@[simp] theorem noticeCancelled_lines (u : UnitId) : (noticeCancelled u s).lines = s.lines := rfl
@[simp] theorem noticeCancelled_ftu (u : UnitId) : (noticeCancelled u s).ftu = s.ftu := rfl
@[simp] theorem noticeCancelled_ofr (u : UnitId) : (noticeCancelled u s).ofr = s.ofr := rfl
@[simp] theorem noticeCancelled_ple (u : UnitId) : (noticeCancelled u s).ple = s.ple := rfl
@[simp] theorem noticeCancelled_lkp (u : UnitId) : (noticeCancelled u s).lkp = s.lkp := rfl
@[simp] theorem noticeCancelled_pvw (u : UnitId) : (noticeCancelled u s).pvw = s.pvw := rfl
@[simp] theorem noticeCancelled_cpr (u : UnitId) : (noticeCancelled u s).cpr = s.cpr := rfl
@[simp] theorem noticeCancelled_asm (u : UnitId) : (noticeCancelled u s).asm = s.asm := rfl
@[simp] theorem noticeCancelled_sin (u : UnitId) : (noticeCancelled u s).sin = s.sin := rfl
@[simp] theorem noticeCancelled_txc (u : UnitId) : (noticeCancelled u s).txc = s.txc := rfl
@[simp] theorem noticeCancelled_pic (u : UnitId) : (noticeCancelled u s).pic = s.pic := rfl
@[simp] theorem noticeCancelled_sup (u : UnitId) : (noticeCancelled u s).sup = s.sup := rfl
@[simp] theorem noticeCancelled_cfl (u : UnitId) : (noticeCancelled u s).cfl = s.cfl := rfl

/-! `removeSlot` -/

@[simp] theorem removeSlot_pending (u : UnitId) : (removeSlot u s).pending = s.pending := rfl
@[simp] theorem removeSlot_progress (u : UnitId) : (removeSlot u s).progress = s.progress := rfl
@[simp] theorem removeSlot_freeIx (u : UnitId) : (removeSlot u s).freeIx = s.freeIx := rfl
@[simp] theorem removeSlot_lines (u : UnitId) : (removeSlot u s).lines = s.lines := rfl
@[simp] theorem removeSlot_ftu (u : UnitId) : (removeSlot u s).ftu = s.ftu := rfl
@[simp] theorem removeSlot_ofr (u : UnitId) : (removeSlot u s).ofr = s.ofr := rfl
@[simp] theorem removeSlot_ple (u : UnitId) : (removeSlot u s).ple = s.ple := rfl
@[simp] theorem removeSlot_lkp (u : UnitId) : (removeSlot u s).lkp = s.lkp := rfl
@[simp] theorem removeSlot_cpr (u : UnitId) : (removeSlot u s).cpr = s.cpr := rfl
@[simp] theorem removeSlot_asm (u : UnitId) : (removeSlot u s).asm = s.asm := rfl
@[simp] theorem removeSlot_sin (u : UnitId) : (removeSlot u s).sin = s.sin := rfl
@[simp] theorem removeSlot_txc (u : UnitId) : (removeSlot u s).txc = s.txc := rfl
@[simp] theorem removeSlot_pic (u : UnitId) : (removeSlot u s).pic = s.pic := rfl
@[simp] theorem removeSlot_sup (u : UnitId) : (removeSlot u s).sup = s.sup := rfl
@[simp] theorem removeSlot_cfl (u : UnitId) : (removeSlot u s).cfl = s.cfl := rfl

/-! `pendOwn` -/

@[simp] theorem pendOwn_pending (c : FramedClaim) : (pendOwn c s).pending = s.pending := rfl
@[simp] theorem pendOwn_progress (c : FramedClaim) : (pendOwn c s).progress = s.progress := rfl
@[simp] theorem pendOwn_freeIx (c : FramedClaim) : (pendOwn c s).freeIx = s.freeIx := rfl
@[simp] theorem pendOwn_lines (c : FramedClaim) : (pendOwn c s).lines = s.lines := rfl
@[simp] theorem pendOwn_ftu (c : FramedClaim) : (pendOwn c s).ftu = s.ftu := rfl
@[simp] theorem pendOwn_ofr (c : FramedClaim) : (pendOwn c s).ofr = s.ofr := rfl
@[simp] theorem pendOwn_ple (c : FramedClaim) : (pendOwn c s).ple = s.ple := rfl
@[simp] theorem pendOwn_lkp (c : FramedClaim) : (pendOwn c s).lkp = s.lkp := rfl
@[simp] theorem pendOwn_cpr (c : FramedClaim) : (pendOwn c s).cpr = s.cpr := rfl
@[simp] theorem pendOwn_asm (c : FramedClaim) : (pendOwn c s).asm = s.asm := rfl
@[simp] theorem pendOwn_sin (c : FramedClaim) : (pendOwn c s).sin = s.sin := rfl
@[simp] theorem pendOwn_txc (c : FramedClaim) : (pendOwn c s).txc = s.txc := rfl
@[simp] theorem pendOwn_pic (c : FramedClaim) : (pendOwn c s).pic = s.pic := rfl
@[simp] theorem pendOwn_alc (c : FramedClaim) : (pendOwn c s).alc = s.alc := rfl
@[simp] theorem pendOwn_sup (c : FramedClaim) : (pendOwn c s).sup = s.sup := rfl
@[simp] theorem pendOwn_cfl (c : FramedClaim) : (pendOwn c s).cfl = s.cfl := rfl

/-! `countPort` -/

@[simp] theorem countPort_pending (p : PortId) (f : PortCounters → PortCounters) :
    (countPort p f s).pending = s.pending := rfl
@[simp] theorem countPort_progress (p : PortId) (f : PortCounters → PortCounters) :
    (countPort p f s).progress = s.progress := rfl
@[simp] theorem countPort_freeIx (p : PortId) (f : PortCounters → PortCounters) :
    (countPort p f s).freeIx = s.freeIx := rfl
@[simp] theorem countPort_lines (p : PortId) (f : PortCounters → PortCounters) :
    (countPort p f s).lines = s.lines := rfl
@[simp] theorem countPort_ftu (p : PortId) (f : PortCounters → PortCounters) : (countPort p f s).ftu = s.ftu := rfl
@[simp] theorem countPort_ofr (p : PortId) (f : PortCounters → PortCounters) : (countPort p f s).ofr = s.ofr := rfl
@[simp] theorem countPort_ple (p : PortId) (f : PortCounters → PortCounters) : (countPort p f s).ple = s.ple := rfl
@[simp] theorem countPort_lkp (p : PortId) (f : PortCounters → PortCounters) : (countPort p f s).lkp = s.lkp := rfl
@[simp] theorem countPort_pvw (p : PortId) (f : PortCounters → PortCounters) : (countPort p f s).pvw = s.pvw := rfl
@[simp] theorem countPort_cpr (p : PortId) (f : PortCounters → PortCounters) : (countPort p f s).cpr = s.cpr := rfl
@[simp] theorem countPort_asm (p : PortId) (f : PortCounters → PortCounters) : (countPort p f s).asm = s.asm := rfl
@[simp] theorem countPort_txc (p : PortId) (f : PortCounters → PortCounters) : (countPort p f s).txc = s.txc := rfl
@[simp] theorem countPort_pic (p : PortId) (f : PortCounters → PortCounters) : (countPort p f s).pic = s.pic := rfl
@[simp] theorem countPort_alc (p : PortId) (f : PortCounters → PortCounters) : (countPort p f s).alc = s.alc := rfl
@[simp] theorem countPort_sup (p : PortId) (f : PortCounters → PortCounters) : (countPort p f s).sup = s.sup := rfl
@[simp] theorem countPort_cfl (p : PortId) (f : PortCounters → PortCounters) : (countPort p f s).cfl = s.cfl := rfl

/-! `ignorePacket` -/

@[simp] theorem ignorePacket_pending : (ignorePacket s).pending = s.pending := rfl
@[simp] theorem ignorePacket_progress : (ignorePacket s).progress = s.progress := rfl
@[simp] theorem ignorePacket_freeIx : (ignorePacket s).freeIx = s.freeIx := rfl
@[simp] theorem ignorePacket_lines : (ignorePacket s).lines = s.lines := rfl
@[simp] theorem ignorePacket_ftu : (ignorePacket s).ftu = s.ftu := rfl
@[simp] theorem ignorePacket_ofr : (ignorePacket s).ofr = s.ofr := rfl
@[simp] theorem ignorePacket_ple : (ignorePacket s).ple = s.ple := rfl
@[simp] theorem ignorePacket_lkp : (ignorePacket s).lkp = s.lkp := rfl
@[simp] theorem ignorePacket_cpr : (ignorePacket s).cpr = s.cpr := rfl
@[simp] theorem ignorePacket_asm : (ignorePacket s).asm = s.asm := rfl
@[simp] theorem ignorePacket_sin : (ignorePacket s).sin = s.sin := rfl
@[simp] theorem ignorePacket_txc : (ignorePacket s).txc = s.txc := rfl
@[simp] theorem ignorePacket_pic : (ignorePacket s).pic = s.pic := rfl
@[simp] theorem ignorePacket_alc : (ignorePacket s).alc = s.alc := rfl
@[simp] theorem ignorePacket_sup : (ignorePacket s).sup = s.sup := rfl
@[simp] theorem ignorePacket_cfl : (ignorePacket s).cfl = s.cfl := rfl

/-! `endFrame` -/

@[simp] theorem endFrame_pending : (endFrame s).pending = s.pending := rfl
@[simp] theorem endFrame_progress : (endFrame s).progress = s.progress := rfl
@[simp] theorem endFrame_freeIx : (endFrame s).freeIx = s.freeIx := rfl
@[simp] theorem endFrame_lines : (endFrame s).lines = s.lines := rfl
@[simp] theorem endFrame_ftu : (endFrame s).ftu = s.ftu := rfl
@[simp] theorem endFrame_ple : (endFrame s).ple = s.ple := rfl
@[simp] theorem endFrame_lkp : (endFrame s).lkp = s.lkp := rfl
@[simp] theorem endFrame_pvw : (endFrame s).pvw = s.pvw := rfl
@[simp] theorem endFrame_cpr : (endFrame s).cpr = s.cpr := rfl
@[simp] theorem endFrame_asm : (endFrame s).asm = s.asm := rfl
@[simp] theorem endFrame_sin : (endFrame s).sin = s.sin := rfl
@[simp] theorem endFrame_txc : (endFrame s).txc = s.txc := rfl
@[simp] theorem endFrame_pic : (endFrame s).pic = s.pic := rfl
@[simp] theorem endFrame_alc : (endFrame s).alc = s.alc := rfl
@[simp] theorem endFrame_sup : (endFrame s).sup = s.sup := rfl
@[simp] theorem endFrame_cfl : (endFrame s).cfl = s.cfl := rfl

/-! `ageLink` -/

@[simp] theorem ageLink_pending : (ageLink s).pending = s.pending := rfl
@[simp] theorem ageLink_progress : (ageLink s).progress = s.progress := rfl
@[simp] theorem ageLink_freeIx : (ageLink s).freeIx = s.freeIx := rfl
@[simp] theorem ageLink_lines : (ageLink s).lines = s.lines := rfl
@[simp] theorem ageLink_ftu : (ageLink s).ftu = s.ftu := rfl
@[simp] theorem ageLink_ofr : (ageLink s).ofr = s.ofr := rfl
@[simp] theorem ageLink_ple : (ageLink s).ple = s.ple := rfl
@[simp] theorem ageLink_pvw : (ageLink s).pvw = s.pvw := rfl
@[simp] theorem ageLink_cpr : (ageLink s).cpr = s.cpr := rfl
@[simp] theorem ageLink_asm : (ageLink s).asm = s.asm := rfl
@[simp] theorem ageLink_sin : (ageLink s).sin = s.sin := rfl
@[simp] theorem ageLink_txc : (ageLink s).txc = s.txc := rfl
@[simp] theorem ageLink_pic : (ageLink s).pic = s.pic := rfl
@[simp] theorem ageLink_alc : (ageLink s).alc = s.alc := rfl
@[simp] theorem ageLink_sup : (ageLink s).sup = s.sup := rfl
@[simp] theorem ageLink_cfl : (ageLink s).cfl = s.cfl := rfl

/-! `ageHold` -/

@[simp] theorem ageHold_pending : (ageHold s).pending = s.pending := rfl
@[simp] theorem ageHold_progress : (ageHold s).progress = s.progress := rfl
@[simp] theorem ageHold_freeIx : (ageHold s).freeIx = s.freeIx := rfl
@[simp] theorem ageHold_lines : (ageHold s).lines = s.lines := rfl
@[simp] theorem ageHold_ftu : (ageHold s).ftu = s.ftu := rfl
@[simp] theorem ageHold_ofr : (ageHold s).ofr = s.ofr := rfl
@[simp] theorem ageHold_ple : (ageHold s).ple = s.ple := rfl
@[simp] theorem ageHold_lkp : (ageHold s).lkp = s.lkp := rfl
@[simp] theorem ageHold_cpr : (ageHold s).cpr = s.cpr := rfl
@[simp] theorem ageHold_asm : (ageHold s).asm = s.asm := rfl
@[simp] theorem ageHold_sin : (ageHold s).sin = s.sin := rfl
@[simp] theorem ageHold_txc : (ageHold s).txc = s.txc := rfl
@[simp] theorem ageHold_pic : (ageHold s).pic = s.pic := rfl
@[simp] theorem ageHold_alc : (ageHold s).alc = s.alc := rfl
@[simp] theorem ageHold_sup : (ageHold s).sup = s.sup := rfl
@[simp] theorem ageHold_cfl : (ageHold s).cfl = s.cfl := rfl

/-! `hand` -/

@[simp] theorem hand_pending (r : Request) (k : AnswerKind) (d : AnswerData) : (hand r k d s).pending = s.pending := rfl
@[simp] theorem hand_progress (r : Request) (k : AnswerKind) (d : AnswerData) :
    (hand r k d s).progress = s.progress := rfl
@[simp] theorem hand_freeIx (r : Request) (k : AnswerKind) (d : AnswerData) : (hand r k d s).freeIx = s.freeIx := rfl
@[simp] theorem hand_lines (r : Request) (k : AnswerKind) (d : AnswerData) : (hand r k d s).lines = s.lines := rfl
@[simp] theorem hand_ftu (r : Request) (k : AnswerKind) (d : AnswerData) : (hand r k d s).ftu = s.ftu := rfl
@[simp] theorem hand_ofr (r : Request) (k : AnswerKind) (d : AnswerData) : (hand r k d s).ofr = s.ofr := rfl
@[simp] theorem hand_ple (r : Request) (k : AnswerKind) (d : AnswerData) : (hand r k d s).ple = s.ple := rfl
@[simp] theorem hand_lkp (r : Request) (k : AnswerKind) (d : AnswerData) : (hand r k d s).lkp = s.lkp := rfl
@[simp] theorem hand_pvw (r : Request) (k : AnswerKind) (d : AnswerData) : (hand r k d s).pvw = s.pvw := rfl
@[simp] theorem hand_cpr (r : Request) (k : AnswerKind) (d : AnswerData) : (hand r k d s).cpr = s.cpr := rfl
@[simp] theorem hand_asm (r : Request) (k : AnswerKind) (d : AnswerData) : (hand r k d s).asm = s.asm := rfl
@[simp] theorem hand_sin (r : Request) (k : AnswerKind) (d : AnswerData) : (hand r k d s).sin = s.sin := rfl
@[simp] theorem hand_txc (r : Request) (k : AnswerKind) (d : AnswerData) : (hand r k d s).txc = s.txc := rfl
@[simp] theorem hand_pic (r : Request) (k : AnswerKind) (d : AnswerData) : (hand r k d s).pic = s.pic := rfl
@[simp] theorem hand_alc (r : Request) (k : AnswerKind) (d : AnswerData) : (hand r k d s).alc = s.alc := rfl
@[simp] theorem hand_cfl (r : Request) (k : AnswerKind) (d : AnswerData) : (hand r k d s).cfl = s.cfl := rfl

/-! `clearForListen` -/

@[simp] theorem clearForListen_pending : (clearForListen s).pending = s.pending :=
  by simp only [clearForListen, removeByState_pending, clearStore_pending, emptyChain_pending, emptyAlerts_pending, dropLocal_pending, clearView_pending]
@[simp] theorem clearForListen_progress : (clearForListen s).progress = s.progress :=
  by simp only [clearForListen, removeByState_progress, clearStore_progress, emptyChain_progress, emptyAlerts_progress, dropLocal_progress, clearView_progress]
@[simp] theorem clearForListen_freeIx : (clearForListen s).freeIx = s.freeIx :=
  by simp only [clearForListen, removeByState_freeIx, clearStore_freeIx, emptyChain_freeIx, emptyAlerts_freeIx, dropLocal_freeIx, clearView_freeIx]
@[simp] theorem clearForListen_lines : (clearForListen s).lines = s.lines :=
  by simp only [clearForListen, removeByState_lines, clearStore_lines, emptyChain_lines, emptyAlerts_lines, dropLocal_lines, clearView_lines]
@[simp] theorem clearForListen_ftu : (clearForListen s).ftu = s.ftu :=
  by simp only [clearForListen, removeByState_ftu, clearStore_ftu, emptyChain_ftu, emptyAlerts_ftu, dropLocal_ftu, clearView_ftu]
@[simp] theorem clearForListen_ofr : (clearForListen s).ofr = s.ofr :=
  by simp only [clearForListen, removeByState_ofr, clearStore_ofr, emptyChain_ofr, emptyAlerts_ofr, dropLocal_ofr, clearView_ofr]
@[simp] theorem clearForListen_sin : (clearForListen s).sin = s.sin :=
  by simp only [clearForListen, removeByState_sin, clearStore_sin, emptyChain_sin, emptyAlerts_sin, dropLocal_sin, clearView_sin]
@[simp] theorem clearForListen_txc : (clearForListen s).txc = s.txc :=
  by simp only [clearForListen, removeByState_txc, clearStore_txc, emptyChain_txc, emptyAlerts_txc, dropLocal_txc, clearView_txc]
@[simp] theorem clearForListen_pic : (clearForListen s).pic = s.pic :=
  by simp only [clearForListen, removeByState_pic, clearStore_pic, emptyChain_pic, emptyAlerts_pic, dropLocal_pic, clearView_pic]
@[simp] theorem clearForListen_sup : (clearForListen s).sup = s.sup :=
  by simp only [clearForListen, removeByState_sup, clearStore_sup, emptyChain_sup, emptyAlerts_sup, dropLocal_sup, clearView_sup]
@[simp] theorem clearForListen_cfl : (clearForListen s).cfl = s.cfl :=
  by simp only [clearForListen, removeByState_cfl, clearStore_cfl, emptyChain_cfl, emptyAlerts_cfl, dropLocal_cfl, clearView_cfl]

/-! What they write -/

@[simp] theorem modifyCarousel_carousels (k : ServiceIx) (f : Carousel → Carousel) :
    (modifyCarousel k f s).txc.carousels = modifyAt s.txc.carousels k f := rfl
@[simp] theorem modifyCarousel_alert (k : ServiceIx) (f : Carousel → Carousel) :
    (modifyCarousel k f s).txc.alert = s.txc.alert := rfl
@[simp] theorem modifyPicCarousel_memory (k : ServiceIx) (f : PicCarousel → PicCarousel) :
    (modifyPicCarousel k f s).pic.memory = s.pic.memory := rfl
@[simp] theorem modifyPicCarousel_table (k : ServiceIx) (f : PicCarousel → PicCarousel) :
    (modifyPicCarousel k f s).pic.table = s.pic.table := rfl
@[simp] theorem countPic_memory (k : ServiceIx) (f : PicCounters → PicCounters) :
    (countPic k f s).pic.memory = s.pic.memory := rfl
@[simp] theorem countPic_table (k : ServiceIx) (f : PicCounters → PicCounters) :
    (countPic k f s).pic.table = s.pic.table := rfl
@[simp] theorem modifyObject_memory (k : ServiceIx) (o : ObjectId) (f : PicRecord → PicRecord) :
    (modifyObject k o f s).pic.memory = s.pic.memory := rfl
@[simp] theorem removeObject_memory (k : ServiceIx) (o : ObjectId) :
    (removeObject k o s).pic.memory = s.pic.memory := rfl
@[simp] theorem modifyPeer_slots (u : UnitId) (f : PeerSlot → PeerSlot) :
    (modifyPeer u f s).pvw.slots = modifyAt s.pvw.slots u f := rfl
@[simp] theorem modifyPeer_unit (u : UnitId) (f : PeerSlot → PeerSlot) :
    (modifyPeer u f s).pvw.unit = s.pvw.unit := rfl
@[simp] theorem pendOwn_unit (c : FramedClaim) : (pendOwn c s).pvw.unit = s.pvw.unit := rfl
@[simp] theorem clearView_unit : (clearView s).pvw.unit = s.pvw.unit := rfl
@[simp] theorem setUnit_unit (u : UnitState) : (setUnit u s).pvw.unit = u := rfl
@[simp] theorem ignorePacket_unit : (ignorePacket s).pvw.unit = s.pvw.unit := rfl
@[simp] theorem ageHold_unit : (ageHold s).pvw.unit = s.pvw.unit := rfl
@[simp] theorem removeSlot_unit (u : UnitId) : (removeSlot u s).pvw.unit = s.pvw.unit := rfl
@[simp] theorem clearForListen_unit : (clearForListen s).pvw.unit = s.pvw.unit := rfl
@[simp] theorem modifySender_queue (u : UnitId) (f : SenderRecord → SenderRecord) :
    (modifySender u f s).lkp.queue = s.lkp.queue := rfl
@[simp] theorem modifySender_senders (u : UnitId) (f : SenderRecord → SenderRecord) :
    (modifySender u f s).lkp.senders = modifyAt s.lkp.senders u f := rfl
@[simp] theorem ageLink_queue : (ageLink s).lkp.queue = s.lkp.queue := rfl
@[simp] theorem removeByState_queue (p : TxPacket → Bool) :
    (removeByState p s).lkp.queue = s.lkp.queue.filter (fun x => !p x) := rfl
@[simp] theorem modifyPort_ports (p : PortId) (f : Port → Port) :
    (modifyPort p f s).sin.ports = modifyAt s.sin.ports p f := rfl
@[simp] theorem modifyPort_services (p : PortId) (f : Port → Port) :
    (modifyPort p f s).sin.services = s.sin.services := rfl
@[simp] theorem modifyIntake_services (k : ServiceIx) (f : Intake → Intake) :
    (modifyIntake k f s).sin.services = modifyAt s.sin.services k f := rfl
@[simp] theorem modifyIntake_ports (k : ServiceIx) (f : Intake → Intake) :
    (modifyIntake k f s).sin.ports = s.sin.ports := rfl
@[simp] theorem emptyChain_chain : (emptyChain s).ple.chain = [] := rfl
@[simp] theorem emptyChain_last : (emptyChain s).ple.last = none := rfl
@[simp] theorem raiseFlag_flags (f : Flag) : (raiseFlag f s).sup.flags = s.sup.flags ||| f.mask := rfl
@[simp] theorem raiseFlag_queue (f : Flag) : (raiseFlag f s).sup.queue = s.sup.queue := rfl
@[simp] theorem raiseFlag_lifetime (f : Flag) : (raiseFlag f s).sup.lifetime = s.sup.lifetime := rfl
@[simp] theorem clearFlagSet_flags (m : BitVec 24) : (clearFlagSet m s).sup.flags = s.sup.flags &&& ~~~ m := rfl
@[simp] theorem holdImage_image (i : Option Image) : (holdImage i s).cfl.image = i := rfl
@[simp] theorem holdImage_flags (i : Option Image) : (holdImage i s).sup.flags = s.sup.flags := rfl
@[simp] theorem hand_flags (r : Request) (k : AnswerKind) (d : AnswerData) :
    (hand r k d s).sup.flags = s.sup.flags := rfl
@[simp] theorem hand_attention (r : Request) (k : AnswerKind) (d : AnswerData) :
    (hand r k d s).sup.attention = s.sup.attention := rfl
@[simp] theorem setSlot_hold (n : FrameNo) (x : FrameSlot) : (setSlot n x s).asm.hold = s.asm.hold := rfl

/-! Indexed tables -/

@[simp] theorem getElem_modifyAt_self {α : Type} {n : Nat} (v : Vector α n) (i : Fin n) (f : α → α) :
    (modifyAt v i f)[i] = f v[i] := by simp [modifyAt]

theorem getElem_modifyAt_of_ne {α : Type} {n : Nat} (v : Vector α n) (i j : Fin n) (f : α → α) (h : i ≠ j) :
    (modifyAt v i f)[j] = v[j] := by
  simp only [modifyAt, Fin.getElem_fin]
  exact Vector.getElem_set_ne i.isLt j.isLt (fun e => h (Fin.ext e))

@[simp] theorem getElem_mapAll {α β : Type} {n : Nat} (v : Vector α n) (i : Fin n) (f : α → β) :
    (mapAll f v)[i] = f v[i] := by simp [mapAll]

end Sys2Proof.Machine
end

