-- ==== Sys2Proof/Laws/Tables.lean ====
section
/-! SUPPORT. The updates of one entry of a table: what is read back, and how two updates of one entry join. -/

namespace Sys2Proof.Machine

variable {α β : Type} {n : Nat}

@[simp] theorem modifyAt_self (v : Vector α n) (i : Fin n) (f : α → α) : (modifyAt v i f)[i] = f v[i] := by
  simp [modifyAt]

theorem modifyAt_other (v : Vector α n) {i j : Fin n} (f : α → α) (h : j ≠ i) : (modifyAt v i f)[j] = v[j] := by
  have : i.val ≠ j.val := fun e => h (Fin.ext e.symm)
  simp [modifyAt, this]

@[simp] theorem modifyAt_modifyAt (v : Vector α n) (i : Fin n) (f g : α → α) :
    modifyAt (modifyAt v i f) i g = modifyAt v i (fun x => g (f x)) := by
  simp [modifyAt]

theorem modifyAt_id (v : Vector α n) (i : Fin n) : modifyAt v i (fun x => x) = v := by
  simp [modifyAt]

@[simp] theorem mapAll_get (f : α → β) (v : Vector α n) (i : Fin n) : (mapAll f v)[i] = f v[i] := by
  simp [mapAll]

/-- The first entry that satisfies `p`, found behind entries that do not. -/
theorem modifyFirst_append (p : α → Bool) (f : α → α) (a b : List α) (x : α) (ha : ∀ y ∈ a, p y = false)
    (hx : p x = true) : modifyFirst p f (a ++ x :: b) = a ++ f x :: b := by
  induction a with
  | nil => simp [modifyFirst, hx]
  | cons y ys ih =>
    simp only [List.cons_append, modifyFirst, ha y (by simp), Bool.false_eq_true, if_false]
    rw [ih (fun z hz => ha z (by simp [hz]))]

@[simp] theorem modifyPort_modifyPort (p : PortId) (f g : Port → Port) (s : State) :
    modifyPort p g (modifyPort p f s) = modifyPort p (fun x => g (f x)) s := by
  simp [modifyPort]

@[simp] theorem modifyPort_port (p : PortId) (f : Port → Port) (s : State) :
    (modifyPort p f s).sin.ports[p] = f s.sin.ports[p] := by
  simp only [modifyPort, modifyAt_self]

@[simp] theorem modifyIntake_modifyIntake (k : ServiceIx) (f g : Intake → Intake) (s : State) :
    modifyIntake k g (modifyIntake k f s) = modifyIntake k (fun x => g (f x)) s := by
  simp [modifyIntake]

@[simp] theorem modifyCarousel_modifyCarousel (k : ServiceIx) (f g : Carousel → Carousel) (s : State) :
    modifyCarousel k g (modifyCarousel k f s) = modifyCarousel k (fun x => g (f x)) s := by
  simp [modifyCarousel]

@[simp] theorem modifyPicCarousel_modifyPicCarousel (k : ServiceIx) (f g : PicCarousel → PicCarousel) (s : State) :
    modifyPicCarousel k g (modifyPicCarousel k f s) = modifyPicCarousel k (fun x => g (f x)) s := by
  simp [modifyPicCarousel]

@[simp] theorem modifyPeer_modifyPeer (u : UnitId) (f g : PeerSlot → PeerSlot) (s : State) :
    modifyPeer u g (modifyPeer u f s) = modifyPeer u (fun x => g (f x)) s := by
  simp [modifyPeer]

@[simp] theorem modifyPeer_slot (u : UnitId) (f : PeerSlot → PeerSlot) (s : State) :
    (modifyPeer u f s).pvw.slots[u] = f s.pvw.slots[u] := by
  simp only [modifyPeer, modifyAt_self]

@[simp] theorem modifySender_modifySender (u : UnitId) (f g : SenderRecord → SenderRecord) (s : State) :
    modifySender u g (modifySender u f s) = modifySender u (fun x => g (f x)) s := by
  simp [modifySender]

end Sys2Proof.Machine
end

