-- ==== Sys2Proof/Laws/Quiet.lean ====
section
/-! SUPPORT. What nearly every operation leaves alone: the queue of waiting commands, the level of the lines, CFL's
state, the agenda; and what it keeps: the attention line, the page memory's form, a running unit. One lemma for each
operation, and one for the turns of a receiver. -/

namespace Sys2Proof.Machine

/-- The receivers stand in the states they stood in, and the ports are as active. -/
structure Steady (s t : State) : Prop where
  receiver : t.lkp.receiver = s.lkp.receiver
  ports    : ∀ q : PortId, t.sin.ports[q].state = s.sin.ports[q].state
  active   : ∀ q : PortId, t.sin.ports[q].active = s.sin.ports[q].active

theorem Steady.trans {s t u : State} (h : Steady s t) (g : Steady t u) : Steady s u :=
  ⟨g.receiver.trans h.receiver, fun q => (g.ports q).trans (h.ports q),
    fun q => (g.active q).trans (h.active q)⟩

/-- An operation is quiet; where `steady` is true, the receivers stand still as well. -/
structure Quiet (steady : Bool) (s t : State) : Prop where
  pending   : t.pending = s.pending
  lines     : t.lines = s.lines
  cfl       : t.cfl = s.cfl
  agenda    : t.progress.agenda = s.progress.agenda
  attention : AttentionFollows s → AttentionFollows t
  memory    : MemorySound s → MemorySound t
  running   : s.pvw.unit.running = true → t.pvw.unit.running = true
  still     : steady = true → Steady s t

variable {r : Bool}

namespace Quiet

/-- What a quiet operation leaves alone. -/
def outer (s : State) : List Instr × Vector Bool 2 × Cfl × List Act × List Host.Cell :=
  (s.pending, s.lines, s.cfl, s.progress.agenda, s.pic.memory)

/-- What a steady one leaves alone besides. -/
def inner (s : State) : ReceiverState × Vector Port 6 × UnitState := (s.lkp.receiver, s.sin.ports, s.pvw.unit)

theorem steadyKept {s t : State} (h : inner t = inner s) : Steady s t :=
  ⟨congrArg (·.1) h, fun q => congrArg (fun x => x.2.1[q].state) h,
    fun q => congrArg (fun x => x.2.1[q].active) h⟩

theorem runningKept {s t : State} (h : inner t = inner s) (g : s.pvw.unit.running = true) :
    t.pvw.unit.running = true := (congrArg (fun x => x.2.2.running) h).trans g

theorem attentionKept {s t : State} (hc : t.cfl = s.cfl) (hs : t.sup = s.sup) (h : AttentionFollows s) :
    AttentionFollows t := by
  unfold AttentionFollows attentionDue maskInForce at h ⊢
  rw [hs, hc]
  exact h

theorem memoryKept {s t : State} (hm : t.pic.memory = s.pic.memory) (h : MemorySound s) : MemorySound t := by
  unfold MemorySound at h ⊢
  rw [hm]
  exact h

theorem refl (s : State) : Quiet r s s := ⟨rfl, rfl, rfl, rfl, id, id, id, fun _ => ⟨rfl, fun _ => rfl, fun _ => rfl⟩⟩

theorem trans {s t u : State} (h : Quiet r s t) (g : Quiet r t u) : Quiet r s u :=
  ⟨g.pending.trans h.pending, g.lines.trans h.lines, g.cfl.trans h.cfl, g.agenda.trans h.agenda,
    g.attention ∘ h.attention, g.memory ∘ h.memory, g.running ∘ h.running, fun x => (h.still x).trans (g.still x)⟩

/-- An update that touches none of them. -/
theorem same {s t : State} (ho : outer t = outer s) (hs : t.sup = s.sup) (hi : inner t = inner s) : Quiet r s t :=
  ⟨congrArg (·.1) ho, congrArg (·.2.1) ho, congrArg (·.2.2.1) ho, congrArg (·.2.2.2.1) ho,
    attentionKept (congrArg (·.2.2.1) ho) hs, memoryKept (congrArg (·.2.2.2.2) ho), runningKept hi,
    fun _ => steadyKept hi⟩

/-- An update of a receiver or of the unit state that touches nothing else of them. -/
theorem moved {s t : State} (ho : outer t = outer s) (hs : t.sup = s.sup)
    (hu : s.pvw.unit.running = true → t.pvw.unit.running = true) (hr : r = true → Steady s t) : Quiet r s t :=
  ⟨congrArg (·.1) ho, congrArg (·.2.1) ho, congrArg (·.2.2.1) ho, congrArg (·.2.2.2.1) ho,
    attentionKept (congrArg (·.2.2.1) ho) hs, memoryKept (congrArg (·.2.2.2.2) ho), hu, hr⟩

/-- An update after which the attention line has been driven. -/
theorem flagged {s t : State} (ho : outer t = outer s) (ha : t.sup.attention = attentionDue t)
    (hi : inner t = inner s) : Quiet r s t :=
  ⟨congrArg (·.1) ho, congrArg (·.2.1) ho, congrArg (·.2.2.1) ho, congrArg (·.2.2.2.1) ho, fun _ => ha,
    memoryKept (congrArg (·.2.2.2.2) ho), runningKept hi, fun _ => steadyKept hi⟩

/-- Where more is known, less is. -/
theorem weaken {s t : State} (h : Quiet true s t) : Quiet r s t :=
  ⟨h.pending, h.lines, h.cfl, h.agenda, h.attention, h.memory, h.running, fun _ => h.still rfl⟩

theorem foldl {α : Type} {f : State → α → State} (h : ∀ s a, Quiet r s (f s a)) :
    ∀ (l : List α) (s : State), Quiet r s (l.foldl f s) := by
  intro l
  induction l with
  | nil => exact refl
  | cons a l ih => exact fun s => (h s a).trans (ih _)

theorem ite {c : Prop} [Decidable c] {s t u : State} (h : c → Quiet r s t) (g : ¬c → Quiet r s u) :
    Quiet r s (if c then t else u) := by
  split
  · exact h ‹_›
  · exact g ‹_›

end Quiet

/-! ### Named updates -/

theorem raiseFlag_quiet (f : Flag) (s : State) : Quiet r s (raiseFlag f s) := Quiet.flagged rfl rfl rfl
theorem clearFlagSet_quiet (m : BitVec 24) (s : State) : Quiet r s (clearFlagSet m s) :=
  Quiet.flagged rfl rfl rfl
theorem modifyCarousel_quiet (k : ServiceIx) (f : Carousel → Carousel) (s : State) :
    Quiet r s (modifyCarousel k f s) := Quiet.same rfl rfl rfl
theorem modifyPicCarousel_quiet (k : ServiceIx) (f : PicCarousel → PicCarousel) (s : State) :
    Quiet r s (modifyPicCarousel k f s) := Quiet.same rfl rfl rfl
theorem countPic_quiet (k : ServiceIx) (f : PicCounters → PicCounters) (s : State) : Quiet r s (countPic k f s) :=
  Quiet.same rfl rfl rfl
theorem modifyObject_quiet (k : ServiceIx) (o : ObjectId) (f : PicRecord → PicRecord) (s : State) :
    Quiet r s (modifyObject k o f s) := Quiet.same rfl rfl rfl
theorem removeObject_quiet (k : ServiceIx) (o : ObjectId) (s : State) : Quiet r s (removeObject k o s) :=
  Quiet.same rfl rfl rfl
theorem modifyPeer_quiet (u : UnitId) (f : PeerSlot → PeerSlot) (s : State) : Quiet r s (modifyPeer u f s) :=
  Quiet.same rfl rfl rfl
theorem modifySender_quiet (u : UnitId) (f : SenderRecord → SenderRecord) (s : State) :
    Quiet r s (modifySender u f s) := Quiet.same rfl rfl rfl
theorem modifyPort_quiet (p : PortId) (f : Port → Port) (s : State) : Quiet false s (modifyPort p f s) :=
  Quiet.moved rfl rfl id nofun
/-- A change of a port that leaves its state and its activity alone. -/
theorem modifyPort_steady (p : PortId) (f : Port → Port) (s : State)
    (h : ∀ x, (f x).state = x.state ∧ (f x).active = x.active := by exact fun _ => ⟨rfl, rfl⟩) :
    Quiet r s (modifyPort p f s) := by
  have g : ∀ q : PortId, (modifyPort p f s).sin.ports[q].state = s.sin.ports[q].state ∧
      (modifyPort p f s).sin.ports[q].active = s.sin.ports[q].active := by
    intro q
    by_cases hq : q = p
    · subst hq
      rw [modifyPort_port]
      exact h _
    · have e : (modifyPort p f s).sin.ports[q] = s.sin.ports[q] := modifyAt_other _ f hq
      rw [e]
      exact ⟨rfl, rfl⟩
  exact Quiet.moved rfl rfl id (fun _ => ⟨rfl, fun q => (g q).1, fun q => (g q).2⟩)
theorem countPort_quiet (p : PortId) (f : PortCounters → PortCounters) (s : State) : Quiet r s (countPort p f s) :=
  modifyPort_steady _ _ s
theorem modifyIntake_quiet (k : ServiceIx) (f : Intake → Intake) (s : State) : Quiet r s (modifyIntake k f s) :=
  Quiet.same rfl rfl rfl
theorem modifySource_quiet (i : SourceId) (f : Source → Source) (s : State) : Quiet r s (modifySource i f s) :=
  Quiet.same rfl rfl rfl
theorem countAsm_quiet (f : AsmCounters → AsmCounters) (s : State) : Quiet r s (countAsm f s) :=
  Quiet.same rfl rfl rfl
theorem setUnit_quiet (u : UnitState) (s : State) (h : u.running = true := by rfl) : Quiet r s (setUnit u s) :=
  Quiet.moved rfl rfl (fun _ => h) (fun _ => ⟨rfl, fun _ => rfl, fun _ => rfl⟩)
theorem pendOwn_quiet (c : FramedClaim) (s : State) : Quiet r s (pendOwn c s) := Quiet.same rfl rfl rfl
theorem emptyChain_quiet (s : State) : Quiet r s (emptyChain s) := Quiet.same rfl rfl rfl
theorem clearStore_quiet (s : State) : Quiet r s (clearStore s) := Quiet.same rfl rfl rfl
theorem dropLocal_quiet (s : State) : Quiet r s (dropLocal s) := Quiet.same rfl rfl rfl
theorem emptyAlerts_quiet (s : State) : Quiet r s (emptyAlerts s) := Quiet.same rfl rfl rfl
theorem clearView_quiet (s : State) : Quiet r s (clearView s) := Quiet.same rfl rfl rfl
theorem removeByState_quiet (p : TxPacket → Bool) (s : State) : Quiet r s (removeByState p s) :=
  Quiet.same rfl rfl rfl
theorem setRaised_quiet (i : SourceId) (b : Bool) (s : State) : Quiet r s (setRaised i b s) :=
  Quiet.same rfl rfl rfl
theorem setSlot_quiet (n : FrameNo) (x : FrameSlot) (s : State) : Quiet r s (setSlot n x s) :=
  Quiet.same rfl rfl rfl
theorem clearForListen_quiet (s : State) : Quiet r s (clearForListen s) :=
  (((((clearView_quiet s).trans (dropLocal_quiet _)).trans (emptyAlerts_quiet _)).trans (emptyChain_quiet _)).trans
    (clearStore_quiet _)).trans (removeByState_quiet _ _)
theorem noticeRemoval_quiet (u : UnitId) (f : FrameNo) (s : State) : Quiet r s (noticeRemoval u f s) :=
  Quiet.same rfl rfl rfl
theorem noticeCancelled_quiet (u : UnitId) (s : State) : Quiet r s (noticeCancelled u s) :=
  Quiet.same rfl rfl rfl

/-! ### LKP's transmit side, and PVW's own packets -/

theorem arbitrate_quiet (s : State) : Quiet r s (arbitrate s) := by
  unfold arbitrate
  split <;> exact Quiet.same rfl rfl rfl

theorem serve_quiet (s : State) : Quiet r s (serve s) := Quiet.ite (fun _ => arbitrate_quiet s) (fun _ => Quiet.refl s)

theorem enqueue_quiet (p : TxPacket) (s : State) : Quiet r s (enqueue p s).1 := by
  unfold enqueue
  dsimp only
  split_ifs <;> first | exact Quiet.same rfl rfl rfl | exact Quiet.flagged rfl rfl rfl

theorem handIn_quiet (p : TxPacket) (s : State) : Quiet r s (handIn p s).1 := (enqueue_quiet p s).trans (serve_quiet _)

theorem expireContributions_quiet (n : FrameNo) (s : State) : Quiet r s (expireContributions n s) := by
  unfold expireContributions
  dsimp only
  split_ifs <;> first | exact Quiet.same rfl rfl rfl | exact Quiet.flagged rfl rfl rfl

theorem cutFrame_quiet (s : State) : Quiet r s (cutFrame s) := by
  unfold cutFrame
  split
  · split_ifs <;> exact Quiet.same rfl rfl rfl
  · exact Quiet.refl s

theorem sendPresence_quiet (s : State) : Quiet r s (sendPresence s) :=
  (handIn_quiet _ s).trans (Quiet.same rfl rfl rfl)

theorem sendClaim_quiet (c : FramedClaim) (s : State) : Quiet r s (sendClaim c s) :=
  (handIn_quiet _ s).trans (Quiet.same rfl rfl rfl)

theorem issueClaim_quiet (n : FrameNo) (s : State) : Quiet r s (issueClaim n s) := by
  unfold issueClaim
  refine Quiet.trans (Quiet.trans ?_ (pendOwn_quiet _ _)) (sendClaim_quiet _ _)
  exact Quiet.same rfl rfl rfl

/-! ### Changes of unit state -/

theorem enterListen_quiet (s : State) : Quiet r s (enterListen s) :=
  (((cutFrame_quiet s).trans (setUnit_quiet _ _)).trans (clearForListen_quiet _)).trans (sendPresence_quiet _)

theorem fallSilent_quiet (u : UnitState) (s : State) (h : u.running = true := by rfl) : Quiet r s (fallSilent u s) :=
  (((((cutFrame_quiet s).trans (setUnit_quiet _ _ h)).trans (dropLocal_quiet _)).trans (emptyChain_quiet _)).trans
    (clearStore_quiet _)).trans (removeByState_quiet _ _)

theorem enterOffAir_quiet (s : State) : Quiet r s (enterOffAir s) := by
  unfold enterOffAir
  generalize h : fallSilent .offAir s = t
  exact (h ▸ fallSilent_quiet _ s : Quiet r s t).trans (Quiet.same rfl rfl rfl)

/-- A change of SUP's counters alone. -/
theorem lifetime_quiet (f : LifetimeCounters) (s : State) : Quiet r s { s with sup.lifetime := f } :=
  ⟨rfl, rfl, rfl, rfl, id, id, id, fun _ => ⟨rfl, fun _ => rfl, fun _ => rfl⟩⟩

theorem enterClash_quiet (s : State) : Quiet r s (enterClash s) := by
  unfold enterClash
  generalize h : fallSilent .clash s = t
  exact (h ▸ fallSilent_quiet _ s : Quiet r s t).trans ((lifetime_quiet _ t).trans (Quiet.same rfl rfl rfl))

theorem enterIsolated_quiet (s : State) : Quiet r s (enterIsolated s) := by
  unfold enterIsolated
  refine Quiet.trans (Quiet.trans ?_ (raiseFlag_quiet _ _)) (sendPresence_quiet _)
  exact Quiet.moved rfl rfl (fun _ => rfl) (fun _ => ⟨rfl, fun _ => rfl, fun _ => rfl⟩)

theorem enterJoining_quiet (n : FrameNo) (s : State) : Quiet r s (enterJoining n s) := by
  unfold enterJoining
  generalize h : issueClaim n s = t
  refine Quiet.trans (Quiet.trans ((h ▸ issueClaim_quiet n s : Quiet r s t).trans ?_) (serve_quiet _))
    (sendPresence_quiet _)
  exact Quiet.moved rfl rfl (fun _ => rfl) (fun _ => ⟨rfl, fun _ => rfl, fun _ => rfl⟩)

theorem enterOnAir_quiet (s : State) : Quiet r s (enterOnAir s) := by
  unfold enterOnAir
  refine Quiet.trans ?_ (sendPresence_quiet _)
  exact Quiet.moved rfl rfl (fun _ => rfl) (fun _ => ⟨rfl, fun _ => rfl, fun _ => rfl⟩)

theorem jumpEffects_quiet (s : State) : Quiet r s (jumpEffects s) :=
  Quiet.ite (fun _ => enterListen_quiet s) (fun _ => clearForListen_quiet s)

theorem linkReturn_quiet (s : State) : Quiet r s (linkReturn s) :=
  Quiet.ite (fun _ => enterListen_quiet s) (fun _ => Quiet.refl s)

theorem breakListen_quiet (s : State) : Quiet r s (breakListen s) :=
  Quiet.ite (fun _ => Quiet.same rfl rfl rfl) (fun _ => Quiet.refl s)

/-! ### ALC -/

theorem handAlert_quiet (k : Kind) (b : List Byte) (s : State) : Quiet r s (handAlert k b s) := by
  unfold handAlert
  exact Quiet.ite (fun _ => handIn_quiet _ s) (fun _ => (handIn_quiet _ s).trans (Quiet.same rfl rfl rfl))

theorem handFirst_quiet (k : Kind) (b : List Byte) (s : State) : Quiet r s (handFirst k b s) :=
  Quiet.trans (t := { s with alc.repeatCount := 0, progress.alertSent := true }) (Quiet.same rfl rfl rfl)
    (handAlert_quiet _ _ _)

theorem endOwn_quiet (n : FrameNo) (s : State) : Quiet r s (endOwn n s) := by
  unfold endOwn
  split
  · exact Quiet.refl s
  · refine Quiet.trans ?_ (handFirst_quiet _ _ _)
    exact Quiet.same rfl rfl rfl

theorem evict_quiet (w : AlertRecord) (s : State) : Quiet r s (evict w s) := by
  unfold evict
  have h : Quiet r s (raiseFlag .alertTableFull
      { s with alc.table := s.alc.table.filter (fun r => r.id != w.id),
               alc.counters.evictions := bump s.alc.counters.evictions }) := Quiet.flagged rfl rfl rfl
  dsimp only
  split_ifs
  · split
    · refine h.trans (Quiet.trans ?_ (endOwn_quiet _ _))
      exact Quiet.same rfl rfl rfl
    · exact h
  · exact h

theorem enterRecord_quiet {x : AlertRecord} {s t : State} (h : enterRecord x s = some t) : Quiet r s t := by
  unfold enterRecord at h
  split at h
  · cases h; exact Quiet.same rfl rfl rfl
  · split at h
    · cases h
    · split at h
      · cases h
        exact (evict_quiet _ s).trans (Quiet.same rfl rfl rfl)
      · cases h

theorem originate_quiet (n : FrameNo) (s : State) : Quiet r s (originate n s) := by
  unfold originate
  split
  · split
    · exact Quiet.refl s
    · dsimp only
      split
      · exact Quiet.same rfl rfl rfl
      · rename_i t ht
        refine (enterRecord_quiet ht).trans (Quiet.trans ?_ (handFirst_quiet _ _ _))
        exact Quiet.same rfl rfl rfl
  · exact Quiet.refl s

theorem escalate_quiet (n : FrameNo) (s : State) : Quiet r s (escalate n s) := by
  unfold escalate
  split
  · split
    · dsimp only
      split
      · exact Quiet.refl s
      · refine Quiet.trans ?_ (handFirst_quiet _ _ _)
        exact Quiet.same rfl rfl rfl
    · exact Quiet.refl s
  · exact Quiet.refl s

theorem stopTest_quiet (n : FrameNo) (s : State) : Quiet r s (stopTest n s) :=
  Quiet.ite (fun _ => by
    refine Quiet.trans ?_ (endOwn_quiet _ _)
    exact Quiet.same rfl rfl rfl) (fun _ => Quiet.refl s)

theorem sampleLevel_quiet (l : LineIx) (s : State) : Quiet r s (sampleLevel l s) := by
  unfold sampleLevel
  dsimp only
  split_ifs
  · exact Quiet.refl s
  · exact Quiet.same rfl rfl rfl

theorem stopLine_quiet (l : LineIx) (s : State) : Quiet r s (stopLine l s) :=
  Quiet.ite (fun _ => sampleLevel_quiet l s) (fun _ => Quiet.same rfl rfl rfl)

theorem sampleLine_quiet (l : LineIx) (s : State) : Quiet r s (sampleLine l s) :=
  Quiet.ite (fun _ => sampleLevel_quiet l s) (fun _ => Quiet.same rfl rfl rfl)

theorem sampleLines_quiet (s : State) : Quiet r s (sampleLines s) :=
  (sampleLine_quiet 0 s).trans (sampleLine_quiet 1 _)

theorem clearSources_quiet (s : State) : Quiet r s (clearSources s) :=
  ((((setRaised_quiet .supv false s).trans (setRaised_quiet .test false _)).trans (setRaised_quiet .feed false _)).trans
    (stopLine_quiet 0 _)).trans (stopLine_quiet 1 _)

theorem durationEnd_quiet (n : FrameNo) (s : State) : Quiet r s (durationEnd n s) := by
  unfold durationEnd
  refine Quiet.trans (Quiet.trans ?_ (clearSources_quiet _)) (endOwn_quiet _ _)
  exact Quiet.same rfl rfl rfl

theorem sourcesTest_quiet (n : FrameNo) (s : State) : Quiet r s (sourcesTest n s) :=
  Quiet.ite (fun _ => by
    refine Quiet.trans ?_ (endOwn_quiet _ _)
    exact Quiet.same rfl rfl rfl) (fun _ => Quiet.refl s)

theorem repeatAlert_quiet (s : State) : Quiet r s (repeatAlert s) := by
  unfold repeatAlert
  have h : Quiet r s { s with alc.repeatCount := 0, alc.counters.repeatsSent := bump s.alc.counters.repeatsSent } :=
    Quiet.same rfl rfl rfl
  dsimp only
  split
  · split
    · exact h.trans (handAlert_quiet _ _ _)
    · exact h
  · split
    · exact h.trans (handAlert_quiet _ _ _)
    · exact h

theorem takeAlert_quiet (u : UnitId) (b : List Byte) (s : State) : Quiet r s (takeAlert u b s) := by
  unfold takeAlert
  dsimp only
  split_ifs
  · exact Quiet.same rfl rfl rfl
  · exact Quiet.same rfl rfl rfl
  · split
    · unfold heldAlert
      split
      · exact Quiet.same rfl rfl rfl
      · split_ifs <;> exact Quiet.same rfl rfl rfl
    · unfold newAlert
      split_ifs
      · exact Quiet.flagged rfl rfl rfl
      · split
        · rename_i t ht
          exact (enterRecord_quiet ht).trans (Quiet.same rfl rfl rfl)
        · exact Quiet.flagged rfl rfl rfl

theorem takeAlertEnd_quiet (u : UnitId) (b : List Byte) (s : State) : Quiet r s (takeAlertEnd u b s) := by
  unfold takeAlertEnd
  dsimp only
  split_ifs
  · exact Quiet.same rfl rfl rfl
  · exact Quiet.same rfl rfl rfl
  · split
    · exact Quiet.same rfl rfl rfl
    · split_ifs <;> exact Quiet.same rfl rfl rfl

theorem noteAnnounced_quiet (a : Option AlertId) (s : State) : Quiet r s (noteAnnounced a s) := by
  unfold noteAnnounced
  split
  · exact Quiet.refl s
  · split_ifs <;> exact Quiet.same rfl rfl rfl

theorem askSource_quiet (i : SourceId) (u : Nat) (m : Byte) (x : List Byte) (s : State) :
    Quiet r s (askSource i u m x s) := Quiet.same rfl rfl rfl

theorem takeAlertReq_quiet (b : List Byte) (s : State) : Quiet r s (takeAlertReq b s) :=
  Quiet.ite (fun _ => askSource_quiet _ _ _ _ s) (fun _ => Quiet.same rfl rfl rfl)

theorem clearEdge_quiet (l : LineIx) (s : State) : Quiet r s (clearEdge l s) :=
  Quiet.ite (fun _ => Quiet.refl s) (fun _ => Quiet.same rfl rfl rfl)

theorem takeAlertClear_quiet (s : State) : Quiet r s (takeAlertClear s) := by
  unfold takeAlertClear
  refine Quiet.trans (Quiet.trans ?_ (clearEdge_quiet 0 _)) (clearEdge_quiet 1 _)
  dsimp only
  split_ifs <;> exact Quiet.same rfl rfl rfl

theorem alertFeedLost_quiet (s : State) : Quiet r s (alertFeedLost s) := by
  unfold alertFeedLost
  dsimp only
  split_ifs <;> exact Quiet.same rfl rfl rfl

/-! ### TXC and PIC -/

theorem takeTextSet_quiet (k : ServiceIx) (key : Nat) (b : List Byte) (s : State) :
    Quiet r s (takeTextSet k key b s) := by
  unfold takeTextSet
  split
  · exact Quiet.same rfl rfl rfl
  · split_ifs
    · exact Quiet.flagged rfl rfl rfl
    · exact Quiet.same rfl rfl rfl

theorem takeTextClear_quiet (k : ServiceIx) (key : Nat) (b : List Byte) (s : State) :
    Quiet r s (takeTextClear k key b s) := by
  unfold takeTextClear
  split
  · exact Quiet.same rfl rfl rfl
  · split_ifs
    · exact Quiet.same rfl rfl rfl
    · exact Quiet.flagged rfl rfl rfl
    · exact Quiet.same rfl rfl rfl

theorem cutIfOnAir_quiet (k : ServiceIx) (x : PicRecord) (s : State) : Quiet r s (cutIfOnAir k x s) :=
  Quiet.ite (fun _ => Quiet.same rfl rfl rfl) (fun _ => Quiet.refl s)

theorem admitObject_quiet (k : ServiceIx) (p : PortId) (key : Nat) (b : List Byte) (s : State) :
    Quiet r s (admitObject k p key b s) := by
  unfold admitObject
  dsimp only
  split_ifs
  · exact Quiet.flagged rfl rfl rfl
  · exact Quiet.same rfl rfl rfl

theorem refusePicture_quiet (k : ServiceIx) (s : State) : Quiet r s (refusePicture k s) :=
  Quiet.flagged rfl rfl rfl

theorem takePicBegin_quiet (k : ServiceIx) (p : PortId) (key : Nat) (b : List Byte) (s : State) :
    Quiet r s (takePicBegin k p key b s) := by
  unfold takePicBegin
  dsimp only
  split_ifs
  · exact Quiet.same rfl rfl rfl
  · split
    · split_ifs
      · exact refusePicture_quiet k s
      · exact (((removeObject_quiet _ _ s).trans (cutIfOnAir_quiet _ _ _)).trans (countPic_quiet _ _ _)).trans
          (admitObject_quiet _ _ _ _ _)
    · exact admitObject_quiet _ _ _ _ s

theorem takePicData_quiet (k : ServiceIx) (p : PortId) (b : List Byte) (s : State) :
    Quiet r s (takePicData k p b s) := by
  unfold takePicData
  dsimp only
  split
  · exact countPic_quiet _ _ s
  · split_ifs
    all_goals first
      | exact countPic_quiet _ _ s
      | exact ⟨rfl, rfl, rfl, rfl, id, fun h => writeObject_wf _ _ _ _ h, id,
        fun _ => ⟨rfl, fun _ => rfl, fun _ => rfl⟩⟩

theorem takePicEnd_quiet (k : ServiceIx) (p : PortId) (b : List Byte) (s : State) : Quiet r s (takePicEnd k p b s) := by
  unfold takePicEnd
  split
  · exact countPic_quiet _ _ s
  · split_ifs
    · exact countPic_quiet _ _ s
    · exact countPic_quiet _ _ s
    · exact Quiet.same rfl rfl rfl
    · exact Quiet.flagged rfl rfl rfl

theorem takePicDelete_quiet (k : ServiceIx) (key : Nat) (b : List Byte) (s : State) :
    Quiet r s (takePicDelete k key b s) := by
  unfold takePicDelete
  split
  · exact countPic_quiet _ _ s
  · split_ifs
    · exact refusePicture_quiet k s
    · exact ((removeObject_quiet _ _ s).trans (cutIfOnAir_quiet _ _ _)).trans (countPic_quiet _ _ _)

theorem loseLoads_quiet (p : PortId) (s : State) : Quiet r s (loseLoads p s) := by
  unfold loseLoads
  dsimp only
  split_ifs
  · exact Quiet.refl s
  · refine Quiet.trans (Quiet.trans ?_ (Quiet.foldl (fun t r => countPic_quiet _ _ t) _ _)) (raiseFlag_quiet _ _)
    exact Quiet.same rfl rfl rfl

theorem expirePicture_quiet (k : ServiceIx) (o : ObjectId) (s : State) : Quiet r s (expirePicture k o s) := by
  unfold expirePicture
  split
  · exact Quiet.refl s
  · dsimp only
    split_ifs <;> exact Quiet.same rfl rfl rfl

theorem endTurn_quiet (k : ServiceIx) (x : PicRecord) (s : State) : Quiet r s (endTurn k x s) := by
  unfold endTurn
  dsimp only
  split_ifs
  · exact ((modifyPicCarousel_quiet k _ s).trans (removeObject_quiet k x.id _)).trans (countPic_quiet k _ _)
  · exact (modifyPicCarousel_quiet k _ s).trans (modifyObject_quiet k x.id _ _)

theorem giveSegment_quiet (k : ServiceIx) (x : PicRecord) (s : State) : Quiet r s (giveSegment k x s).1 := by
  unfold giveSegment
  dsimp only
  split_ifs
  · exact (countPic_quiet k _ s).trans (modifyObject_quiet k x.id _ _)
  · exact (countPic_quiet k _ s).trans (endTurn_quiet k x _)

theorem requestPictures_quiet (k : ServiceIx) (m : Nat) :
    ∀ (closed : List ObjectId) (s : State), Quiet r s (requestPictures k m closed s).1 := by
  induction m with
  | zero => intro closed s; exact Quiet.refl s
  | succ m ih =>
    intro closed s
    unfold requestPictures
    split
    · exact (giveSegment_quiet _ _ s).trans (ih _ _)
    · split
      · exact Quiet.refl s
      · refine Quiet.trans (Quiet.trans ?_ (giveSegment_quiet _ _ _)) (ih _ _)
        exact Quiet.same rfl rfl rfl

/-! ### ASM, CPR and PLE -/

theorem testEntry_quiet (a : Arrival) (s : State) : Quiet r s (testEntry a s) := by
  unfold testEntry
  split
  · split_ifs
    · split <;> exact Quiet.same rfl rfl rfl
    · exact countAsm_quiet _ s
  · exact countAsm_quiet _ s

theorem holdArrival_quiet (a : Arrival) (s : State) : Quiet r s (holdArrival a s) := by
  unfold holdArrival
  split
  · exact setSlot_quiet _ _ s
  · split_ifs
    · exact setSlot_quiet _ _ s
    · exact countAsm_quiet _ s
    · exact countAsm_quiet _ s
  · exact countAsm_quiet _ s

theorem arrive_quiet (a : Arrival) (s : State) : Quiet r s (arrive a s) := by
  unfold arrive
  split
  · split_ifs
    · exact Quiet.flagged rfl rfl rfl
    · exact countAsm_quiet _ s
    · exact holdArrival_quiet a s
    · exact testEntry_quiet a s
  · exact countAsm_quiet _ s

theorem openSlot_quiet (n : FrameNo) (l : Layout) (s : State) : Quiet r s (openSlot n l s) :=
  (setSlot_quiet _ _ s).trans (Quiet.foldl (fun t a => testEntry_quiet a t) _ _)

theorem freeSlot_quiet (n : FrameNo) (s : State) : Quiet r s (freeSlot n s) := by
  unfold freeSlot
  dsimp only
  split_ifs <;> exact Quiet.same rfl rfl rfl

theorem sealFrame_quiet (n : FrameNo) (s : State) : Quiet r s (sealFrame n s) := by
  unfold sealFrame
  split
  · split_ifs <;> exact Quiet.same rfl rfl rfl
  · exact Quiet.same rfl rfl rfl

theorem deliver_quiet (n : FrameNo) (id : ServiceId) (c : Contribution) (s : State) : Quiet r s (deliver n id c s) :=
  (handIn_quiet _ s).trans (arrive_quiet _ _)

theorem fillSide_quiet (k : ServiceIx) (cadence c : Nat) (s : State) : Quiet r s (fillSide k cadence c s).1 := by
  unfold fillSide
  split_ifs
  · exact Quiet.refl s
  · exact (modifyCarousel_quiet _ _ s).trans (requestPictures_quiet _ _ _ _)

theorem produceService_quiet (k : ServiceIx) (n : FrameNo) (e : LayoutEntry) (s : State) :
    Quiet r s (produceService k n e s) := by
  unfold produceService
  split_ifs
  · refine Quiet.trans (Quiet.trans ?_ (fillSide_quiet _ _ _ _)) (deliver_quiet _ _ _ _)
    split_ifs
    · exact Quiet.flagged rfl rfl rfl
    · exact Quiet.same rfl rfl rfl
  · exact Quiet.refl s

theorem produceAlert_quiet (n : FrameNo) (e : LayoutEntry) (s : State) : Quiet r s (produceAlert n e s) := by
  refine Quiet.ite (fun _ => ?_) (fun _ => Quiet.refl s)
  refine Quiet.trans ?_ (deliver_quiet _ _ _ _)
  exact Quiet.ite (fun _ => Quiet.flagged rfl rfl rfl) (fun _ => Quiet.same rfl rfl rfl)

theorem produceEntry_quiet (n : FrameNo) (s : State) (e : LayoutEntry) : Quiet r s (produceEntry n s e) := by
  unfold produceEntry
  split_ifs
  · exact produceAlert_quiet _ _ s
  · split
    · exact produceService_quiet _ _ _ s
    · exact Quiet.refl s

theorem produce_quiet (n : FrameNo) (s : State) : Quiet r s (produce n s) := by
  unfold produce
  split
  · split_ifs
    · exact Quiet.foldl (fun t e => produceEntry_quiet n t e) _ s
    · exact Quiet.refl s
  · exact Quiet.refl s

theorem computeAt_quiet (n : FrameNo) (s : State) : Quiet r s (computeAt n s) := by
  unfold computeAt
  refine Quiet.trans ?_ (openSlot_quiet _ _ _)
  split_ifs
  · exact Quiet.flagged rfl rfl rfl
  · exact Quiet.same rfl rfl rfl

theorem computeStep_quiet (n : FrameNo) (s : State) : Quiet r s (computeStep n s) :=
  Quiet.ite (fun _ => computeAt_quiet _ s) (fun _ => Quiet.refl s)

/-! ### PVW's table -/

theorem schedule_quiet (u : UnitId) (f : FrameNo) (s : State) : Quiet r s (schedule u f s) :=
  Quiet.ite (fun _ => Quiet.same rfl rfl rfl) (fun _ => Quiet.refl s)

theorem goSilent_quiet (u : UnitId) (n : FrameNo) (s : State) : Quiet r s (goSilent u n s) := by
  unfold goSilent
  split
  · exact Quiet.refl s
  · exact ((modifyPeer_quiet _ _ s).trans (raiseFlag_quiet _ _)).trans (schedule_quiet _ _ _)

theorem withdraw_quiet (u : UnitId) (x : Option FrameNo) (s : State) : Quiet r s (withdraw u x s) := by
  unfold withdraw
  dsimp only
  split
  · exact (modifyPeer_quiet _ _ s).trans (schedule_quiet _ _ _)
  · exact (modifyPeer_quiet _ _ s).trans (schedule_quiet _ _ _)
  · exact modifyPeer_quiet _ _ s

theorem compareDigest_quiet (u : UnitId) (d : Option (FrameNo × BitVec 16)) (s : State) :
    Quiet r s (compareDigest u d s) := by
  unfold compareDigest
  split
  · exact Quiet.refl s
  · exact modifyPeer_quiet _ _ s
  · exact Quiet.flagged rfl rfl rfl

theorem rejoinTest_quiet (u : UnitId) (x : UnitState) (b : PresenceBody) (s : State) :
    Quiet r s (rejoinTest u x b s) := by
  unfold rejoinTest
  split
  · exact Quiet.refl s
  · split_ifs
    · refine Quiet.trans ?_ (issueClaim_quiet _ _)
      exact Quiet.same rfl rfl rfl
    · exact Quiet.refl s

theorem takePresence_quiet (u : UnitId) (b : List Byte) (s : State) : Quiet r s (takePresence u b s) := by
  unfold takePresence
  dsimp only
  split_ifs
  · exact Quiet.same rfl rfl rfl
  · split
    · exact Quiet.same rfl rfl rfl
    · refine Quiet.trans ?_ (noteAnnounced_quiet _ _)
      unfold meetPresence
      dsimp only
      split_ifs
      · exact Quiet.refl s
      · exact (((modifyPeer_quiet _ _ s).trans (withdraw_quiet _ _ _)).trans (compareDigest_quiet _ _ _)).trans
          (rejoinTest_quiet _ _ _ _)
      · exact ((modifyPeer_quiet _ _ s).trans (compareDigest_quiet _ _ _)).trans (rejoinTest_quiet _ _ _ _)

theorem tellCancelled_quiet (u : UnitId) (c : Bool) (s : State) : Quiet r s (tellCancelled u c s) :=
  Quiet.ite (fun _ => noticeCancelled_quiet u s) (fun _ => Quiet.refl s)

theorem takeClaim_quiet (u : UnitId) (b : List Byte) (s : State) : Quiet r s (takeClaim u b s) := by
  unfold takeClaim
  dsimp only
  split_ifs
  · exact Quiet.same rfl rfl rfl
  · exact Quiet.same rfl rfl rfl
  · exact modifyPeer_quiet _ _ s
  · unfold newVersion
    dsimp only
    split_ifs
    · exact (modifyPeer_quiet _ _ s).trans (tellCancelled_quiet _ _ _)
    · exact (modifyPeer_quiet _ _ s).trans (tellCancelled_quiet _ _ _)
    · exact (modifyPeer_quiet _ _ s).trans (raiseFlag_quiet _ _)

/-! ### LKP's receive side -/

theorem huntPacket_quiet (l : List Byte) (s : State) : Quiet false s (huntPacket l s) := by
  unfold huntPacket
  dsimp only
  split_ifs <;> exact Quiet.moved rfl rfl id nofun

theorem huntBroken_quiet (s : State) : Quiet r s (huntBroken s) := Quiet.same rfl rfl rfl

theorem loseSync_quiet (s : State) : Quiet false s (loseSync s) := by
  unfold loseSync
  refine Quiet.trans (Quiet.trans ?_ (breakListen_quiet _)) (raiseFlag_quiet _ _)
  exact Quiet.moved rfl rfl id nofun

theorem headerFailure_quiet (s : State) : Quiet false s (headerFailure s) := by
  unfold headerFailure
  dsimp only
  split_ifs
  · refine Quiet.trans ?_ (loseSync_quiet _)
    exact Quiet.same rfl rfl rfl
  · exact Quiet.same rfl rfl rfl

theorem malformedFrom_quiet (x : Byte) (s : State) : Quiet r s (malformedFrom x s) := by
  unfold malformedFrom
  split
  · exact modifySender_quiet _ _ s
  · exact Quiet.refl s

theorem takeEcho_quiet (p : LinkPacket) (s : State) : Quiet r s (takeEcho p s) := by
  unfold takeEcho
  refine Quiet.trans ?_ (linkReturn_quiet _)
  unfold markEcho
  split_ifs <;> exact Quiet.same rfl rfl rfl

theorem takeClash_quiet (s : State) : Quiet r s (takeClash s) := by
  unfold takeClash
  have h : Quiet r s (raiseFlag .idClash { s with lkp.counters.clashes := bump s.lkp.counters.clashes }) :=
    Quiet.flagged rfl rfl rfl
  exact Quiet.ite (fun _ => h.trans (enterClash_quiet _)) (fun _ => h)

theorem noteValid_quiet (u : UnitId) (s : State) : Quiet r s (noteValid u s) := by
  unfold noteValid
  refine Quiet.trans ?_ (linkReturn_quiet _)
  unfold markPeer
  split_ifs <;> exact Quiet.same rfl rfl rfl

theorem handOn_quiet (k : Kind) (u : UnitId) (p : LinkPacket) (g : Bool) (s : State) :
    Quiet r s (handOn k u p g s) := by
  cases k
  · exact takePresence_quiet _ _ s
  · exact takeClaim_quiet _ _ s
  · exact arrive_quiet _ s
  · exact takeAlert_quiet _ _ s
  · exact takeAlertEnd_quiet _ _ s

theorem peerPacket_quiet (k : Kind) (u : UnitId) (p : LinkPacket) (s : State) : Quiet r s (peerPacket k u p s) := by
  unfold peerPacket
  dsimp only
  have h : Quiet r s _ := modifySender_quiet u (testSequence p.seq) s
  split_ifs
  · exact (h.trans (noteValid_quiet _ _)).trans (handOn_quiet _ _ _ _ _)
  · exact ((h.trans (modifySender_quiet _ _ _)).trans (noteValid_quiet _ _)).trans (handOn_quiet _ _ _ _ _)
  · exact h.trans (modifySender_quiet _ _ _)

theorem sortPacket_quiet (k : Kind) (c : BitVec 16) (p : LinkPacket) (s : State) :
    Quiet r s (sortPacket k c p s) := by
  unfold sortPacket
  split_ifs
  · exact Quiet.flagged rfl rfl rfl
  · exact takeEcho_quiet _ s
  · exact takeClash_quiet s
  · exact peerPacket_quiet _ _ _ s

theorem headerGood_quiet (s : State) : Quiet r s (headerGood s) := Quiet.same rfl rfl rfl

theorem sortAt_quiet (f : List Byte) (s : State) : Quiet r s (sortAt f s) := by
  unfold sortAt
  split
  · exact (headerGood_quiet s).trans (sortPacket_quiet _ _ _ _)
  · exact Quiet.refl s

theorem linkHuntAt_quiet (f : List Byte) (s : State) : Quiet false s (linkHuntAt f s).state := by
  unfold linkHuntAt
  split_ifs
  · exact Quiet.refl s
  · exact huntPacket_quiet _ s
  · exact huntBroken_quiet s

theorem linkLockedAt_quiet (f : List Byte) (s : State) : Quiet false s (linkLockedAt f s).state := by
  unfold linkLockedAt
  split_ifs
  · exact Quiet.refl s
  · exact headerFailure_quiet s
  · exact (malformedFrom_quiet _ s).trans (headerFailure_quiet _)
  · exact sortAt_quiet f s

theorem linkTurn_quiet (bs : List Byte) (s : State) : Quiet false s (linkTurn bs s).state := by
  unfold linkTurn
  split
  · unfold linkHuntTurn
    dsimp only
    split_ifs
    · exact linkHuntAt_quiet _ s
    · exact Quiet.same rfl rfl rfl
    · exact linkHuntAt_quiet _ s
    · exact huntBroken_quiet s
  · unfold linkLockedTurn
    dsimp only
    split_ifs
    · exact linkLockedAt_quiet _ s
    · exact Quiet.refl s
    · exact linkLockedAt_quiet _ s
    · exact loseSync_quiet s

theorem readLine_quiet (bs : List Byte) (s : State) : Quiet false s (readLine bs s) :=
  runTurns_keeps Quiet.refl Quiet.trans linkTurn_quiet _ _ _

theorem receive_quiet (k : Kind) (p : LinkPacket) (s : State) : Quiet false s (receive k p s) := by
  refine Quiet.ite (fun _ => Quiet.refl s) (fun _ => ?_)
  split
  · exact huntPacket_quiet _ s
  · exact Quiet.ite (fun _ => (headerGood_quiet s).trans (sortPacket_quiet _ _ _ _))
      (fun _ => ((malformedFrom_quiet _ s).trans (headerFailure_quiet _)).trans (readLine_quiet _ _))

theorem receiveBytes_quiet (bs : List Byte) (s : State) : Quiet false s (receiveBytes bs s) :=
  Quiet.ite (fun _ => readLine_quiet bs s) (fun _ => Quiet.refl s)

theorem transmitterFree_quiet (s : State) : Quiet r s (transmitterFree s) :=
  Quiet.trans (t := { s with lkp.transmitting := none }) (Quiet.same rfl rfl rfl) (arbitrate_quiet _)

/-! ### SIN -/

theorem onIntake_quiet (k : Nat) (f : Intake → Intake) (s : State) : Quiet r s (onIntake k f s) := by
  unfold onIntake
  split
  · exact modifyIntake_quiet _ _ s
  · exact Quiet.refl s

theorem lockSeen_quiet (p : PortId) (s : State) : Quiet r s (lockSeen p s) := by
  unfold lockSeen
  split
  · exact onIntake_quiet _ _ s
  · exact onIntake_quiet _ _ s
  · exact Quiet.refl s

theorem unlockSeen_quiet (p : PortId) (s : State) : Quiet r s (unlockSeen p s) := by
  unfold unlockSeen
  split
  · exact onIntake_quiet _ _ s
  · exact Quiet.refl s

theorem feedHuntGood_quiet (p : PortId) (l : List Byte) (s : State) : Quiet false s (feedHuntGood p l s) := by
  unfold feedHuntGood
  dsimp only
  split_ifs
  · exact Quiet.moved rfl rfl id nofun
  · exact Quiet.trans (t := modifyPort p _ (modifyPort p _ s)) (Quiet.moved rfl rfl id nofun) (lockSeen_quiet _ _)

theorem feedHuntBroken_quiet (p : PortId) (s : State) : Quiet r s (feedHuntBroken p s) := modifyPort_steady _ _ s
theorem feedFound_quiet (p : PortId) (s : State) : Quiet false s (feedFound p s) := modifyPort_quiet _ _ s

theorem feedFailure_quiet (p : PortId) (s : State) : Quiet false s (feedFailure p s) := by
  unfold feedFailure
  dsimp only
  split_ifs
  · exact Quiet.moved rfl rfl id nofun
  · exact Quiet.trans (t := modifyPort p _ (modifyPort p _ s)) (Quiet.moved rfl rfl id nofun)
      (unlockSeen_quiet _ _)

theorem markActive_quiet (p : PortId) (bs : List Byte) (s : State) : Quiet false s (markActive p bs s) :=
  Quiet.ite (fun _ => modifyPort_quiet _ _ s) (fun _ => Quiet.refl s)

theorem takeAudioFor_quiet (k : ServiceIx) (b : List Byte) (s : State) : Quiet r s (takeAudioFor k b s) := by
  unfold takeAudioFor
  split
  · exact Quiet.refl s
  · dsimp only
    split_ifs
    · exact modifyIntake_quiet _ _ s
    · exact (modifyIntake_quiet _ _ s).trans (raiseFlag_quiet _ _)
    · exact modifyIntake_quiet _ _ s

theorem takeAlertAudio_quiet (b : List Byte) (s : State) : Quiet r s (takeAlertAudio b s) := by
  unfold takeAlertAudio
  dsimp only
  split_ifs
  · exact Quiet.same rfl rfl rfl
  · exact Quiet.flagged rfl rfl rfl
  · exact Quiet.same rfl rfl rfl

theorem misplaced_quiet (p : PortId) (k : FeedKind) (s : State) : Quiet r s (misplaced p k s) := countPort_quiet _ _ s
theorem fillPacket_quiet (p : PortId) (s : State) : Quiet r s (fillPacket p s) := countPort_quiet _ _ s

theorem forService_quiet (i : ServiceIx) (p : PortId) (k : FeedKind) (b : List Byte) (s : State) :
    Quiet r s (forService i p k b s) := by
  cases k
  · exact takeAudioFor_quiet _ _ s
  · exact takeTextSet_quiet _ _ _ s
  · exact takeTextClear_quiet _ _ _ s
  · exact takePicBegin_quiet _ _ _ _ s
  · exact takePicData_quiet _ _ _ s
  · exact takePicEnd_quiet _ _ _ s
  · exact takePicDelete_quiet _ _ _ s
  · exact misplaced_quiet _ _ s
  · exact misplaced_quiet _ _ s
  · exact fillPacket_quiet _ s

theorem forAlert_quiet (p : PortId) (k : FeedKind) (b : List Byte) (s : State) : Quiet r s (forAlert p k b s) := by
  cases k
  · exact takeAlertAudio_quiet _ s
  · exact misplaced_quiet _ _ s
  · exact misplaced_quiet _ _ s
  · exact misplaced_quiet _ _ s
  · exact misplaced_quiet _ _ s
  · exact misplaced_quiet _ _ s
  · exact misplaced_quiet _ _ s
  · exact takeAlertReq_quiet _ s
  · exact takeAlertClear_quiet s
  · exact fillPacket_quiet _ s

theorem dispatchFeed_quiet (p : PortId) (k : FeedKind) (b : List Byte) (s : State) :
    Quiet r s (dispatchFeed p k b s) := by
  unfold dispatchFeed
  split
  · exact forAlert_quiet _ _ _ s
  · split
    · exact forService_quiet _ _ _ _ s
    · exact Quiet.refl s
  · split
    · exact forService_quiet _ _ _ _ s
    · exact Quiet.refl s
  · exact Quiet.refl s

theorem goodFeed_quiet (p : PortId) (c : Byte) (b : List Byte) (s : State) : Quiet r s (goodFeed p c b s) := by
  unfold goodFeed
  have h : Quiet r s (modifyPort p (fun x => { x with failures := 0, nextKnown := true }) s) := modifyPort_steady _ _ s
  dsimp only
  split
  · exact h.trans (countPort_quiet _ _ _)
  · exact Quiet.ite (fun _ => h.trans (Quiet.ite
        (fun _ => (countPort_quiet _ _ _).trans (dispatchFeed_quiet _ _ _ _)) (fun _ => countPort_quiet _ _ _)))
      (fun _ => h.trans (countPort_quiet _ _ _))

theorem feedHuntAt_quiet (p : PortId) (f : List Byte) (s : State) : Quiet false s (feedHuntAt p f s).state := by
  unfold feedHuntAt
  split_ifs
  · exact Quiet.refl s
  · exact feedHuntGood_quiet p _ s
  · exact feedHuntBroken_quiet p s

theorem feedLockedAt_quiet (p : PortId) (f : List Byte) (s : State) : Quiet false s (feedLockedAt p f s).state := by
  unfold feedLockedAt
  split_ifs
  · exact Quiet.refl s
  · exact goodFeed_quiet p _ _ s
  · exact feedFailure_quiet p s

theorem feedTurn_quiet (p : PortId) (bs : List Byte) (s : State) : Quiet false s (feedTurn p bs s).state := by
  unfold feedTurn
  split
  · exact Quiet.refl s
  · unfold feedHuntTurn
    dsimp only
    split_ifs
    · exact feedHuntAt_quiet p _ s
    · exact modifyPort_quiet p _ s
    · exact feedHuntAt_quiet p _ s
    · exact feedHuntBroken_quiet p s
  · unfold feedLostTurn
    split_ifs
    · exact Quiet.refl s
    · exact (feedFound_quiet p s).trans (feedHuntAt_quiet p _ _)
  · unfold feedLockedTurn
    dsimp only
    split_ifs
    · exact feedLockedAt_quiet p _ s
    · exact Quiet.refl s
    · exact feedLockedAt_quiet p _ s
    · exact feedFailure_quiet p s

theorem feedBytes_quiet (p : PortId) (bs : List Byte) (s : State) : Quiet false s (feedBytes p bs s) :=
  Quiet.ite (fun _ => (markActive_quiet p bs s).trans
    (runTurns_keeps Quiet.refl Quiet.trans (feedTurn_quiet p) _ _ _)) (fun _ => Quiet.refl s)

theorem feedPacket_quiet (p : PortId) (c : Byte) (b : List Byte) (s : State) : Quiet false s (feedPacket p c b s) := by
  unfold feedPacket
  have h : Quiet false s (modifyPort p (fun x => { x with active := true }) s) := modifyPort_quiet _ _ s
  refine Quiet.ite (fun _ => Quiet.refl s) (fun _ => Quiet.ite (fun _ => feedBytes_quiet p _ s) (fun _ => ?_))
  dsimp only
  split
  · exact h.trans (feedHuntGood_quiet p _ _)
  · exact (h.trans (feedFound_quiet p _)).trans (feedHuntGood_quiet p _ _)
  · exact h.trans (goodFeed_quiet _ _ _ _)
  · exact Quiet.refl s

theorem losePort_quiet (p : PortId) (s : State) : Quiet false s (losePort p s) := by
  unfold losePort
  have h := (((modifyPort_quiet p (fun x =>
    { x with state := .lost, huntCount := 0, held := [], failures := 0, nextKnown := false,
             counters.losts := bump x.counters.losts }) s).trans (unlockSeen_quiet p _)).trans
    (raiseFlag_quiet .feedLost _)).trans (loseLoads_quiet p _)
  exact Quiet.ite (fun _ => h.trans (alertFeedLost_quiet _)) (fun _ => h)

theorem takeRoles_quiet (s : State) : Quiet false s (takeRoles s) :=
  (Quiet.foldl (fun t p => modifyPort_quiet p _ t) _ s).trans (Quiet.same rfl rfl rfl)

/-! ### The turns of a boundary -/

theorem atNow_quiet {f : FrameNo → State → State} (h : ∀ n s, Quiet r s (f n s)) (s : State) :
    Quiet r s (atNow f s) := by
  unfold atNow
  split
  · exact h _ s
  · exact Quiet.refl s

theorem startFrame_quiet (s : State) : Quiet r s (startFrame s) := by
  unfold startFrame
  split
  · split_ifs <;> exact Quiet.same rfl rfl rfl
  · exact Quiet.same rfl rfl rfl

theorem frameJump_quiet (s : State) : Quiet r s (frameJump s) := by
  unfold frameJump
  refine Quiet.trans ?_ (jumpEffects_quiet _)
  exact Quiet.flagged rfl rfl rfl

theorem holdoverExpired_quiet (s : State) : Quiet r s (holdoverExpired s) := by
  unfold holdoverExpired
  have h : Quiet r s (raiseFlag .holdoverExpired
      { s with sup.lifetime.expiries := bump s.sup.lifetime.expiries }) := Quiet.flagged rfl rfl rfl
  exact Quiet.ite (fun _ => h.trans (enterOffAir_quiet _)) (fun _ => h)

theorem relocked_quiet (s : State) : Quiet r s (relocked s) :=
  Quiet.ite (fun _ => enterListen_quiet s) (fun _ => Quiet.refl s)

theorem countListen_quiet (s : State) : Quiet r s (countListen s) := by
  unfold countListen
  split_ifs <;> exact Quiet.same rfl rfl rfl

theorem resendClaim_quiet (s : State) : Quiet r s (resendClaim s) := by
  unfold resendClaim
  split
  · exact sendClaim_quiet _ s
  · exact Quiet.refl s

theorem ageRead_notReading {s : State} (h : s.cfl.reading = false) : ageRead s = s := by
  unfold ageRead
  rw [h]
  rfl

theorem endFrame_quiet (s : State) : Quiet r s (endFrame s) := Quiet.same rfl rfl rfl
theorem ageLink_quiet (s : State) : Quiet r s (ageLink s) := Quiet.same rfl rfl rfl
theorem selectPort_quiet (k : ServiceIx) (x : Selection) (s : State) : Quiet r s (selectPort k x s) :=
  (modifyIntake_quiet _ _ s).trans (raiseFlag_quiet _ _)
theorem removeSlot_quiet (u : UnitId) (s : State) : Quiet r s (removeSlot u s) := Quiet.same rfl rfl rfl
theorem ageHold_quiet (s : State) : Quiet r s (ageHold s) := Quiet.same rfl rfl rfl
theorem pruneAt_quiet (n : FrameNo) (s : State) : Quiet r s { s with ple.chain := pruneChain n s.ple.chain } :=
  Quiet.same rfl rfl rfl
theorem noticeTextSide_quiet (k : ServiceIx) (s : State) : Quiet r s (noticeTextSide k s) :=
  Quiet.same rfl rfl rfl
theorem noticePictureSide_quiet (k : ServiceIx) (s : State) : Quiet r s (noticePictureSide k s) :=
  Quiet.same rfl rfl rfl
theorem timeOutLoad_quiet (k : ServiceIx) (o : ObjectId) (s : State) : Quiet r s (timeOutLoad k o s) :=
  Quiet.flagged rfl rfl rfl
theorem agePictures_quiet (k : ServiceIx) (s : State) : Quiet r s (agePictures k s) := Quiet.same rfl rfl rfl
theorem modifyRecord_quiet (i : AlertId) (f : AlertRecord → AlertRecord) (s : State) : Quiet r s (modifyRecord i f s) :=
  Quiet.same rfl rfl rfl
theorem endRecord_quiet (i : AlertId) (s : State) : Quiet r s (endRecord i s) := Quiet.same rfl rfl rfl
theorem localAlertOn_quiet (s : State) : Quiet r s { s with alc.localAlert.state := .on } :=
  Quiet.same rfl rfl rfl
theorem clearLocal_quiet (s : State) : Quiet r s (clearLocal s) := Quiet.same rfl rfl rfl
theorem testActivity_quiet (p : PortId) (s : State) : Quiet false s (testActivity p s) :=
  Quiet.ite (fun _ => modifyPort_quiet _ _ s) (fun _ => Quiet.refl s)
theorem countSelection_quiet (k : ServiceIx) (s : State) : Quiet r s (countSelection k s) :=
  Quiet.ite (fun _ => modifyIntake_quiet _ _ s) (fun _ => Quiet.refl s)
theorem sealStep_quiet (n : FrameNo) (s : State) :
    Quiet r s (if s.pvw.unit.computing then sealFrame (plus n 1) s else s) :=
  Quiet.ite (fun _ => sealFrame_quiet _ s) (fun _ => Quiet.refl s)

theorem produceStep_quiet (n : FrameNo) (s : State) : Quiet r s (produce (plus n (leadOf s)) s) := produce_quiet _ s

/-- Every action but the read's own two is quiet. -/
theorem fire_quiet (a : Act) (s : State) (h1 : a ≠ .readAge) (h2 : a ≠ .readFailed) : Quiet false s (fire a s) := by
  cases a
  case readAge => exact absurd rfl h1
  case readFailed => exact absurd rfl h2
  case endFrame => exact endFrame_quiet s
  case frameJump => exact frameJump_quiet s
  case holdoverExpired => exact holdoverExpired_quiet s
  case relocked => exact relocked_quiet s
  case linkAges => exact ageLink_quiet s
  case portActivity p => exact testActivity_quiet p s
  case feedLost p => exact losePort_quiet p s
  case feedCounts k => exact countSelection_quiet k s
  case feedSwitch k => exact selectPort_quiet k _ s
  case feedRevert k => exact selectPort_quiet k _ s
  case slotRemoval u => exact removeSlot_quiet u s
  case claimInForce u => exact modifyPeer_quiet u _ s
  case peerSilent u => exact atNow_quiet (goSilent_quiet u) s
  case rejoinHold => exact ageHold_quiet s
  case listenCount => exact countListen_quiet s
  case enterJoining => exact atNow_quiet enterJoining_quiet s
  case enterOnAir => exact enterOnAir_quiet s
  case startFrame => exact startFrame_quiet s
  case freeSlot => exact atNow_quiet freeSlot_quiet s
  case computeLayout => exact atNow_quiet computeStep_quiet s
  case pruneChain => exact atNow_quiet pruneAt_quiet s
  case sealFrame => exact atNow_quiet sealStep_quiet s
  case expireContributions => exact atNow_quiet expireContributions_quiet s
  case textSide k => exact noticeTextSide_quiet k s
  case textExpiry k i => exact modifyCarousel_quiet k _ s
  case textHold k => exact modifyCarousel_quiet k _ s
  case pictureSide k => exact noticePictureSide_quiet k s
  case pictureLoadTimeout k o => exact timeOutLoad_quiet k o s
  case pictureLife k => exact agePictures_quiet k s
  case pictureExpiry k o => exact expirePicture_quiet k o s
  case produce => exact atNow_quiet produceStep_quiet s
  case presenceSend => exact sendPresence_quiet s
  case claimResend => exact resendClaim_quiet s
  case enterIsolated => exact enterIsolated_quiet s
  case alertRecordStart i => exact modifyRecord_quiet i _ s
  case alertRecordEnded i => exact endRecord_quiet i s
  case localAlertOn => exact localAlertOn_quiet s
  case localAlertIdle => exact clearLocal_quiet s
  case alertStopTest => exact atNow_quiet stopTest_quiet s
  case alertDurationLimit => exact atNow_quiet durationEnd_quiet s
  case alertSourcesTest => exact atNow_quiet sourcesTest_quiet s
  case escalate => exact atNow_quiet escalate_quiet s
  case originate => exact atNow_quiet originate_quiet s
  case alertRepeat => exact repeatAlert_quiet s

theorem pass_quiet (a : Act) (s : State) : Quiet false s (pass a s) := by
  cases a
  case presenceSend => exact Quiet.ite (fun _ => Quiet.same rfl rfl rfl) (fun _ => Quiet.refl s)
  case claimResend => exact Quiet.ite (fun _ => Quiet.same rfl rfl rfl) (fun _ => Quiet.refl s)
  case alertRepeat => exact Quiet.ite (fun _ => Quiet.same rfl rfl rfl) (fun _ => Quiet.refl s)
  all_goals exact Quiet.refl s

/-! ### The read's own two actions, and a turn -/

/-- A turn of any action leaves the queue, the lines and the agenda alone, and keeps the attention line and the page
memory's form. -/
theorem fire_keeps (a : Act) (s : State) :
    (fire a s).pending = s.pending ∧ (fire a s).lines = s.lines ∧ (fire a s).progress.agenda = s.progress.agenda ∧
      (AttentionFollows s → AttentionFollows (fire a s)) ∧ (MemorySound s → MemorySound (fire a s)) := by
  by_cases h1 : a = .readAge
  · subst h1
    show (ageRead s).pending = _ ∧ (ageRead s).lines = _ ∧ (ageRead s).progress.agenda = _ ∧
      (_ → AttentionFollows (ageRead s)) ∧ (_ → MemorySound (ageRead s))
    unfold ageRead
    split <;> exact ⟨rfl, rfl, rfl, id, id⟩
  · by_cases h2 : a = .readFailed
    · subst h2
      exact ⟨rfl, rfl, rfl, fun _ => rfl, id⟩
    · have q := fire_quiet a s h1 h2
      exact ⟨q.pending, q.lines, q.agenda, q.attention, q.memory⟩

theorem takeTurn_keeps (a : Act) (s : State) :
    (takeTurn a s).pending = s.pending ∧ (takeTurn a s).lines = s.lines ∧
      (takeTurn a s).progress.agenda = s.progress.agenda ∧
      (AttentionFollows s → AttentionFollows (takeTurn a s)) ∧ (MemorySound s → MemorySound (takeTurn a s)) := by
  rcases takeTurn_cases a s with ⟨_, h⟩ | ⟨_, h⟩ <;> rw [h]
  · exact fire_keeps a s
  · have q := pass_quiet a s
    exact ⟨q.pending, q.lines, q.agenda, q.attention, q.memory⟩

/-- A settled state has no boundary in progress. -/
theorem settle_agenda (s : State) : (settle s).progress.agenda = [] :=
  runAll_keeps (P := fun s => s.progress.agenda = []) (fun a s h => (takeTurn_keeps a s).2.2.1.trans h) _ _ rfl

end Sys2Proof.Machine
end

