-- ==== Sys2Proof/Laws/Report.lean ====
section
/-! SUPPORT. The bytes of SUP's answers: what a run of items is, and the data of each kind of answer. -/

namespace Sys2Proof.Machine

@[simp] theorem absentItem_bytes (request : Byte) (code : BitVec 16) : absentItem request code = [] := rfl

@[simp] theorem bytesItem_bytes (bs : List Byte) (request : Byte) (code : BitVec 16) : bytesItem bs request code = bs :=
  rfl

@[simp] theorem optionItem_none {α : Type} (f : α → Item) : optionItem f none = absentItem := rfl
@[simp] theorem optionItem_some {α : Type} (f : α → Item) (v : α) : optionItem f (some v) = f v := rfl

@[simp] theorem itemRunFrom_nil (request : Byte) (n : Nat) : itemRunFrom request n [] = [] := rfl

@[simp] theorem itemRunFrom_cons (request : Byte) (n : Nat) (i : Item) (is : List Item) :
    itemRunFrom request n (i :: is) = itemBytes request (BitVec.ofNat 16 n) i ++ itemRunFrom request (n + 1) is := rfl

/-- A run of items is their bytes one after the other, each item with the code of its place (R195). -/
theorem itemRunFrom_eq (request : Byte) (is : List Item) :
    ∀ n, itemRunFrom request n is = (is.zipIdx n).flatMap (fun x => itemBytes request (BitVec.ofNat 16 x.2) x.1) := by
  induction is with
  | nil => intro n; rfl
  | cons i is ih => intro n; simp [ih]

@[simp] theorem dataBytes_none (code : Byte) : dataBytes code .none = [] := rfl
@[simp] theorem dataBytes_flags (code : Byte) (v : BitVec 24) : dataBytes code (.flags v) = be24 v := rfl
@[simp] theorem dataBytes_fault (code : Byte) (c : FaultCause) (f : Option Nat) :
    dataBytes code (.fault c f) = c.code :: faultFieldBytes f := rfl

/-- What a reading request reports is a run of items numbered from 1 (R195). -/
theorem dataBytes_report {d : AnswerData} (code : Byte) (h1 : d ≠ .none) (h2 : ∀ v, d ≠ .flags v)
    (h3 : ∀ c f, d ≠ .fault c f) : dataBytes code d = itemRun code (itemsOf d) := by
  unfold dataBytes
  split
  · exact absurd rfl h1
  · exact absurd rfl (h2 _)
  · exact absurd rfl (h3 _ _)
  · rfl

/-! ### What the items are of -/

/-- What is reported per service: at a service's place its value when the service is configured, else nothing. -/
theorem configured_getElem? {α : Type} (s : State) (f : ServiceIx → α) (k : ServiceIx) :
    ((configured s).map f)[k.val]? = (serviceDef s k).map (fun _ => f k) := by
  unfold configured serviceDef
  rcases servicesOf s with _ | ⟨a, _ | ⟨b, _ | ⟨c, _ | ⟨d, _ | ⟨e, l⟩⟩⟩⟩⟩ <;> fin_cases k <;> rfl

/-- An EMPTY slot's items: what it does not hold is absent (R119). -/
theorem textSlotItems_empty {x : TextSlot} (h : x.state = .empty) :
    textSlotItems x = [openItem x.state, absentItem, absentItem, absentItem, absentItem, openItem x.toggle, absentItem,
      openItem x.inList, absentItem] := by
  simp [textSlotItems, TextSlot.held, h]

/-- A filled slot's items. -/
theorem textSlotItems_filled {x : TextSlot} (h : x.state ≠ .empty) :
    textSlotItems x = [openItem x.state, openItem x.weight, openItem x.hold, openItem x.lifetime, openItem x.remaining,
      openItem x.toggle, openItem x.key, openItem x.inList, textItem x.text] := by
  simp [textSlotItems, TextSlot.held, h]

/-- An answer's bytes: the sync pair, what the check covers, and the check (R188, R195). -/
theorem answerBytes_eq (tag code : Byte) (k : AnswerKind) (d : AnswerData) :
    answerBytes tag code k d = [0x3C, 0xA5] ++ answerCore tag code k d ++ be16 (crc16 (answerCore tag code k d)) := rfl

end Sys2Proof.Machine
end

