-- ==== Sys2Proof/Laws/Scan.lean ====
section
/-! SUPPORT. How the receivers read bytes: what scanning finds, and, turn by turn, what each receiver does with what it
finds and the bytes it goes on with. -/

namespace Sys2Proof.Machine

variable {a b : Byte}

/-! ### Scanning -/

theorem NoPair.tail {x : Byte} {l : List Byte} (h : NoPair a b (x :: l)) : NoPair a b l :=
  fun u v e => h (x :: u) v (e ▸ rfl)

theorem seekPair_cons (x : Byte) (l : List Byte) :
    seekPair a b (x :: l) = if x = a ∧ l.head? = some b then x :: l else seekPair a b l := by
  simp [seekPair]

/-- Scanning finds nothing in bytes without a pair. -/
theorem seekPair_none {l : List Byte} (h : NoPair a b l) : seekPair a b l = [] := by
  induction l with
  | nil => rfl
  | cons x l ih =>
    rw [seekPair_cons, if_neg, ih h.tail]
    rintro ⟨rfl, hl⟩
    obtain ⟨v, rfl⟩ := List.head?_eq_some_iff.mp hl
    exact h [] v rfl

/-- Scanning that finds nothing has met no pair. -/
theorem noPair_of_seek {l : List Byte} (h : seekPair a b l = []) : NoPair a b l := by
  rintro u v rfl
  induction u with
  | nil => simp [seekPair] at h
  | cons x u ih =>
    rw [List.cons_append, seekPair_cons] at h
    split at h
    · cases h
    · exact ih h

/-- Scanning finds the first pair, whatever stands before it. -/
theorem seekPair_noise (hab : a ≠ b) {u : List Byte} (v : List Byte) (h : NoPair a b u) :
    seekPair a b (u ++ a :: b :: v) = a :: b :: v := by
  induction u with
  | nil => simp [seekPair]
  | cons x u ih =>
    rw [List.cons_append, seekPair_cons, if_neg, ih h.tail]
    rintro ⟨rfl, hl⟩
    obtain _ | ⟨y, u⟩ := u
    · simp at hl
      exact hab hl
    · simp at hl
      exact h [] u (by rw [hl]; rfl)

/-- Scanning finds nothing, or the first pair. -/
theorem seekPair_cases (a b : Byte) (l : List Byte) :
    seekPair a b l = [] ∨ ∃ v, seekPair a b l = a :: b :: v ∧ v.length + 2 ≤ l.length := by
  induction l with
  | nil => exact .inl rfl
  | cons x l ih =>
    rw [seekPair_cons]
    split
    · rename_i h
      obtain ⟨rfl, hl⟩ := h
      obtain ⟨v, rfl⟩ := List.head?_eq_some_iff.mp hl
      exact .inr ⟨v, rfl, by simp⟩
    · rcases ih with h | ⟨v, h, hv⟩
      · exact .inl h
      · exact .inr ⟨v, h, by simp; omega⟩

/-- Idle fill is skipped. -/
theorem skipIdle_fill {x : Byte} {l : List Byte} (h : ∀ y ∈ l, y = x) (v : List Byte) :
    skipIdle x (l ++ v) = skipIdle x v := by
  induction l with
  | nil => rfl
  | cons y l ih =>
    rw [h y (by simp)]
    unfold skipIdle at ih ⊢
    rw [List.cons_append, List.dropWhile_cons_of_pos (by simp)]
    exact ih (fun z hz => h z (by simp [hz]))

theorem skipIdle_idle {x : Byte} {l : List Byte} (h : ∀ y ∈ l, y = x) : skipIdle x l = [] := by
  have := skipIdle_fill h []
  rwa [List.append_nil] at this

theorem skipIdle_start {x y : Byte} (h : y ≠ x) (l : List Byte) : skipIdle x (y :: l) = y :: l := by
  unfold skipIdle
  rw [List.dropWhile_cons_of_neg (by simpa using h)]

theorem skipIdle_length (x : Byte) (l : List Byte) : (skipIdle x l).length ≤ l.length :=
  (List.dropWhile_sublist _).length_le

/-- The byte at which skipping stops is not idle. -/
theorem skipIdle_cases (x : Byte) (l : List Byte) : skipIdle x l = [] ∨ ∃ y v, skipIdle x l = y :: v ∧ y ≠ x := by
  induction l with
  | nil => exact .inl rfl
  | cons y l ih =>
    by_cases h : y = x
    · subst h
      rcases ih with h | h
      · left; simpa [skipIdle] using h
      · right; simpa [skipIdle] using h
    · exact .inr ⟨y, l, skipIdle_start h l, h⟩

/-! ### A port's turns -/

@[simp] theorem onIntake_ports (k : Nat) (f : Intake → Intake) (s : State) :
    (onIntake k f s).sin.ports = s.sin.ports := by
  unfold onIntake
  split <;> rfl

@[simp] theorem lockSeen_ports (p : PortId) (s : State) : (lockSeen p s).sin.ports = s.sin.ports := by
  unfold lockSeen
  split <;> simp

@[simp] theorem unlockSeen_ports (p : PortId) (s : State) : (unlockSeen p s).sin.ports = s.sin.ports := by
  unfold unlockSeen
  split <;> simp

/-- Entry to LOCKED clears a down count of the port's service (R109). -/
theorem lockSeen_main {p : PortId} {s : State} {k : ServiceIx} (h : roleOf s p = .main k.val) :
    lockSeen p s = modifyIntake k (fun x => { x with mainDown := 0 }) s := by
  unfold lockSeen onIntake
  rw [h]
  simp [ixOf]

theorem lockSeen_backup {p : PortId} {s : State} {k : ServiceIx} (h : roleOf s p = .backup k.val) :
    lockSeen p s = modifyIntake k (fun x => { x with backupDown := 0 }) s := by
  unfold lockSeen onIntake
  rw [h]
  simp [ixOf]

theorem lockSeen_alert {p : PortId} {s : State} (h : roleOf s p = .alert) : lockSeen p s = s := by
  unfold lockSeen
  rw [h]

/-- A main port that leaves LOCKED clears its service's up count (R109). -/
theorem unlockSeen_main {p : PortId} {s : State} {k : ServiceIx} (h : roleOf s p = .main k.val) :
    unlockSeen p s = modifyIntake k (fun x => { x with mainUp := 0 }) s := by
  unfold unlockSeen onIntake
  rw [h]
  simp [ixOf]

theorem unlockSeen_other {p : PortId} {s : State} (h : ∀ k, roleOf s p ≠ .main k) : unlockSeen p s = s := by
  unfold unlockSeen
  split
  · rename_i k hk
    exact absurd hk (h k)
  · rfl

/-- The most turns a port can still take over bytes. -/
def portMeasure (bs : List Byte) (x : Port) : Nat :=
  match x.state with
  | .disabled => 0
  | .lost => 2 * bs.length
  | .hunt => if x.huntCount = 0 then 2 * bs.length else 2 * (x.held.length + bs.length) + 1
  | .locked => if x.nextKnown then 2 * bs.length + 1 else 2 * bs.length

theorem portMeasure_locked {x : Port} (h : x.state = .locked) (bs : List Byte) :
    portMeasure bs x ≤ 2 * bs.length + 1 := by
  unfold portMeasure
  rw [h]
  dsimp only
  split <;> omega

theorem portMeasure_turns (bs : List Byte) (x : Port) : portMeasure bs x < turnsFor x.held bs := by
  unfold portMeasure turnsFor
  split
  · omega
  · omega
  · split <;> omega
  · split <;> omega

theorem feedHuntGood_measure (p : PortId) (inner l : List Byte) (s : State) (h : s.sin.ports[p].state = .hunt) :
    portMeasure l (feedHuntGood p inner s).sin.ports[p] ≤ 2 * (inner.length + l.length) + 1 := by
  unfold feedHuntGood
  dsimp only
  split
  · simp only [modifyPort_modifyPort, modifyPort_port]
    unfold portMeasure
    rw [h]
    simp
  · simp only [lockSeen_ports, modifyPort_modifyPort, modifyPort_port]
    unfold portMeasure
    simp

theorem feedHuntBroken_measure (p : PortId) (l : List Byte) (s : State) (h : s.sin.ports[p].state = .hunt) :
    portMeasure l (feedHuntBroken p s).sin.ports[p] = 2 * l.length := by
  unfold feedHuntBroken
  rw [modifyPort_port]
  unfold portMeasure
  rw [h]
  rfl

theorem feedFailure_measure (p : PortId) (l : List Byte) (s : State) (h : s.sin.ports[p].state = .locked) :
    portMeasure l (feedFailure p s).sin.ports[p] = 2 * l.length := by
  unfold feedFailure
  dsimp only
  split
  · simp only [modifyPort_modifyPort, modifyPort_port]
    unfold portMeasure
    rw [h]
    rfl
  · simp only [unlockSeen_ports, modifyPort_modifyPort, modifyPort_port]
    unfold portMeasure
    rfl

/-- A hunting port at a sync pair goes on with fewer turns to take than the bytes from the pair on had. -/
theorem feedHuntAt_measure (p : PortId) (v l : List Byte) (s : State) (h : s.sin.ports[p].state = .hunt)
    (hl : (feedHuntAt p (0xB7 :: 0x4E :: v) s).rest = some l) :
    portMeasure l (feedHuntAt p (0xB7 :: 0x4E :: v) s).state.sin.ports[p] < 2 * (v.length + 2) := by
  generalize hf : ((0xB7 : Byte) :: 0x4E :: v) = f at hl ⊢
  have hn : f.length = v.length + 2 := by rw [← hf]; rfl
  unfold feedHuntAt at hl ⊢
  rw [if_neg (by rintro rfl; simp at hn)] at hl ⊢
  split at hl
  · rename_i hg
    rw [if_pos hg]
    have hg' : 7 + feedLength f ≤ f.length := by
      unfold feedGood at hg
      simp only [Bool.and_eq_true, decide_eq_true_eq] at hg
      exact hg.1.2
    cases hl
    refine Nat.lt_of_le_of_lt (feedHuntGood_measure p _ _ s h) ?_
    simp only [slice, List.length_take, List.length_drop]
    omega
  · rename_i hg
    rw [if_neg hg]
    cases hl
    rw [feedHuntBroken_measure p _ s h]
    simp only [List.length_drop]
    omega

theorem feedLockedAt_measure (p : PortId) (v l : List Byte) (s : State) (h : s.sin.ports[p].state = .locked)
    (hl : (feedLockedAt p (0xB7 :: 0x4E :: v) s).rest = some l) :
    portMeasure l (feedLockedAt p (0xB7 :: 0x4E :: v) s).state.sin.ports[p] < 2 * (v.length + 2) := by
  generalize hf : ((0xB7 : Byte) :: 0x4E :: v) = f at hl ⊢
  have hn : f.length = v.length + 2 := by rw [← hf]; rfl
  unfold feedLockedAt at hl ⊢
  rw [if_neg (by rintro rfl; simp at hn)] at hl ⊢
  split at hl
  · rename_i hg
    rw [if_pos hg]
    have hg' : 7 + feedLength f ≤ f.length := by
      unfold feedGood at hg
      simp only [Bool.and_eq_true, decide_eq_true_eq] at hg
      exact hg.1.2
    cases hl
    have hs := ((goodFeed_quiet (r := true) p (byteAt f 2) (slice f 5 (feedLength f)) s).still rfl).ports p
    refine Nat.lt_of_le_of_lt (portMeasure_locked (hs.trans h) _) ?_
    simp only [List.length_drop]
    omega
  · rename_i hg
    rw [if_neg hg]
    cases hl
    rw [feedFailure_measure p _ s h]
    simp only [List.length_drop]
    omega

theorem feedTurn_hunt {p : PortId} {s : State} (h : s.sin.ports[p].state = .hunt) (bs : List Byte) :
    feedTurn p bs s = feedHuntTurn p bs s := by
  unfold feedTurn
  rw [h]

theorem feedTurn_lost {p : PortId} {s : State} (h : s.sin.ports[p].state = .lost) (bs : List Byte) :
    feedTurn p bs s = feedLostTurn p bs s := by
  unfold feedTurn
  rw [h]

theorem feedTurn_locked {p : PortId} {s : State} (h : s.sin.ports[p].state = .locked) (bs : List Byte) :
    feedTurn p bs s = feedLockedTurn p bs s := by
  unfold feedTurn
  rw [h]

theorem hasFeedSync_pair (v : List Byte) : hasFeedSync (0xB7 :: 0x4E :: v) = true := by simp [hasFeedSync]

theorem hasFeedSync_cases {f : List Byte} (h : hasFeedSync f = true) : ∃ v, f = 0xB7 :: 0x4E :: v := by
  unfold hasFeedSync at h
  rcases f with _ | ⟨x, _ | ⟨y, v⟩⟩ <;> simp at h
  exact ⟨v, by rw [h.1, h.2]; rfl⟩

/-- Every turn that goes on brings the measure down. -/
theorem feedTurn_measure (p : PortId) (bs l : List Byte) (s : State) (hl : (feedTurn p bs s).rest = some l) :
    portMeasure l (feedTurn p bs s).state.sin.ports[p] < portMeasure bs s.sin.ports[p] := by
  have hsk := skipIdle_length 0xFF bs
  generalize hw : skipIdle 0xFF bs = w at hsk
  cases h : s.sin.ports[p].state
  · unfold feedTurn at hl
    rw [h] at hl
    cases hl
  · rw [feedTurn_hunt h] at hl ⊢
    unfold feedHuntTurn at hl ⊢
    dsimp only at hl ⊢
    rw [hw] at hl ⊢
    conv_rhs => unfold portMeasure
    rw [h]
    dsimp only
    split_ifs at hl ⊢ with h1 h2 h3
    · rcases seekPair_cases 0xB7 0x4E bs with hp | ⟨v, hp, hv⟩
      · rw [hp] at hl
        cases hl
      · rw [hp] at hl ⊢
        exact Nat.lt_of_lt_of_le (feedHuntAt_measure p v l s h hl) (by omega)
    · obtain ⟨v, rfl⟩ := hasFeedSync_cases h3
      have := feedHuntAt_measure p v l s h hl
      simp only [List.length_cons] at hsk
      omega
    · cases hl
      rw [feedHuntBroken_measure p _ s h]
      simp only [List.length_append]
      omega
  · rw [feedTurn_locked h] at hl ⊢
    unfold feedLockedTurn at hl ⊢
    dsimp only at hl ⊢
    rw [hw] at hl ⊢
    conv_rhs => unfold portMeasure
    rw [h]
    dsimp only
    split_ifs at hl with h1 h2 h3
    · rw [if_pos h1, if_neg (by simpa using h1)]
      rcases seekPair_cases 0xB7 0x4E bs with hp | ⟨v, hp, hv⟩
      · rw [hp] at hl
        cases hl
      · rw [hp] at hl ⊢
        exact Nat.lt_of_lt_of_le (feedLockedAt_measure p v l s h hl) (by omega)
    · rw [if_neg h1, if_neg h2, if_pos h3, if_pos (by simpa using h1)]
      obtain ⟨v, rfl⟩ := hasFeedSync_cases h3
      have := feedLockedAt_measure p v l s h hl
      simp only [List.length_cons] at hsk
      omega
    · rw [if_neg h1, if_neg h2, if_neg h3, if_pos (by simpa using h1)]
      cases hl
      rw [feedFailure_measure p _ s h]
      omega
  · rw [feedTurn_lost h] at hl ⊢
    unfold feedLostTurn at hl ⊢
    conv_rhs => unfold portMeasure
    rw [h]
    dsimp only
    rcases seekPair_cases 0xB7 0x4E bs with hp | ⟨v, hp, hv⟩
    · rw [hp] at hl
      cases hl
    · rw [hp] at hl ⊢
      rw [if_neg (by simp)] at hl ⊢
      exact Nat.lt_of_lt_of_le (feedHuntAt_measure p v l _ (congrArg Port.state (modifyPort_port p _ s)) hl) (by omega)

/-- A port reads by turns: it takes one, and reads on in the bytes that are left. -/
theorem readPort_turn (p : PortId) (bs : List Byte) (s : State) :
    readPort p bs s = match (feedTurn p bs s).rest with
      | none => (feedTurn p bs s).state
      | some l => readPort p l (feedTurn p bs s).state := by
  unfold readPort
  conv_lhs => rw [show turnsFor s.sin.ports[p].held bs = turnsFor s.sin.ports[p].held bs - 1 + 1 from rfl]
  rw [runTurns]
  cases hl : (feedTurn p bs s).rest with
  | none => rfl
  | some l =>
    have h1 := feedTurn_measure p bs l s hl
    have h2 := portMeasure_turns bs s.sin.ports[p]
    exact runTurns_bound (μ := fun bs s => portMeasure bs s.sin.ports[p]) (fun bs s l => feedTurn_measure p bs l s)
      _ _ _ _ (by show portMeasure _ _ < _; omega) (portMeasure_turns l _)

/-! ### A whole feed packet -/

theorem beNat_be16 (v : BitVec 16) : beNat (be16 v) = v.toNat := by
  have := v.isLt
  simp only [be16, beNat, List.foldl_cons, List.foldl_nil, BitVec.extractLsb'_toNat,
    Nat.shiftRight_eq_div_pow]
  omega

/-- A whole packet of at most 1,920 bytes, whatever follows it: its check is good, and its fields read back. -/
theorem feedPacketAt (code : Byte) {body : List Byte} (v : List Byte) (hn : body.length ≤ 1920) :
    let f := (0xB7 : Byte) :: 0x4E :: (feedInner code body ++ v)
    feedGood f = true ∧ feedLength f = body.length ∧ byteAt f 2 = code ∧ slice f 5 body.length = body ∧
      slice f 2 (5 + body.length) = feedInner code body ∧ f.drop (7 + body.length) = v := by
  have hl : feedLength ((0xB7 : Byte) :: 0x4E :: (feedInner code body ++ v)) = body.length := by
    show beNat (be16 (BitVec.ofNat 16 body.length)) = _
    rw [beNat_be16, BitVec.toNat_ofNat]
    omega
  have hlen : (feedInner code body).length = 5 + body.length := by
    simp [feedInner, feedCore, be16]
    omega
  have hcore : (feedCore code body).length = 3 + body.length := by
    simp [feedCore, be16]
    omega
  refine ⟨?_, hl, rfl, ?_, ?_, ?_⟩
  · unfold feedGood
    rw [hl]
    simp only [Bool.and_eq_true, decide_eq_true_eq]
    refine ⟨⟨hn, by simp [hlen]; omega⟩, ?_⟩
    have h1 : slice ((0xB7 : Byte) :: 0x4E :: (feedInner code body ++ v)) (5 + body.length) 2 =
        be16 (crc16 (feedCore code body)) := by
      show (((0xB7 : Byte) :: 0x4E :: (feedInner code body ++ v)).drop (5 + body.length)).take 2 = _
      rw [show 5 + body.length = (feedCore code body).length + 2 by omega]
      simp [feedInner, be16]
    have h2 : slice ((0xB7 : Byte) :: 0x4E :: (feedInner code body ++ v)) 2 (3 + body.length) = feedCore code body := by
      show (feedInner code body ++ v).take _ = _
      rw [← hcore]
      simp [feedInner]
    unfold half
    rw [h1, h2, beNat_be16, BitVec.ofNat_toNat, BitVec.setWidth_eq]
  · show ((body ++ be16 (crc16 (feedCore code body))) ++ v).take body.length = body
    simp
  · show (feedInner code body ++ v).take _ = _
    rw [← hlen]
    simp
  · rw [show 7 + body.length = (feedInner code body).length + 2 by omega]
    simp

/-! ### The receiver's turns -/

/-- The most turns the receiver can still take over bytes. -/
def lineMeasure (bs : List Byte) (l : Lkp) : Nat :=
  match l.receiver with
  | .hunt => if l.huntCount = 0 then 2 * bs.length else 2 * (l.held.length + bs.length) + 1
  | .locked => if l.nextKnown then 2 * bs.length + 1 else 2 * bs.length

theorem lineMeasure_locked {x : Lkp} (h : x.receiver = .locked) (bs : List Byte) :
    lineMeasure bs x ≤ 2 * bs.length + 1 := by
  unfold lineMeasure
  rw [h]
  dsimp only
  split <;> omega

theorem lineMeasure_turns (bs : List Byte) (x : Lkp) : lineMeasure bs x < turnsFor x.held bs := by
  unfold lineMeasure turnsFor
  split
  · split <;> omega
  · split <;> omega

theorem huntPacket_measure (inner l : List Byte) (s : State) (h : s.lkp.receiver = .hunt) :
    lineMeasure l (huntPacket inner s).lkp ≤ 2 * (inner.length + l.length) + 1 := by
  unfold huntPacket
  dsimp only
  split
  · unfold lineMeasure
    simp [h]
  · unfold lineMeasure
    simp

theorem huntBroken_measure (l : List Byte) (s : State) (h : s.lkp.receiver = .hunt) :
    lineMeasure l (huntBroken s).lkp = 2 * l.length := by
  unfold huntBroken lineMeasure
  simp [h]

@[simp] theorem breakListen_lkp (s : State) : (breakListen s).lkp = s.lkp := by
  unfold breakListen
  split <;> rfl

theorem loseSync_measure (l : List Byte) (s : State) : lineMeasure l (loseSync s).lkp = 2 * l.length := by
  unfold loseSync
  rw [raiseFlag_lkp, breakListen_lkp]
  rfl

theorem headerFailure_measure (l : List Byte) (s : State) (h : s.lkp.receiver = .locked) :
    lineMeasure l (headerFailure s).lkp = 2 * l.length := by
  unfold headerFailure
  dsimp only
  split
  · exact loseSync_measure l _
  · unfold lineMeasure
    simp [h]

@[simp] theorem malformedFrom_receiver (x : Byte) (s : State) :
    (malformedFrom x s).lkp.receiver = s.lkp.receiver := by
  unfold malformedFrom
  split <;> rfl

theorem hasLinkSync_pair (v : List Byte) : hasLinkSync (0x6E :: 0x93 :: v) = true := by simp [hasLinkSync]

theorem hasLinkSync_cases {f : List Byte} (h : hasLinkSync f = true) : ∃ v, f = 0x6E :: 0x93 :: v := by
  unfold hasLinkSync at h
  rcases f with _ | ⟨x, _ | ⟨y, v⟩⟩ <;> simp at h
  exact ⟨v, by rw [h.1, h.2]; rfl⟩

theorem linkHuntAt_measure (v l : List Byte) (s : State) (h : s.lkp.receiver = .hunt)
    (hl : (linkHuntAt (0x6E :: 0x93 :: v) s).rest = some l) :
    lineMeasure l (linkHuntAt (0x6E :: 0x93 :: v) s).state.lkp < 2 * (v.length + 2) := by
  generalize hf : ((0x6E : Byte) :: 0x93 :: v) = f at hl ⊢
  have hn : f.length = v.length + 2 := by rw [← hf]; rfl
  unfold linkHuntAt at hl ⊢
  rw [if_neg (by rintro rfl; simp at hn)] at hl ⊢
  split at hl
  · rename_i hg
    rw [if_pos hg]
    cases hl
    refine Nat.lt_of_le_of_lt (huntPacket_measure _ _ s h) ?_
    simp only [slice, List.length_take, List.length_drop]
    omega
  · rename_i hg
    rw [if_neg hg]
    cases hl
    rw [huntBroken_measure _ s h]
    simp only [List.length_drop]
    omega

theorem linkLockedAt_measure (v l : List Byte) (s : State) (h : s.lkp.receiver = .locked)
    (hl : (linkLockedAt (0x6E :: 0x93 :: v) s).rest = some l) :
    lineMeasure l (linkLockedAt (0x6E :: 0x93 :: v) s).state.lkp < 2 * (v.length + 2) := by
  generalize hf : ((0x6E : Byte) :: 0x93 :: v) = f at hl ⊢
  have hn : f.length = v.length + 2 := by rw [← hf]; rfl
  unfold linkLockedAt at hl ⊢
  rw [if_neg (by rintro rfl; simp at hn)] at hl ⊢
  split_ifs at hl ⊢ with h1 h2
  · cases hl
    rw [headerFailure_measure _ s h]
    simp only [List.length_drop]
    omega
  · cases hl
    rw [headerFailure_measure _ _ (by rw [malformedFrom_receiver, h])]
    simp only [List.length_drop]
    omega
  · cases hl
    have hs := ((sortAt_quiet (r := true) f s).still rfl).receiver
    refine Nat.lt_of_le_of_lt (lineMeasure_locked (hs.trans h) _) ?_
    simp only [List.length_drop]
    omega

theorem linkTurn_hunt {s : State} (h : s.lkp.receiver = .hunt) (bs : List Byte) :
    linkTurn bs s = linkHuntTurn bs s := by
  unfold linkTurn
  rw [h]

theorem linkTurn_locked {s : State} (h : s.lkp.receiver = .locked) (bs : List Byte) :
    linkTurn bs s = linkLockedTurn bs s := by
  unfold linkTurn
  rw [h]

/-- Every turn that goes on brings the measure down. -/
theorem linkTurn_measure (bs l : List Byte) (s : State) (hl : (linkTurn bs s).rest = some l) :
    lineMeasure l (linkTurn bs s).state.lkp < lineMeasure bs s.lkp := by
  have hsk := skipIdle_length 0x00 bs
  generalize hw : skipIdle 0x00 bs = w at hsk
  cases h : s.lkp.receiver
  · rw [linkTurn_hunt h] at hl ⊢
    unfold linkHuntTurn at hl ⊢
    dsimp only at hl ⊢
    rw [hw] at hl ⊢
    conv_rhs => unfold lineMeasure
    rw [h]
    dsimp only
    split_ifs at hl ⊢ with h1 h2 h3
    · rcases seekPair_cases 0x6E 0x93 bs with hp | ⟨v, hp, hv⟩
      · rw [hp] at hl
        cases hl
      · rw [hp] at hl ⊢
        exact Nat.lt_of_lt_of_le (linkHuntAt_measure v l s h hl) (by omega)
    · obtain ⟨v, rfl⟩ := hasLinkSync_cases h3
      have := linkHuntAt_measure v l s h hl
      simp only [List.length_cons] at hsk
      omega
    · cases hl
      rw [huntBroken_measure _ s h]
      simp only [List.length_append]
      omega
  · rw [linkTurn_locked h] at hl ⊢
    unfold linkLockedTurn at hl ⊢
    dsimp only at hl ⊢
    rw [hw] at hl ⊢
    conv_rhs => unfold lineMeasure
    rw [h]
    dsimp only
    split_ifs at hl with h1 h2 h3
    · rw [if_pos h1, if_neg (by simpa using h1)]
      rcases seekPair_cases 0x6E 0x93 bs with hp | ⟨v, hp, hv⟩
      · rw [hp] at hl
        cases hl
      · rw [hp] at hl ⊢
        exact Nat.lt_of_lt_of_le (linkLockedAt_measure v l s h hl) (by omega)
    · rw [if_neg h1, if_neg h2, if_pos h3, if_pos (by simpa using h1)]
      obtain ⟨v, rfl⟩ := hasLinkSync_cases h3
      have := linkLockedAt_measure v l s h hl
      simp only [List.length_cons] at hsk
      omega
    · rw [if_neg h1, if_neg h2, if_neg h3, if_pos (by simpa using h1)]
      cases hl
      rw [loseSync_measure]
      omega

/-- The receiver reads by turns: it takes one, and reads on in the bytes that are left. -/
theorem readLine_turn (bs : List Byte) (s : State) :
    readLine bs s = match (linkTurn bs s).rest with
      | none => (linkTurn bs s).state
      | some l => readLine l (linkTurn bs s).state := by
  unfold readLine
  conv_lhs => rw [show turnsFor s.lkp.held bs = turnsFor s.lkp.held bs - 1 + 1 from rfl]
  rw [runTurns]
  cases hl : (linkTurn bs s).rest with
  | none => rfl
  | some l =>
    have h1 := linkTurn_measure bs l s hl
    have h2 := lineMeasure_turns bs s.lkp
    exact runTurns_bound (μ := fun bs s => lineMeasure bs s.lkp) (fun bs s l => linkTurn_measure bs l s)
      _ _ _ _ (by show lineMeasure _ _ < _; omega) (lineMeasure_turns l _)

/-! ### A whole link packet -/

theorem beNat_be24 (v : BitVec 24) : beNat (be24 v) = v.toNat := by
  have := v.isLt
  simp only [be24, beNat, List.foldl_cons, List.foldl_nil, BitVec.extractLsb'_toNat,
    Nat.shiftRight_eq_div_pow]
  omega

theorem beNat_be32 (v : BitVec 32) : beNat (be32 v) = v.toNat := by
  have := v.isLt
  simp only [be32, beNat, List.foldl_cons, List.foldl_nil, BitVec.extractLsb'_toNat,
    Nat.shiftRight_eq_div_pow]
  omega

@[simp] theorem kindOfCode_code (k : Kind) : kindOfCode k.code = some k := by cases k <;> rfl

theorem Kind.lengthOk_bound {k : Kind} {n : Nat} (h : k.lengthOk n = true) : n < 65536 := by
  cases k <;> simp [Kind.lengthOk] at h <;> omega

/-- The 17 bytes of a header with 13 bytes under a good check, whatever follows them. -/
theorem linkHeaderAt {core : List Byte} (v : List Byte) (hc : core.length = 13) :
    let f := (0x6E : Byte) :: 0x93 :: (core ++ be16 (crc16 core) ++ v)
    linkHeaderGood f = true ∧ linkLength f = beNat (slice core 6 2) := by
  refine ⟨?_, ?_⟩
  · unfold linkHeaderGood half slice
    simp only [Bool.and_eq_true, decide_eq_true_eq]
    refine ⟨by simp [hc, be16]; omega, ?_⟩
    have h1 : (((0x6E : Byte) :: 0x93 :: (core ++ be16 (crc16 core) ++ v)).drop 15).take 2 = be16 (crc16 core) := by
      rw [show 15 = core.length + 2 by omega]
      simp [be16]
    have h2 : (((0x6E : Byte) :: 0x93 :: (core ++ be16 (crc16 core) ++ v)).drop 2).take 13 = core := by
      rw [← hc]
      simp
    rw [h1, h2, beNat_be16, BitVec.ofNat_toNat, BitVec.setWidth_eq]
  · unfold linkLength slice
    congr 1
    show ((core ++ be16 (crc16 core) ++ v).drop 6).take 2 = _
    rw [List.append_assoc, List.drop_append_of_le_length (by omega),
      List.take_append_of_le_length (by simp; omega)]

/-- A whole packet, whatever follows it: its header check is good, and its fields read back. -/
theorem linkPacketAt_inner (k : Kind) {p : LinkPacket} (v : List Byte) (hn : p.body.length < 65536) :
    let f := (0x6E : Byte) :: 0x93 :: (linkInner k p ++ v)
    linkHeaderGood f = true ∧ linkLength f = p.body.length ∧ linkHeaderForm f = headerWellFormed k p ∧
      byteAt f 5 = k.code ∧ byteAt f 6 = p.sender ∧ half f 15 = headerCheck k p ∧ linkPacketAt f = p ∧
      slice f 2 (19 + p.body.length) = linkInner k p ∧ f.drop (21 + p.body.length) = v := by
  have hg := linkHeaderAt (core := headerCore p.ensemble p.lead k.code p.sender p.seq p.body.length p.frameTag
    p.serviceTag) (p.body ++ be32 p.bodyCheck ++ v) rfl
  have hl : linkLength ((0x6E : Byte) :: 0x93 :: (linkInner k p ++ v)) = p.body.length := by
    show beNat (be16 (BitVec.ofNat 16 p.body.length)) = _
    rw [beNat_be16, BitVec.toNat_ofNat]
    omega
  have hlen : (linkInner k p).length = 19 + p.body.length := by
    simp [linkInner, headerCore, be16, be24, be32]
    omega
  have hgood : linkHeaderGood ((0x6E : Byte) :: 0x93 :: (linkInner k p ++ v)) = true := by
    simpa only [linkInner, headerCheck, List.append_assoc] using hg.1
  have hcheck : half ((0x6E : Byte) :: 0x93 :: (linkInner k p ++ v)) 15 = headerCheck k p := by
    unfold linkHeaderGood at hgood
    exact of_decide_eq_true (Bool.and_eq_true_iff.mp hgood).2
  refine ⟨hgood, hl, ?_, rfl, rfl, hcheck, ?_, ?_, ?_⟩
  · unfold linkHeaderForm
    rw [hl]
    show (_ && _ && _ && (kindOfCode k.code).any _) = _
    rw [kindOfCode_code]
    rfl
  · unfold linkPacketAt
    rw [hl]
    have h1 : half ((0x6E : Byte) :: 0x93 :: (linkInner k p ++ v)) 2 = p.ensemble := by
      show BitVec.ofNat 16 (beNat (be16 p.ensemble)) = _
      rw [beNat_be16, BitVec.ofNat_toNat, BitVec.setWidth_eq]
    have h2 : frameAt ((0x6E : Byte) :: 0x93 :: (linkInner k p ++ v)) 10 = p.frameTag := by
      show BitVec.ofNat 24 (beNat (be24 p.frameTag)) = _
      rw [beNat_be24, BitVec.ofNat_toNat, BitVec.setWidth_eq]
    have h3 : half ((0x6E : Byte) :: 0x93 :: (linkInner k p ++ v)) 13 = p.serviceTag := by
      show BitVec.ofNat 16 (beNat (be16 p.serviceTag)) = _
      rw [beNat_be16, BitVec.ofNat_toNat, BitVec.setWidth_eq]
    have h4 : slice ((0x6E : Byte) :: 0x93 :: (linkInner k p ++ v)) 17 p.body.length = p.body := by
      show (p.body ++ be32 p.bodyCheck ++ v).take _ = _
      simp
    have h5 : slice ((0x6E : Byte) :: 0x93 :: (linkInner k p ++ v)) (17 + p.body.length) 4 = be32 p.bodyCheck := by
      rw [Nat.add_comm]
      show ((p.body ++ be32 p.bodyCheck ++ v).drop _).take 4 = _
      simp [be32]
    rw [h1, h2, h3, h4, h5, beNat_be32, BitVec.ofNat_toNat, BitVec.setWidth_eq]
    rfl
  · show (linkInner k p ++ v).take _ = _
    rw [← hlen]
    simp
  · rw [show 21 + p.body.length = (linkInner k p).length + 2 by omega]
    simp

/-! ### Bytes on a line, and bytes behind them -/

theorem skipIdle_lead {x y z : Byte} {u : List Byte} (hu : ∀ e ∈ u, e = x) (hy : y ≠ x) (v : List Byte) :
    skipIdle x (u ++ y :: z :: v) = y :: z :: v := by
  rw [skipIdle_fill hu, skipIdle_start hy]

/-- A turn at a sync pair: the receiver reads the packet there. -/
theorem linkTurn_found {s : State} {u : List Byte} (h : linkLead s.lkp u) (v : List Byte) :
    linkTurn (u ++ 0x6E :: 0x93 :: v) s = match s.lkp.receiver with
      | .hunt => linkHuntAt (0x6E :: 0x93 :: v) s
      | .locked => linkLockedAt (0x6E :: 0x93 :: v) s := by
  unfold linkLead at h
  cases hr : s.lkp.receiver
  · rw [linkTurn_hunt hr]
    rw [hr] at h
    unfold linkHuntTurn
    dsimp only at h ⊢
    split_ifs at h with hc
    · rw [if_pos hc, seekPair_noise (by decide) v h]
    · rw [if_neg hc, skipIdle_lead h (by decide), if_neg (by simp), if_pos (hasLinkSync_pair v)]
  · rw [linkTurn_locked hr]
    rw [hr] at h
    unfold linkLockedTurn
    dsimp only at h ⊢
    split_ifs at h with hc
    · rw [if_neg (by simpa using hc), skipIdle_lead h (by decide), if_neg (by simp), if_pos (hasLinkSync_pair v)]
    · rw [if_pos (by simpa using hc), seekPair_noise (by decide) v h]

/-- A turn that finds no sync pair, and nothing where a packet must start. -/
theorem linkTurn_idle {s : State} {bs : List Byte} (h : linkLead s.lkp bs) :
    linkTurn bs s = ⟨if s.lkp.receiver = .hunt ∧ s.lkp.huntCount ≠ 0
      then { s with lkp.held := s.lkp.held ++ bs } else s, none⟩ := by
  unfold linkLead at h
  cases hr : s.lkp.receiver
  · rw [linkTurn_hunt hr]
    rw [hr] at h
    unfold linkHuntTurn
    dsimp only at h ⊢
    split_ifs at h with hc
    · rw [if_pos hc, seekPair_none h, if_neg (fun g => g.2 hc)]
      rfl
    · rw [if_neg hc, skipIdle_idle h, if_pos rfl, if_pos ⟨rfl, hc⟩]
  · rw [linkTurn_locked hr]
    rw [hr] at h
    unfold linkLockedTurn
    dsimp only at h ⊢
    rw [if_neg (c := ReceiverState.locked = .hunt ∧ _) (fun g => nomatch g.1)]
    split_ifs at h with hc
    · rw [if_neg (by simpa using hc), skipIdle_idle h, if_pos rfl]
    · rw [if_pos (by simpa using hc), seekPair_none h]
      rfl

/-- A turn that finds no packet where one must start. -/
theorem linkTurn_missing {s : State} {u v : List Byte} {y : Byte} (hu : ∀ e ∈ u, e = 0x00) (hy : y ≠ 0x00)
    (hf : hasLinkSync (y :: v) = false) :
    (s.lkp.receiver = .hunt → s.lkp.huntCount ≠ 0 →
      linkTurn (u ++ y :: v) s = ⟨huntBroken s, some (s.lkp.held ++ (u ++ y :: v))⟩) ∧
    (s.lkp.receiver = .locked → s.lkp.nextKnown = true →
      linkTurn (u ++ y :: v) s = ⟨loseSync s, some (y :: v)⟩) := by
  have hs : skipIdle 0x00 (u ++ y :: v) = y :: v := by rw [skipIdle_fill hu, skipIdle_start hy]
  refine ⟨fun hr hc => ?_, fun hr hc => ?_⟩
  · rw [linkTurn_hunt hr]
    unfold linkHuntTurn
    dsimp only
    rw [if_neg hc, hs, if_neg (by simp), if_neg (by simp [hf])]
  · rw [linkTurn_locked hr]
    unfold linkLockedTurn
    dsimp only
    rw [if_neg (by simpa using hc), hs, if_neg (by simp), if_neg (by simp [hf])]

/-- A turn of a port at a sync pair: the port reads the packet there. -/
theorem feedTurn_found {p : PortId} {s : State} {u : List Byte} (h : feedLead s.sin.ports[p] u) (v : List Byte) :
    feedTurn p (u ++ 0xB7 :: 0x4E :: v) s = match s.sin.ports[p].state with
      | .disabled => ⟨s, none⟩
      | .hunt => feedHuntAt p (0xB7 :: 0x4E :: v) s
      | .lost => feedHuntAt p (0xB7 :: 0x4E :: v) (feedFound p s)
      | .locked => feedLockedAt p (0xB7 :: 0x4E :: v) s := by
  unfold feedLead at h
  cases hr : s.sin.ports[p].state
  · unfold feedTurn
    rw [hr]
  · rw [feedTurn_hunt hr]
    rw [hr] at h
    unfold feedHuntTurn
    dsimp only at h ⊢
    split_ifs at h with hc
    · rw [if_pos hc, seekPair_noise (by decide) v h]
    · rw [if_neg hc, skipIdle_lead h (by decide), if_neg (by simp), if_pos (hasFeedSync_pair v)]
  · rw [feedTurn_locked hr]
    rw [hr] at h
    unfold feedLockedTurn
    dsimp only at h ⊢
    split_ifs at h with hc
    · rw [if_neg (by simpa using hc), skipIdle_lead h (by decide), if_neg (by simp), if_pos (hasFeedSync_pair v)]
    · rw [if_pos (by simpa using hc), seekPair_noise (by decide) v h]
  · rw [feedTurn_lost hr]
    rw [hr] at h
    unfold feedLostTurn
    dsimp only at h ⊢
    rw [seekPair_noise (by decide) v h, if_neg (by simp)]

/-- A turn of a port that finds no sync pair, and nothing where a packet must start. -/
theorem feedTurn_idle {p : PortId} {s : State} {bs : List Byte} (h : feedLead s.sin.ports[p] bs) :
    feedTurn p bs s = ⟨if s.sin.ports[p].state = .hunt ∧ s.sin.ports[p].huntCount ≠ 0
      then modifyPort p (fun x => { x with held := x.held ++ bs }) s else s, none⟩ := by
  unfold feedLead at h
  cases hr : s.sin.ports[p].state
  · unfold feedTurn
    rw [hr, if_neg (c := PortState.disabled = .hunt ∧ _) (fun g => nomatch g.1)]
  · rw [feedTurn_hunt hr]
    rw [hr] at h
    unfold feedHuntTurn
    dsimp only at h ⊢
    split_ifs at h with hc
    · rw [if_pos hc, seekPair_none h, if_neg (fun g => g.2 hc)]
      rfl
    · rw [if_neg hc, skipIdle_idle h, if_pos rfl, if_pos ⟨rfl, hc⟩]
  · rw [feedTurn_locked hr]
    rw [hr] at h
    unfold feedLockedTurn
    dsimp only at h ⊢
    rw [if_neg (c := PortState.locked = .hunt ∧ _) (fun g => nomatch g.1)]
    split_ifs at h with hc
    · rw [if_neg (by simpa using hc), skipIdle_idle h, if_pos rfl]
    · rw [if_pos (by simpa using hc), seekPair_none h]
      rfl
  · rw [feedTurn_lost hr]
    rw [hr] at h
    unfold feedLostTurn
    dsimp only at h ⊢
    rw [seekPair_none h, if_pos rfl, if_neg (c := PortState.lost = .hunt ∧ _) (fun g => nomatch g.1)]

/-- A turn of a port that finds no packet where one must start. -/
theorem feedTurn_missing {p : PortId} {s : State} {u v : List Byte} {y : Byte} (hu : ∀ e ∈ u, e = 0xFF) (hy : y ≠ 0xFF)
    (hf : hasFeedSync (y :: v) = false) :
    (s.sin.ports[p].state = .hunt → s.sin.ports[p].huntCount ≠ 0 →
      feedTurn p (u ++ y :: v) s = ⟨feedHuntBroken p s, some (s.sin.ports[p].held ++ (u ++ y :: v))⟩) ∧
    (s.sin.ports[p].state = .locked → s.sin.ports[p].nextKnown = true →
      feedTurn p (u ++ y :: v) s = ⟨feedFailure p s, some (y :: v)⟩) := by
  have hs : skipIdle 0xFF (u ++ y :: v) = y :: v := by rw [skipIdle_fill hu, skipIdle_start hy]
  refine ⟨fun hr hc => ?_, fun hr hc => ?_⟩
  · rw [feedTurn_hunt hr]
    unfold feedHuntTurn
    dsimp only
    rw [if_neg hc, hs, if_neg (by simp), if_neg (by simp [hf])]
  · rw [feedTurn_locked hr]
    unfold feedLockedTurn
    dsimp only
    rw [if_neg (by simpa using hc), hs, if_neg (by simp), if_neg (by simp [hf])]

/-- Bytes of which a turn leaves some: they are read as if they came next. -/
theorem receiveBytes_rest {bs l : List Byte} {s : State} (h : s.pvw.unit.running = true)
    (hl : (linkTurn bs s).rest = some l) : receiveBytes bs s = receiveBytes l (linkTurn bs s).state := by
  unfold receiveBytes
  rw [if_pos h, if_pos ((linkTurn_quiet bs s).running h), readLine_turn, hl]

theorem receiveBytes_end {bs : List Byte} {s : State} (h : s.pvw.unit.running = true)
    (hl : (linkTurn bs s).rest = none) : receiveBytes bs s = (linkTurn bs s).state := by
  unfold receiveBytes
  rw [if_pos h, readLine_turn, hl]

/-- An active port is not made more so. -/
theorem markActive_active {p : PortId} {s : State} (h : s.sin.ports[p].active = true) (bs : List Byte) :
    markActive p bs s = s := by
  unfold markActive
  split
  · unfold modifyPort
    have : modifyAt s.sin.ports p (fun x => { x with active := true }) = s.sin.ports := by
      unfold modifyAt
      rw [← h]
      exact Vector.set_getElem_self ..
    rw [this]
  · rfl

/-- The port takes bytes, and has had some other than idle fill. -/
structure Awake (p : PortId) (s : State) : Prop where
  active : s.sin.ports[p].active = true
  takes  : s.sin.ports[p].state ≠ .disabled

theorem Awake.modify {p : PortId} {s : State} (h : Awake p s) (f : Port → Port)
    (ha : ∀ x, (f x).active = x.active := by exact fun _ => rfl)
    (hs : ∀ x, x.state ≠ .disabled → (f x).state ≠ .disabled := by exact fun _ h => h) :
    Awake p (modifyPort p f s) := by
  refine ⟨?_, ?_⟩
  · rw [modifyPort_port, ha]
    exact h.active
  · rw [modifyPort_port]
    exact hs _ h.takes

theorem Awake.ports {p : PortId} {s t : State} (h : Awake p s) (e : t.sin.ports = s.sin.ports) : Awake p t :=
  ⟨by rw [e]; exact h.active, by rw [e]; exact h.takes⟩

theorem Awake.steady {p : PortId} {s t : State} (h : Awake p s) (g : Quiet true s t) : Awake p t :=
  ⟨((g.still rfl).active p).trans h.active, fun e => h.takes (((g.still rfl).ports p).symm.trans e)⟩

theorem feedHuntGood_awake {p : PortId} {s : State} (h : Awake p s) (l : List Byte) : Awake p (feedHuntGood p l s) := by
  unfold feedHuntGood
  dsimp only
  split
  · exact (h.modify _).modify _
  · exact Awake.ports ((h.modify _).modify _ (hs := fun _ _ => by simp)) (lockSeen_ports _ _)

theorem feedFailure_awake {p : PortId} {s : State} (h : Awake p s) : Awake p (feedFailure p s) := by
  unfold feedFailure
  dsimp only
  split
  · exact (h.modify _).modify _
  · exact Awake.ports ((h.modify _).modify _ (hs := fun _ _ => by simp)) (unlockSeen_ports _ _)

theorem feedHuntAt_awake {p : PortId} {s : State} (h : Awake p s) (f : List Byte) :
    Awake p (feedHuntAt p f s).state := by
  unfold feedHuntAt
  split_ifs
  · exact h
  · exact feedHuntGood_awake h _
  · exact h.modify _

theorem feedLockedAt_awake {p : PortId} {s : State} (h : Awake p s) (f : List Byte) :
    Awake p (feedLockedAt p f s).state := by
  unfold feedLockedAt
  split_ifs
  · exact h
  · exact h.steady (goodFeed_quiet _ _ _ _)
  · exact feedFailure_awake h

/-- A turn leaves an active port active, and taking bytes. -/
theorem feedTurn_awake {p : PortId} {s : State} (h : Awake p s) (bs : List Byte) : Awake p (feedTurn p bs s).state := by
  unfold feedTurn
  split
  · exact h
  · unfold feedHuntTurn
    dsimp only
    split_ifs
    · exact feedHuntAt_awake h _
    · exact h.modify _
    · exact feedHuntAt_awake h _
    · exact h.modify _
  · unfold feedLostTurn
    split_ifs
    · exact h
    · exact feedHuntAt_awake (h.modify _ (hs := fun _ _ => by simp)) _
  · unfold feedLockedTurn
    dsimp only
    split_ifs
    · exact feedLockedAt_awake h _
    · exact h
    · exact feedLockedAt_awake h _
    · exact feedFailure_awake h

theorem portTakes_iff {p : PortId} {s : State} :
    portTakes s p = true ↔ s.pvw.unit.running = true ∧ s.sin.ports[p].state ≠ .disabled := by
  simp [portTakes]

/-- Bytes of which a port's turn leaves some: they are read as if they came next. -/
theorem feedBytes_rest {p : PortId} {bs l : List Byte} {s : State} (h : portTakes s p = true)
    (hn : bs.any (· != 0xFF#8) = true) (hl : (feedTurn p bs (markActive p bs s)).rest = some l) :
    feedBytes p bs s = feedBytes p l (feedTurn p bs (markActive p bs s)).state := by
  have hr := portTakes_iff.mp h
  have hm : Awake p (markActive p bs s) := by
    unfold markActive
    rw [if_pos hn]
    exact ⟨congrArg Port.active (modifyPort_port p _ s),
      fun e => hr.2 ((congrArg Port.state (modifyPort_port p _ s)).symm.trans e)⟩
  have ha := feedTurn_awake hm bs
  have ht : portTakes (feedTurn p bs (markActive p bs s)).state p = true :=
    portTakes_iff.mpr ⟨(feedTurn_quiet p bs _).running ((markActive_quiet p bs s).running hr.1), ha.takes⟩
  unfold feedBytes
  rw [if_pos h, if_pos ht, markActive_active ha.active, readPort_turn, hl]

theorem feedBytes_end {p : PortId} {bs : List Byte} {s : State} (h : portTakes s p = true)
    (hl : (feedTurn p bs (markActive p bs s)).rest = none) :
    feedBytes p bs s = (feedTurn p bs (markActive p bs s)).state := by
  unfold feedBytes
  rw [if_pos h, readPort_turn, hl]

/-! ### No bytes, and whole packets -/

theorem noPair_nil (a b : Byte) : NoPair a b [] := fun u v e => by cases u <;> simp at e

theorem linkLead_nil (l : Lkp) : linkLead l [] := by
  unfold linkLead
  split <;> split <;> first | exact noPair_nil _ _ | simp

theorem feedLead_nil (x : Port) : feedLead x [] := by
  unfold feedLead
  split
  · split
    · exact noPair_nil _ _
    · simp
  · split
    · simp
    · exact noPair_nil _ _
  · exact noPair_nil _ _

theorem receiveBytes_nil (s : State) : receiveBytes [] s = s := by
  by_cases h : s.pvw.unit.running = true
  · have e := linkTurn_idle (linkLead_nil s.lkp)
    rw [receiveBytes_end h (by rw [e]), e]
    dsimp only
    rw [List.append_nil]
    exact ite_self _
  · exact if_neg h

theorem modifyPort_id (p : PortId) (f : Port → Port) (s : State) (h : f s.sin.ports[p] = s.sin.ports[p]) :
    modifyPort p f s = s := by
  unfold modifyPort
  have : modifyAt s.sin.ports p f = s.sin.ports := by
    unfold modifyAt
    rw [h]
    exact Vector.set_getElem_self ..
  rw [this]

theorem feedBytes_nil (p : PortId) (s : State) : feedBytes p [] s = s := by
  by_cases h : portTakes s p = true
  · have e := feedTurn_idle (feedLead_nil (markActive p [] s).sin.ports[p])
    rw [feedBytes_end h (by rw [e]), e]
    dsimp only
    rw [modifyPort_id (h := by rw [List.append_nil])]
    exact ite_self _
  · exact if_neg h

/-- A whole packet of the five kinds, read from its bytes, is the packet received. -/
theorem receiveBytes_packet {s : State} {u : List Byte} {k : Kind} {p : LinkPacket} (v : List Byte)
    (h : s.pvw.unit.running = true) (hu : linkLead s.lkp u) (hn : p.body.length < 65536)
    (hf : s.lkp.receiver = .locked → headerWellFormed k p = true) :
    receiveBytes (u ++ 0x6E :: 0x93 :: (linkInner k p ++ v)) s = receiveBytes v (receive k p s) := by
  obtain ⟨h1, h2, h3, h4, -, h5, h6, h7, h8⟩ := linkPacketAt_inner k v hn
  have e : linkTurn (u ++ 0x6E :: 0x93 :: (linkInner k p ++ v)) s = ⟨receive k p s, some v⟩ := by
    rw [linkTurn_found hu]
    unfold receive
    rw [if_neg (by simp [h])]
    cases hr : s.lkp.receiver
    · dsimp only
      unfold linkHuntAt
      rw [if_neg (by simp), if_pos h1, h2, h7, h8]
    · dsimp only
      unfold linkLockedAt
      rw [if_neg (by simp), if_neg (by rw [h1]; nofun), if_neg (by rw [h3, hf hr]; nofun), if_pos (hf hr), h2, h8]
      unfold sortAt
      rw [h4, kindOfCode_code, h5, h6]
  rw [receiveBytes_rest h (by rw [e]), e]

/-- A malformed packet: a LOCKED receiver reads on behind its sync pair, in the packet's own bytes and what follows. -/
theorem receiveBytes_malformed {s : State} {u : List Byte} {k : Kind} {p : LinkPacket} (v : List Byte)
    (h : s.pvw.unit.running = true) (hu : linkLead s.lkp u) (hn : p.body.length < 65536)
    (hr : s.lkp.receiver = .locked) (hf : headerWellFormed k p = false) :
    receiveBytes (u ++ 0x6E :: 0x93 :: (linkInner k p ++ v)) s =
      readLine (linkInner k p ++ v) (headerFailure (malformedFrom p.sender s)) := by
  obtain ⟨h1, -, h3, -, h5, -⟩ := linkPacketAt_inner k v hn
  have e : linkTurn (u ++ 0x6E :: 0x93 :: (linkInner k p ++ v)) s =
      ⟨headerFailure (malformedFrom p.sender s), some (linkInner k p ++ v)⟩ := by
    rw [linkTurn_found hu, hr]
    dsimp only
    unfold linkLockedAt
    rw [if_neg (by simp), if_neg (by rw [h1]; nofun), if_pos (by rw [h3, hf]; rfl), h5]
    rfl
  unfold receiveBytes
  rw [if_pos h, readLine_turn, e]

/-- The bytes of one packet of the five kinds are that packet, malformed or not. -/
theorem receiveBytes_one {s : State} {u : List Byte} {k : Kind} {p : LinkPacket} (h : s.pvw.unit.running = true)
    (hu : linkLead s.lkp u) (hn : p.body.length < 65536) :
    receiveBytes (u ++ 0x6E :: 0x93 :: linkInner k p) s = receive k p s := by
  rw [← List.append_nil (linkInner k p)]
  by_cases hf : s.lkp.receiver = .locked → headerWellFormed k p = true
  · rw [receiveBytes_packet [] h hu hn hf, receiveBytes_nil]
  · obtain ⟨hr, hm⟩ := Classical.not_imp.mp hf
    rw [Bool.not_eq_true] at hm
    rw [receiveBytes_malformed [] h hu hn hr hm, List.append_nil]
    unfold receive
    rw [if_neg (by simp [h]), hr]
    dsimp only
    rw [if_neg (by rw [hm]; nofun)]

/-- A whole feed packet, read from its bytes, is the packet received. -/
theorem feedBytes_packet {p : PortId} {s : State} {u : List Byte} {code : Byte} {body : List Byte} (v : List Byte)
    (h : portTakes s p = true) (hu : feedLead s.sin.ports[p] u) (hn : body.length ≤ 1920) :
    feedBytes p (u ++ 0xB7 :: 0x4E :: (feedInner code body ++ v)) s = feedBytes p v (feedPacket p code body s) := by
  obtain ⟨h1, h2, h3, h4, h5, h6⟩ := feedPacketAt code v hn
  have hm : markActive p (u ++ 0xB7 :: 0x4E :: (feedInner code body ++ v)) s =
      modifyPort p (fun x => { x with active := true }) s := if_pos (by simp)
  have e : feedTurn p (u ++ 0xB7 :: 0x4E :: (feedInner code body ++ v))
      (markActive p (u ++ 0xB7 :: 0x4E :: (feedInner code body ++ v)) s) = ⟨feedPacket p code body s, some v⟩ := by
    have hd := (portTakes_iff.mp h).2
    rw [hm, feedTurn_found (by rw [modifyPort_port]; exact hu)]
    unfold feedPacket
    rw [if_neg (by simp [h]), if_neg (by omega), modifyPort_port]
    dsimp only
    cases hr : s.sin.ports[p].state
    · exact absurd hr hd
    all_goals dsimp only
    · unfold feedHuntAt
      rw [if_neg (by simp), if_pos h1, h2, h5, h6]
    · unfold feedLockedAt
      rw [if_neg (by simp), if_pos h1, h2, h3, h4, h6]
    · unfold feedHuntAt
      rw [if_neg (by simp), if_pos h1, h2, h5, h6]
  rw [feedBytes_rest h (by simp) (by rw [e]), e]

end Sys2Proof.Machine
end

