-- ==== Sys2Proof/Tests/Slice0.lean ====
section
/-! SUPPORT. The tests. First what the well-formedness check refuses and what the spec's own worked values give; then,
for each statement of Certificates/Slice0 that has hypotheses, a state and operands that meet them together, clause by
clause. Expected values come from spec/, never from the model. -/

namespace Sys2Proof.Tests

open Sys2Proof Sys2Proof.Machine

/-! ### The well-formedness check -/

def order : BoundaryOrder := ⟨true, true, true⟩

/-- A flash read brings at least its length field (R196). -/
theorem test_wf_refuses_short_flash : wellFormed (.configReadComplete [0]) = false := by decide

/-- A time message has 7 bytes (R188). -/
theorem test_wf_refuses_time_length : wellFormed (.timeMessage [0xA1, 0, 0, 0, 0, 0]) = false := by decide

/-- A pulse 50 ms or more after the last boundary comes after the timer's boundary (R3). -/
theorem test_wf_refuses_late_pulse : wellFormed (.framePulse 50000 order) = false := by decide

theorem test_wf_accepts_pulse : wellFormed (.framePulse 49999 order) = true := by decide

/-- A command of the receive line or of a port brings at least one byte. -/
theorem test_wf_refuses_no_bytes : wellFormed (.linkHuntPacket []) = false ∧ wellFormed (.linkHeaderFailed []) = false ∧
    wellFormed (.feedHuntPacket 0 []) = false ∧ wellFormed (.feedPacketFailed 0 []) = false := by decide

/-- A body longer than a 2-byte length field can say is refused (R189, R193, R195). -/
theorem test_wf_refuses_long_body : wellFormed (.audio 0 (List.replicate 65536 0)) = false := by decide +kernel

/-! ### The spec's worked values -/

def ascii19 : List Byte := [0x31, 0x32, 0x33, 0x34, 0x35, 0x36, 0x37, 0x38, 0x39]

/-- The published check values of the two codes whose parameters R188 gives. -/
theorem test_check_values : crc16 ascii19 = 0x29B1#16 ∧ crc32 ascii19 = 0xFC891918#32 := by decide +kernel

/-- Chapter 1.1, the example: the labelled pulse of second count 1,000,000 is 8,222,784, that of 1,000,003 8,222,859. -/
theorem test_reference_frames : refFrame 1000000 = 8222784 ∧ refFrame 1000003 = 8222859 := by decide

/-- R20's table: the sums 8, 128 and 448 at each class, and the largest count. -/
theorem test_block_counts :
    [1, 2, 3, 4].map (blockCount 8 0) = [4, 3, 3, 2] ∧ [1, 2, 3, 4].map (blockCount 112 16) = [54, 43, 36, 31] ∧
    [1, 2, 3, 4].map (blockCount 384 64) = [187, 150, 125, 107] := by decide

/-- R72's own values: 390 becomes 384, 100 becomes 104, a side rate of 63 becomes 64, class 7 becomes 1. -/
theorem test_clamps : clampAudio 390 = 384 ∧ clampAudio 100 = 104 ∧ clampSide 63 = 64 ∧ clampClass 7 = 1 := by decide

/-- Chapter 11.5, the example: S6 LOWERED to class 2 in blocks 385 to 491 at audio rate 320; the repeat sets 0x12. -/
theorem test_directory_entry :
    let e : LayoutEntry := ⟨0, 6, [], 320, 16, 1, 1, 0, 2, 385, 107, .lowered, false, false⟩
    entryBytes e .clear = [0x00, 0x06, 0x01, 0x81, 0x6B, 0x40, 0x28, 0x02] ∧
    (entryBytes e .impaired).getLast? = some 0x12 := by decide

def textOf (weight : Nat) : TextSlot := { TextSlot.empty false with state := .active, text := [65], weight := weight }

/-- R124's own list: weights 2, 1 and 3 give 0, 1, 2, 0, 2, 2. -/
theorem test_cycle_list :
    (buildCycle { Carousel.reset .zero with
      slots := #v[textOf 2, textOf 1, textOf 3, .empty false, .empty false, .empty false, .empty false, .empty false] }).cycle
      = [0, 1, 2, 0, 2, 2] := by decide

/-- Chapter 5.5, the example: the third frame in a row without audio is muted, the hold count stays 2. -/
theorem test_third_substitution_mutes :
    let e : StoreEntry := ⟨0x0120, 3, 96, 8, .empty⟩
    let one := sealEntry [⟨0x0120, some (List.replicate 480 7), 1⟩] e
    let two := sealEntry [⟨0x0120, some (List.replicate 480 7), 2⟩] e
    one.flag = .impaired ∧ one.record.count = 2 ∧ one.audio = List.replicate 480 7 ∧
    two.flag = .muted ∧ two.record.count = 2 ∧ two.audio = List.replicate 480 0 ∧ two.side = List.replicate 40 0 := by
  decide +kernel

/-- R6: frame 0 is later than 16,777,215, and 8,388,608 away neither is later. -/
theorem test_frames_wrap : later 0 16777215 = true ∧ later 8388608 0 = false ∧ later 0 8388608 = false := by decide

/-! ### The states of the witnesses -/

/-- An alert line that is enabled and active high. -/
def lineIn (mode : LineMode) : LineSettings := ⟨true, mode, true, 2, 3, [70]⟩

/-- Unit 5 of ensemble 0x2A10, lead 4, one service of 128 and 16 kbit/s at port 0 (MAIN) and 1 (BACKUP), ALERT at 2. -/
def held : Image :=
  { unitId := 5, ensembleId := 0x2A10, lead := 4, services := [⟨0x0101, 0, 128, 16, 1, 2, [65], 1⟩],
    roles := #v[.main 0, .backup 0, .alert, .unused, .unused, .unused], keys := #v[5, 5, 0, 0, 0, 0],
    lines := #v[lineIn .edge, lineIn .level], feedAlert := true, alertAudioRate := 64, durationLimit := 1,
    attentionMask := 0x7FFFFF }

/-- The same unit ON_AIR at frame 1,000, in lock everywhere, with no boundary in progress. -/
def air : State :=
  { State.reset with
    ftu := { Ftu.reset with ref := .locked, now := some 1000, source := .pulse }
    lkp := { Lkp.reset with receiver := .locked, nextKnown := true }
    pvw := { Pvw.reset with unit := .onAir }
    sin := { Sin.reset with ports := Vector.replicate 6 { Port.reset with state := .locked, nextKnown := true } }
    cfl := { Cfl.reset with image := some held, reading := false } }

/-- The same unit in another unit state. -/
def inState (u : UnitState) : State := { air with pvw := { air.pvw with unit := u } }

/-- A unit whose boundary has reached event `a`. -/
def atEvent (a : Act) (t : State) : State := { t with progress := { t.progress with agenda := [a] } }

theorem atEvent_turn (a : Act) (t : State) (h : t.progress.agenda = []) : EventTurn a (atEvent a t) t [] := by
  refine ⟨[], rfl, by simp, ?_⟩
  show t = { t with progress := { t.progress with agenda := [] } }
  rw [← h]

theorem feedTaken {f : FeedKind} {p : PortId} {b : List Byte} {r : State}
    (h : (r.pvw.unit.running && decide (r.sin.ports[p].state = .locked) && f.lengthOk b.length && inUse r p) = true) :
    FeedTaken f p b r := by
  simp only [Bool.and_eq_true, decide_eq_true_eq] at h
  exact ⟨h.1.1.1, h.1.1.2, h.1.2, h.2⟩

theorem sorted {k : Kind} {p : LinkPacket} {r : State}
    (h : (r.pvw.unit.running && decide (r.lkp.receiver = .locked) && headerWellFormed k p) = true) : Sorted k p r := by
  simp only [Bool.and_eq_true, decide_eq_true_eq] at h
  exact ⟨h.1.1, h.1.2, h.2⟩

theorem peerPacket {k : Kind} {p : LinkPacket} {u : UnitId} {r : State}
    (h : (r.pvw.unit.running && decide (r.lkp.receiver = .locked) && headerWellFormed k p) = true)
    (g : (p.ensemble = ensembleOf r ∧ p.lead = byteOf (leadOf r)) ∧ p.sender.toNat = u.val ∧ u ≠ selfOf r) :
    PeerPacket k p u r := ⟨sorted h, g.1, g.2.1, g.2.2⟩

/-- A request waits at the head of the queue and is one the state takes. -/
theorem taken {k : RequestKind} {q : Request} {rs : List Request} {r : State}
    (h : r.sup.queue = q :: rs ∧ q.checkGood = true ∧ requestOf q.code = some k)
    (g : k.takenIn r.pvw.unit = true ∧ k.lengthOk q.body.length = true) : Taken k q rs r :=
  ⟨⟨h.1, h.2.1, h.2.2⟩, g.1, g.2⟩

/-! ### Witnesses: the step, the invariants, the start -/

theorem test_witness_StepRunsFrontCommand :
    ({ air with pending := [.missedPulse] } : State).pending = .missedPulse :: [] := rfl

/-- A number held and none; an event that is due, one that is not, and an action that is no event. -/
theorem test_witness_EventsOnlyCutTheBoundary :
    air.ftu.now.isSome = true ∧ State.reset.ftu.now = none ∧
    (isEvent .frameJump = true ∧ due .frameJump air = true) ∧ isEvent .startFrame = false ∧
    (due .readFailed air = false ∧ Act.readFailed ≠ .presenceSend ∧ Act.readFailed ≠ .claimResend ∧
      Act.readFailed ≠ .alertRepeat) := by
  refine ⟨rfl, rfl, ⟨rfl, rfl⟩, rfl, rfl, ?_, ?_, ?_⟩ <;> rintro ⟨⟩

theorem test_witness_IdleStepRunsTheBoundary : State.reset.pending = [] ∧ State.reset.progress.agenda = [] := ⟨rfl, rfl⟩

theorem test_witness_ExecAnswersNext : ∀ l h, Instr.missedPulse ≠ .alertLineChange l h := by simp

/-! A unit ON_AIR meets each invariant, and its step answers a next state. -/

theorem test_air_steps : ∃ t, step air = .next t := ⟨_, rfl⟩

theorem test_witness_AttentionInvariant : AttentionFollows air ∧ ∃ t, step air = .next t := ⟨rfl, test_air_steps⟩

theorem test_witness_PageMemoryInvariant : MemorySound air ∧ ∃ t, step air = .next t := ⟨rfl, test_air_steps⟩

theorem test_witness_UnitStateInvariant : ModeSound air ∧ ∃ t, step air = .next t :=
  ⟨⟨rfl, fun _ => rfl, by decide, by decide, by decide⟩, test_air_steps⟩

theorem test_witness_BoundedStoresInvariant : StoresSound air ∧ ∃ t, step air = .next t :=
  ⟨⟨by decide, by decide, by decide, by decide, by decide, by decide, by decide⟩, test_air_steps⟩

/-- An image like `held` up to its check, its length field first (R174, R196), and its CRC-32. -/
def imageBody : List Byte :=
  let line (settings : Byte) : List Byte := [settings, 2, 3, 1, 70] ++ List.replicate 127 0
  be16 321 ++ [0x5E, 0x4B, 5, 0x2A, 0x10, 4, 1, 0x10, 5, 0x20, 5, 0x30, 0, 0, 0, 0, 0, 0, 0] ++ line 1 ++ line 3 ++
    [1, 64, 0, 1, 0x7F, 0xFF, 0xFF] ++ be16 0x0101 ++ [0] ++ be16 128 ++ [16, 1, 2] ++ zeroPad 16 [65] ++ [1]

def imageCheck : List Byte := [0xC2, 0x64, 0xBD, 0xC5]

/-- The CRC-32 with its running value evaluated at every byte, so that a long list stays shallow for the kernel. -/
def crc32Run : List Byte → Nat → Nat
  | [], n => n
  | b :: bs, n =>
    match n with
    | 0 => crc32Run bs (crc32Byte (BitVec.ofNat 32 0) b).toNat
    | k + 1 => crc32Run bs (crc32Byte (BitVec.ofNat 32 (k + 1)) b).toNat

theorem crc32Run_eq (bs : List Byte) : ∀ (n : Nat) (c : BitVec 32), n = c.toNat →
    crc32Run bs n = (bs.foldl crc32Byte c).toNat := by
  induction bs with
  | nil => rintro n c rfl; rfl
  | cons b bs ih =>
    rintro (_ | n) c h <;> refine ih _ _ ?_ <;> rw [h, BitVec.ofNat_toNat, BitVec.setWidth_eq]

theorem crc32_eq (bs : List Byte) : crc32 bs = ~~~ BitVec.ofNat 32 (crc32Run bs 0xFFFFFFFF) := by
  rw [crc32Run_eq bs 0xFFFFFFFF 0xFFFFFFFF#32 rfl, BitVec.ofNat_toNat, BitVec.setWidth_eq]; rfl

def image : List Byte := imageBody ++ imageCheck

theorem test_image_check : BitVec.ofNat 32 (beNat imageCheck) = crc32 imageBody ∧ image.length = 321 := by
  rw [crc32_eq]; decide +kernel

theorem test_image_tests : firstFault (rangeTests image) = none ∧ firstFault (roleTests image) = none := by
  decide +kernel

theorem test_image_good : checkImage none image = .good (parseImage image) := by
  have hl := test_image_check.2
  have hb : image.take 317 = imageBody ∧ image.drop 317 = imageCheck := by
    rw [show 317 = imageBody.length by decide +kernel]
    exact ⟨List.take_left, List.drop_left⟩
  have hf : half image 2 = 0x5E4B#16 ∧ (byteAt image 8).toNat = 1 := by decide
  have hn : imageLength image = 321 := by decide
  simp [checkImage, hb.1, hb.2, test_image_check.1, test_image_tests.1, test_image_tests.2, hl, hn, hf.1, hf.2]

theorem test_image_sources :
    checkFlash none image = .good (parseImage image) ∧ checkBody none image = .good (parseImage image) := by
  have hn : imageLength image = 321 := by decide
  have ht : image.take 321 = image := List.take_of_length_le (Nat.le_of_eq test_image_check.2)
  simp [checkFlash, badLength, checkBody, hn, ht, test_image_check.2, test_image_good]

/-- `n` packets of one kind. -/
def queued (n : Nat) (k : Kind) : List TxPacket := List.replicate n ⟨k, 1001, 0x0101, []⟩

/-- The bytes of a flash read with length field `n`, of which `m` have arrived. -/
def flashOf (n m : Nat) : List Byte := be16 (BitVec.ofNat 16 n) ++ List.replicate (m - 2) 0

/-- A good image, whose lines are EDGE and LEVEL; a length field of 295; one byte; a length field of 321 and of 4,096
with one byte missing; a read that is not under way; a read that fails at age 25. -/
theorem test_witness_ConfigurationReadOutcome :
    flashEnds image = true ∧ checkFlash none image = .good (parseImage image) ∧
    (parseImage image).lines[(0 : LineIx)].mode = .edge ∧ (parseImage image).lines[(1 : LineIx)].mode = .level ∧
    (queued 63 .alert).length < 64 ∧
    flashEnds [0x01, 0x27] = true ∧ checkFlash none [0x01, 0x27] = .bad .length none ∧
    State.reset.cfl.reading = true ∧ settle State.reset = State.reset ∧ ([1] : List Byte).length < 2 ∧
    (296 ≤ beNat (slice (flashOf 321 320) 0 2) ∧ (flashOf 321 320).length < beNat (slice (flashOf 321 320) 0 2)) ∧
    (beNat (slice (flashOf 4096 4095) 0 2) ≤ 4096 ∧ (flashOf 4096 4095).length < beNat (slice (flashOf 4096 4095) 0 2)) ∧
    settle air = air ∧ air.cfl.reading = false ∧
    (let t : State := { State.reset with cfl := { Cfl.reset with readAge := 25 } }
     EventTurn .readFailed (atEvent .readFailed t) t [] ∧ t.cfl.reading = true ∧ t.cfl.readAge = 25) :=
  ⟨by decide +kernel, test_image_sources.1, by decide, by decide, by decide, by decide, by decide, rfl, settle_of_empty rfl,
    by decide, by decide +kernel, by decide +kernel, settle_of_empty rfl, rfl, atEvent_turn _ _ rfl, rfl, rfl⟩

theorem test_witness_TimeMessageOutcome :
    settle air = air ∧ ([] : List Byte).length ≠ 7 ∧ byteAt [0xA0, 0, 0, 0, 0, 0, 0] 0 ≠ 0xA1 ∧
    half [0xA1, 0, 0, 0, 0, 0, 0] 5 ≠ crc16 ([0xA1, 0, 0, 0, 0, 0, 0].take 5) :=
  ⟨settle_of_empty rfl, by decide, by decide, by decide +kernel⟩

/-- The last boundary raised by the timer, no pulse matched. -/
def timed (ref : RefState) : State := { air with ftu := { air.ftu with ref := ref, source := .timer, holdover := 249 } }

/-- HOLDOVER at frame 25 in OFF_AIR, the message of second 1 pending, its candidate's 25 pulses counted. -/
def relocking : State :=
  { inState .offAir with
    ftu := { air.ftu with ref := .holdover, source := .timer, now := some 25, message := some 1,
                          candidate := some ⟨0, 25, false⟩ } }

/-- Stray at 29,999 µs, and at 10,000 µs after a TIMER boundary; matched at 9,999 µs; a boundary at 30,000 µs; a
consistent relock in OFF_AIR, and a pulse that relocks nothing. -/
theorem test_witness_PulseAndTimerOutcome :
    settle air = air ∧ 29999 < 30000 ∧ air.ftu.source = .pulse ∧ settle (timed .locked) = timed .locked ∧
    10000 ≤ 10000 ∧ 9999 < 10000 ∧ (timed .locked).ftu.source = .timer ∧ (timed .locked).ftu.matched = false ∧
    (timed .locked).ftu.message = none ∧ 30000 ≤ 30000 ∧ air.ftu.message = none ∧ air.ftu.ref ≠ .holdover ∧
    settle (timed .holdover) = timed .holdover ∧ (timed .holdover).ftu.ref = .holdover ∧
    (settle relocking = relocking ∧ relocking.ftu.source = .timer ∧ relocking.ftu.matched = false ∧
      relocking.ftu.ref = .holdover ∧ relocking.pvw.unit = .offAir ∧
      let g := acceptPulse { relocking.ftu with matched := true, timerStart := 9999 }
      g.ref = .locked ∧ g.next = none) := by
  refine ⟨settle_of_empty rfl, by decide, rfl, settle_of_empty rfl, by decide, by decide, rfl, rfl, rfl, by decide, rfl,
    by decide, settle_of_empty rfl, rfl, settle_of_empty rfl, rfl, rfl, rfl, rfl, by decide⟩

theorem test_witness_MissedPulseOutcome :
    (∀ u : UnitState, let s : State := { timed .locked with pvw := { air.pvw with unit := u } }
      settle s = s ∧ s.ftu.source = .timer ∧ s.ftu.matched = false ∧ s.ftu.ref = .locked ∧ s.pvw.unit = u) ∧
    settle air = air ∧ air.ftu.source = .pulse ∧ (timed .holdover).ftu.ref ≠ .locked :=
  ⟨fun _ => ⟨settle_of_empty rfl, rfl, rfl, rfl, rfl⟩, settle_of_empty rfl, rfl, by decide⟩

/-- The message of second 1, labelled at frame 25, against a candidate of second 0 with 25 pulses or with 24. -/
theorem test_witness_ReferenceTests :
    let f (ref : RefState) (now : FrameNo) (pulses : Nat) (differs : Bool) : Ftu :=
      { Ftu.reset with ref := ref, now := some now, message := some 1, candidate := some ⟨0, pulses, differs⟩ }
    let fits (g : Ftu) : Prop := ∃ c, g.candidate = some c ∧ 1 = c.second + 1 ∧ c.pulses = 25
    let agrees (g : Ftu) : Prop := g.now = some (BitVec.ofNat 24 (25 * (1#32).toNat))
    Ftu.reset.message = none ∧ (∀ ref now pulses differs, (f ref now pulses differs).message = some 1) ∧
    fits (f .unlocked 25 25 false) ∧ ¬fits (f .unlocked 25 24 false) ∧ agrees (f .locked 25 25 false) ∧
    (¬agrees (f .locked 26 25 true) ∧ fits (f .locked 26 25 true)) ∧
    (¬agrees (f .locked 26 24 true) ∧ ¬fits (f .locked 26 24 true)) ∧
    (fits (f .holdover 25 25 false) ∧ agrees (f .holdover 25 25 false)) ∧
    (fits (f .holdover 26 25 false) ∧ ¬agrees (f .holdover 26 25 false)) ∧ ¬fits (f .holdover 25 24 false) := by
  refine ⟨rfl, fun _ _ _ _ => rfl, ⟨_, rfl, by decide, rfl⟩, ?_, by decide, ⟨by decide, _, rfl, by decide, rfl⟩,
    ⟨by decide, ?_⟩, ⟨⟨_, rfl, by decide, rfl⟩, by decide⟩, ⟨⟨_, rfl, by decide, rfl⟩, by decide⟩, ?_⟩ <;>
    (rintro ⟨c, hc, -, hp⟩; cases hc; cases hp)

theorem test_witness_NoticeEventsOutcome :
    (∀ a u, EventTurn a (atEvent a (inState u)) (inState u) [] ∧ (inState u).pvw.unit = u) ∧
    (UnitState.isolated = .listen ∨ UnitState.isolated = .onAir ∨ UnitState.isolated = .isolated) ∧
    ¬(UnitState.clash = .listen ∨ UnitState.clash = .onAir ∨ UnitState.clash = .isolated) ∧
    (∀ u : UnitState, u = .loading ∨ u = .halted ∨ u = .clash → (inState u).pvw.unit = u) :=
  ⟨fun a u => ⟨atEvent_turn a _ rfl, rfl⟩, by decide, by decide, fun _ _ => rfl⟩

/-- A valid frame being streamed. -/
def streaming : State := { air with ofr := ⟨true, some ⟨some 1000, true, List.replicate 384 0, none⟩, ⟨1, 0, 0⟩⟩ }

/-- A packet in transmission. -/
def busy : State := { air with lkp := { air.lkp with transmitting := some ⟨.claim, 0, 0, []⟩ } }

theorem test_witness_EntryToListenEffect :
    ((queued 63 .alert).filter (fun p => p.kind.cls = .alert)).length < 64 ∧ busy.lkp.transmitting.isSome = true ∧
    streamingValid streaming = true ∧ streamingValid air = false := by decide +kernel

theorem test_witness_LeavingTheAirEffect :
    (∀ r, enterClash r = enterClash r ∨ enterClash r = enterOffAir r) ∧ streamingValid air = false ∧
    ∃ f, streaming.ofr.frame = some f ∧ f.valid = true ∧ f.sentAtCut = none :=
  ⟨fun _ => .inl rfl, rfl, _, rfl, rfl, rfl⟩

/-- LISTEN at its 32nd boundary, the transmitter busy or free; JOINING at its frame; ON_AIR with no echo for 25
boundaries; a queue of 62. -/
theorem test_witness_JoinEventsOutcome :
    (∀ x : Option SentPacket, let t : State := { inState .listen with
       pvw := { (inState .listen).pvw with listenCount := 32 }
       lkp := { air.lkp with queue := queued 62 .alert, transmitting := x } }
     EventTurn .enterJoining (atEvent .enterJoining t) t [] ∧ t.pvw.unit = .listen ∧ t.pvw.listenCount = 32 ∧
     t.ftu.now = some 1000 ∧ t.lkp.queue = queued 62 .alert ∧ t.lkp.transmitting = x) ∧
    (queued 62 .alert).length + 2 ≤ 64 ∧ (∀ p ∈ queued 62 .alert, p.kind ≠ .presence) ∧
    (let t : State := { inState .joining with
       pvw := { (inState .joining).pvw with joinFrame := some 1000 }, lkp := { air.lkp with queue := queued 63 .alert } }
     EventTurn .enterOnAir (atEvent .enterOnAir t) t [] ∧ t.pvw.unit = .joining ∧ t.pvw.joinFrame = some 1000 ∧
     t.ftu.now = some 1000 ∧ t.lkp.queue.length < 64) ∧
    (EventTurn .enterIsolated (atEvent .enterIsolated air) air [] ∧ air.pvw.unit = .onAir ∧ air.lkp.echoAge = 25 ∧
     air.lkp.queue.length < 64) := by
  refine ⟨fun _ => ⟨atEvent_turn _ _ rfl, rfl, rfl, rfl, rfl, rfl⟩, by decide, by decide +kernel,
    ⟨atEvent_turn _ _ rfl, rfl, rfl, rfl, ?_⟩, atEvent_turn _ _ rfl, rfl, rfl, ?_⟩ <;> decide +kernel

theorem test_witness_ResendEventsOutcome :
    (let t : State := { air with pvw := { air.pvw with presenceCount := 4 } }
     EventTurn .presenceSend (atEvent .presenceSend t) t [] ∧ t.pvw.unit = .onAir ∧ t.progress.presenceSent = false ∧
     t.pvw.presenceCount = 4 ∧ t.lkp.queue.length < 64) ∧
    (let t : State := { air with pvw := { air.pvw with claimCount := 24, ownClaim := some ⟨1, 1000, []⟩ } }
     EventTurn .claimResend (atEvent .claimResend t) t [] ∧ t.pvw.unit = .onAir ∧
     t.pvw.ownClaim = some ⟨1, 1000, []⟩ ∧ t.progress.claimSent = false ∧ t.pvw.claimCount = 24 ∧
     t.lkp.queue.length < 64) ∧
    (∀ n, let t : State := { air with pvw := { air.pvw with presenceCount := n, claimCount := n, ownClaim := some ⟨1, 1000, []⟩ } }
     t.pvw.unit.viewing = true ∧ t.progress.presenceSent = false ∧ t.pvw.presenceCount = n ∧ t.pvw.unit = .onAir ∧
     t.pvw.ownClaim.isSome = true ∧ t.progress.claimSent = false ∧ t.pvw.claimCount = n) ∧ 3 ≠ 4 ∧ 23 ≠ 24 ∧
    UnitState.clash.viewing = false ∧ air.pvw.ownClaim = none :=
  ⟨⟨atEvent_turn _ _ rfl, rfl, rfl, rfl, by decide⟩, ⟨atEvent_turn _ _ rfl, rfl, rfl, rfl, rfl, by decide⟩,
    fun _ => ⟨rfl, rfl, rfl, rfl, rfl, rfl, rfl⟩, by decide, by decide, rfl, rfl⟩

/-- A slot of the peer table set for unit 2. -/
def withSlot (u : UnitState) (x : PeerSlot) : State :=
  { inState u with pvw := { (inState u).pvw with slots := air.pvw.slots.set 2 x } }

theorem two_ne : (2 : UnitId) ≠ 5 := by decide

def heard : PeerSlot := { PeerSlot.absent .zero with state := .heard, stamp := some 974 }

/-- Silent at 1,000 after a stamp of 974; a removal and a claim at the frame itself, 1,000; a removal held later, or not. -/
theorem test_witness_PeerTableEventsOutcome :
    (∀ r, let t := withSlot .onAir { heard with removal := r }
      EventTurn (.peerSilent 2) (atEvent (.peerSilent 2) t) t [] ∧ t.pvw.unit = .onAir ∧ (2 : UnitId) ≠ selfOf t ∧
      t.ftu.now = some 1000 ∧ t.pvw.slots[(2 : UnitId)].state = .heard ∧ t.pvw.slots[(2 : UnitId)].stamp = some 974 ∧
      t.pvw.slots[(2 : UnitId)].removal = r) ∧ later 1000 (plus 974 25) = true ∧
    later 1006 (plus 974 31) = true ∧ later 1005 (plus 974 31) = false ∧
    (let t := withSlot .onAir { heard with removal := some 1000, waiting := some ⟨1, 1000, []⟩ }
     EventTurn (.slotRemoval 2) (atEvent (.slotRemoval 2) t) t [] ∧
     EventTurn (.claimInForce 2) (atEvent (.claimInForce 2) t) t [] ∧ t.pvw.unit ≠ .clash ∧ t.pvw.unit ≠ .offAir ∧
     (2 : UnitId) ≠ selfOf t ∧ t.ftu.now = some 1000 ∧ t.pvw.slots[(2 : UnitId)].removal = some 1000 ∧
     t.pvw.slots[(2 : UnitId)].waiting = some ⟨1, 1000, []⟩) ∧ later 1000 1000 = false ∧
    (∀ e : Option EndFrame, let x : AlertRecord :=
        ⟨⟨2, 1⟩, ⟨1, 70, false, [65]⟩, 16, 990, none, e, none, false, .active⟩
     [x][0]? = some x ∧ x.id.unit.toNat = (2 : UnitId).val ∧ x.id.unit.toNat ≠ (3 : UnitId).val ∧ x.stop = e) ∧
    later 1006 1005 = true ∧ later 1005 1005 = false := by
  refine ⟨fun r => ⟨atEvent_turn _ _ rfl, rfl, two_ne, rfl, rfl, rfl, rfl⟩, by decide, by decide, by decide,
    ⟨atEvent_turn _ _ rfl, atEvent_turn _ _ rfl, by decide, by decide, by decide, rfl, rfl, rfl⟩, by decide,
    fun _ => ⟨rfl, rfl, (by decide : 2 ≠ 3), rfl⟩, by decide, by decide⟩

/-! ### Witnesses: the link -/

theorem test_witness_TransmitQueueAdmission :
    (inState .clash).pvw.unit.viewing = false ∧ air.pvw.unit.viewing = true ∧ (queued 63 .alert).length < 64 ∧
    64 ≤ (queued 64 .alert).length ∧ (∀ x ∈ queued 64 .alert, x.kind ≠ .contrib) ∧ Kind.alert ≠ .contrib ∧
    (let x : TxPacket := ⟨.contrib, 1001, 0x0101, []⟩
     64 ≤ (queued 32 .contrib ++ x :: queued 31 .alert).length ∧ x.kind = .contrib ∧
     ∀ y ∈ queued 31 .alert, y.kind ≠ .contrib) ∧
    (handIn ⟨.alert, 0, 0, []⟩ (inState .clash)).1.lkp.transmitting = none ∧
    air.ftu.now = some 1000 ∧ later 1001 (plus 1000 1) = false ∧ later 1002 (plus 1000 1) = true := by decide +kernel

/-- A free transmitter with a packet to take, a busy one, and one with nothing to take. -/
theorem test_witness_TransmitDoneOutcome :
    (let s : State := { air with lkp := { air.lkp with queue := queued 1 .contrib ++ queued 1 .claim } }
     settle s = s ∧ pickNext s.pvw.unit s.lkp.queue = some ⟨.claim, 1001, 0x0101, []⟩ ∧ s.lkp.queue ≠ [] ∧
     ∀ x ∈ s.lkp.queue, x.kind.cls = .contribution → (x.frameTag - 1001).toNat < 8388608) ∧
    air.lkp.transmitting = none ∧ busy.lkp.transmitting.isSome = true ∧
    settle air = air ∧ pickNext air.pvw.unit air.lkp.queue = none ∧ UnitState.clash.viewing = false :=
  ⟨⟨settle_of_empty rfl, by decide, by decide, by decide⟩, rfl, rfl, settle_of_empty rfl, by decide, rfl⟩

/-- A header: sync pair, and 13 bytes with their check; `sender` 2 of ensemble 0x2A10, lead 4, a PRESENCE of 14 bytes. -/
def header (lead : Byte) : List Byte :=
  let core : List Byte := [0x2A, 0x10, lead, 1, 2, 7, 0, 14, 0, 0, 0, 0, 0]
  [0x6E, 0x93] ++ core ++ be16 (crc16 core)

def hunting (n : Nat) : State := { air with lkp := { air.lkp with receiver := .hunt, huntCount := n } }

def failed (n : Nat) (known : Bool) : State := { air with lkp := { air.lkp with failures := n, nextKnown := known } }

/-- What may stand before a sync pair: bytes without one, the first sync byte last, where the receiver scans; idle bytes
where a packet must start. Headers with a good check, whole or cut; a pair alone and a header with a bad check; the first
sync byte alone; malformed headers from unit 2 and from sender 8; a whole packet. -/
theorem test_witness_LinkReceiverLock :
    (∀ n, settle (hunting n) = hunting n ∧ (hunting n).lkp.receiver = .hunt ∧ (hunting n).lkp.huntCount = n ∧
      (hunting n).pvw.unit.running = true) ∧
    (∀ n b, settle (failed n b) = failed n b ∧ (failed n b).lkp.receiver = .locked ∧ (failed n b).lkp.failures = n ∧
      (failed n b).lkp.nextKnown = b ∧ (failed n b).pvw.unit.running = true) ∧
    linkLead (hunting 0).lkp [0x93, 0x6E] ∧ linkLead (hunting 1).lkp [0, 0] ∧
    (∀ n, linkLead (failed n true).lkp [0, 0] ∧ linkLead (failed n false).lkp [0x93, 0x6E]) ∧
    NoPair 0x6E 0x93 [0x93, 0x6E] ∧
    (let core : List Byte := [0x2A, 0x10, 4, 1, 2, 7, 0, 14, 0, 0, 0, 0, 0]
     core.length = 13 ∧ ([] : List Byte).length ≤ beNat (slice core 6 2) + 4 ∧
       (List.replicate 18 (0 : Byte)).length = beNat (slice core 6 2) + 4) ∧
    ([0x6E, 0x93] : List Byte).length < 17 ∧
    (let f : List Byte := [0x6E, 0x93] ++ List.replicate 15 0
     ¬f.length < 17 ∧ half f 15 ≠ crc16 (slice f 2 13)) ∧
    (0x6E : Byte) ≠ 0x00 ∧ hasLinkSync [0x6E, 0] = false ∧ (∀ b ∈ ([0, 0] : List Byte), b = 0x00) ∧
    linkHeaderForm (header 13) = false ∧ (byteAt (header 13) 6).toNat = (2 : UnitId).val ∧
    (let core : List Byte := [0x2A, 0x10, 4, 1, 8, 7, 0, 14, 0, 0, 0, 0, 0]
     7 < (byteAt core 4).toNat ∧ linkHeaderForm ([0x6E, 0x93] ++ core ++ be16 (crc16 core)) = false) ∧
    (let p : LinkPacket := ⟨0x2A10, 4, 2, 7, 1005, 0x0101, List.replicate 14 0, 0⟩
     headerWellFormed .presence p = true ∧ p.body.length < 65536 ∧
       ∀ s, ∃ t, exec (packetCommand .presence p) s = .next t) ∧
    settle State.reset = State.reset ∧ State.reset.pvw.unit.running = false :=
  ⟨fun n => ⟨settle_of_empty rfl, rfl, rfl, rfl⟩, fun n b => ⟨settle_of_empty rfl, rfl, rfl, rfl, rfl⟩,
    noPair_of_seek rfl, by show ∀ b ∈ _, _; decide, fun n => ⟨by show ∀ b ∈ _, _; decide, noPair_of_seek rfl⟩,
    noPair_of_seek rfl, by decide, by decide, by decide +kernel, by decide, by decide, by decide, by decide +kernel,
    by decide +kernel, by decide +kernel,
    ⟨by decide, by decide, fun _ => ⟨_, rfl⟩⟩, settle_of_empty rfl, rfl⟩

/-- R41: bytes before the sync pair, a good header and its body, idle bytes, and another: the second header locks. -/
theorem test_hunt_locks_behind_noise :
    let whole := header 4 ++ List.replicate 18 0
    (linkHunt ([0x12, 0x6E] ++ whole) (hunting 0)).lkp.huntCount = 1 ∧
    (linkHunt ([0x12, 0x6E] ++ whole ++ [0, 0] ++ whole) (hunting 0)).lkp.receiver = .locked := by decide +kernel

/-- A packet with a good body check. -/
def packet (sender seq : Byte) (body : List Byte) : LinkPacket :=
  ⟨0x2A10, 4, sender, seq, 1005, 0x0101, body, crc32 body⟩

def presenceBody : List Byte := [3, 0, 0, 1] ++ be24 1000 ++ List.replicate 7 0

/-- A unit whose echo list holds the check of `packet 5 7 presenceBody`. -/
def echoed (u : UnitState) : State :=
  { inState u with lkp := { air.lkp with echoes := [(7, headerCheck .presence (packet 5 7 presenceBody))] } }

theorem test_witness_LinkPacketSorting :
    (let p : LinkPacket := { packet 2 7 presenceBody with lead := 5 }
     settle air = air ∧ Sorted .presence p air ∧ p.lead ≠ byteOf (leadOf air)) ∧
    (∀ u, settle (echoed u) = echoed u ∧ (echoed u).pvw.unit = u) ∧
    (let p := packet 5 7 presenceBody
     Sorted .presence p (echoed .onAir) ∧ Sorted .presence p (echoed .isolated) ∧ p.ensemble = ensembleOf air ∧
     p.lead = byteOf (leadOf air) ∧ p.sender.toNat = (selfOf air).val ∧
     (p.seq, headerCheck .presence p) ∈ (echoed .onAir).lkp.echoes ∧ p.bodyCheck = crc32 p.body ∧
     (p.seq, headerCheck .presence p) ∉ air.lkp.echoes) ∧
    (let p : LinkPacket := { packet 5 7 presenceBody with bodyCheck := 0 }
     Sorted .presence p (echoed .onAir) ∧ Sorted .presence p (echoed .isolated) ∧ p.ensemble = ensembleOf air ∧
     p.lead = byteOf (leadOf air) ∧ p.sender.toNat = (selfOf air).val ∧
     (p.seq, headerCheck .presence p) ∈ (echoed .onAir).lkp.echoes ∧ p.bodyCheck ≠ crc32 p.body) ∧
    PeerPacket .presence (packet 2 7 presenceBody) 2 air ∧
    PeerPacket .presence { packet 2 7 presenceBody with bodyCheck := 0 } 2 air ∧ 0 ≠ crc32 presenceBody := by
  refine ⟨⟨settle_of_empty rfl, sorted (by decide), by decide⟩, fun u => ⟨settle_of_empty rfl, rfl⟩,
    ⟨sorted (by decide), sorted (by decide), rfl, by decide, by decide, by decide +kernel, rfl, by decide⟩,
    ⟨sorted (by decide), sorted (by decide), rfl, by decide, by decide, by decide +kernel, by decide +kernel⟩,
    peerPacket (by decide) (by decide), peerPacket (by decide) (by decide), by decide +kernel⟩

/-- Unit 2's slot PRESENT, with version 1 in force, and a digest of frame 999 in the history. -/
def present : State :=
  let t := withSlot .onAir { heard with state := .present, inForce := some ⟨1, []⟩ }
  { t with pvw := { t.pvw with digests := [(999, 0x1234)] } }

/-- The same with a removal at `f`, and an own claim in force from frame `g`, the rejoin hold at its end. -/
def rejoining (f : Option FrameNo) (g : FrameNo) : State :=
  { present with pvw := { present.pvw with
      slots := present.pvw.slots.set 2 { present.pvw.slots[(2 : UnitId)] with removal := f }
      ownClaim := some ⟨1, g, []⟩, rejoinHold := 25 } }

/-- A PRESENCE that shows `st`, stamped 1,000, with the digest 0x5678 of frame 999. -/
def showing (st : Byte) : List Byte := [st, 1, 0, 3] ++ be24 1000 ++ be24 999 ++ be16 0x5678 ++ [0, 0]

/-- A digest that differs; a withdrawal with no removal, with one at the removal frame 1,006 itself and with one a frame
later; a rejoin with the own claim in force at the stamp itself, and none with it a frame later; CLASH; unit state 5; an
ABSENT slot and no stamp. -/
theorem test_witness_PresenceOutcome :
    (∀ f g, let t := rejoining f g
      let q := noted (packet 2 7 (showing 3)) 2 t
      settle t = t ∧ PeerPacket .presence (packet 2 7 (showing 3)) 2 t ∧
      PeerPacket .presence (packet 2 7 (showing 1)) 2 t ∧ q.pvw.unit = .onAir ∧ q.ftu.now = some 1000 ∧
      q.pvw.slots[(2 : UnitId)].state = .present ∧ q.pvw.slots[(2 : UnitId)].removal = f ∧ leadOf q = 4 ∧
      q.pvw.rejoinHold = 25 ∧ q.pvw.ownClaim = some ⟨1, g, []⟩ ∧ q.lkp.queue.length < 64) ∧
    (parsePresence (showing 3)).heard.getLsbD (selfOf present).val = false ∧
    (parsePresence (showing 3)).stamp = some 1000 ∧ later 1000 1000 = false ∧ later 1001 1000 = true ∧
    (later 1006 (plus 1000 4) = true ∧ plus 1000 (4 + 2) = 1006 ∧ later 1006 1006 = false ∧ later 1007 1006 = true) ∧
    settle present = present ∧
    (∀ st : Byte, PeerPacket .presence (packet 2 7 (showing st)) 2 present ∧
      (packet 2 7 (showing st)).bodyCheck = crc32 (packet 2 7 (showing st)).body) ∧
    (∀ x : Byte × UnitState, x ∈ ([(1, .listen), (3, .onAir)] : List (Byte × UnitState)) →
      (let q := noted (packet 2 7 (showing x.1)) 2 present
       q.pvw.unit.viewing = true ∧ (parsePresence (showing x.1)).unit = some x.2 ∧
       q.pvw.slots[(2 : UnitId)].state = .present ∧ q.ftu.now = some 1000 ∧
       (parsePresence (showing x.1)).digest = some (999, 0x5678) ∧
       q.pvw.digests.find? (fun y => y.1 = 999) = some (999, 0x1234))) ∧
    (let q := noted (packet 2 7 (showing 3)) 2 (inState .clash)
     settle (inState .clash) = inState .clash ∧ PeerPacket .presence (packet 2 7 (showing 3)) 2 (inState .clash) ∧
     q.pvw.unit.viewing = false) ∧ (parsePresence (showing 5)).unit = none ∧
    (let b : List Byte := List.replicate 1 3 ++ List.replicate 13 0
     PeerPacket .presence (packet 2 7 b) 2 air ∧ (parsePresence b).unit.isSome = true ∧ (parsePresence b).stamp = none ∧
     (noted (packet 2 7 b) 2 air).pvw.slots[(2 : UnitId)].state = .absent) := by
  refine ⟨fun _ _ => ⟨settle_of_empty rfl, peerPacket rfl ⟨⟨rfl, rfl⟩, rfl, two_ne⟩,
      peerPacket rfl ⟨⟨rfl, rfl⟩, rfl, two_ne⟩, rfl, rfl, rfl, rfl, rfl, rfl, rfl, (by decide : 0 < 64)⟩,
    by decide, by decide, by decide, by decide, by decide,
    settle_of_empty rfl, fun st => ⟨peerPacket rfl ⟨⟨rfl, rfl⟩, rfl, two_ne⟩, rfl⟩, by decide +kernel,
    ⟨settle_of_empty rfl, peerPacket (by decide) (by decide), by decide +kernel⟩, by decide,
    peerPacket (by decide) (by decide), by decide, by decide, by decide +kernel⟩

/-- A CLAIM with no entries: version 2 for frame `f`. -/
def claimBody (f : FrameNo) : List Byte := [2] ++ be24 f ++ [0]

theorem test_witness_ClaimOutcome :
    (∀ f : FrameNo, claimHolds (claimBody f) = true ∧
      (packet 2 7 (claimBody f)).bodyCheck = crc32 (packet 2 7 (claimBody f)).body ∧
      ∀ t ∈ [inState .clash, air, present, withSlot .listen { heard with removal := some 1000 },
             withSlot .onAir { heard with inForce := some ⟨2, []⟩ }],
        settle t = t ∧ PeerPacket .claim (packet 2 7 (claimBody f)) 2 t) ∧
    (let q (s : State) := noted (packet 2 7 (claimBody 1005)) 2 s
     (q (inState .clash)).pvw.unit.viewing = false ∧ (q air).pvw.slots[(2 : UnitId)].state = .absent ∧
     (q (withSlot .onAir { heard with inForce := some ⟨2, []⟩ })).pvw.slots[(2 : UnitId)].inForce = some ⟨2, []⟩ ∧
     (q (withSlot .listen heard)).pvw.unit = .listen ∧ (q (withSlot .listen heard)).pvw.slots[(2 : UnitId)].state ≠ .absent ∧
     (q present).pvw.unit = .onAir ∧ (q present).pvw.slots[(2 : UnitId)].state ≠ .absent ∧
     (q present).pvw.slots[(2 : UnitId)].inForce = some ⟨1, []⟩ ∧ (q present).pvw.slots[(2 : UnitId)].waiting = none ∧
     (q present).ftu.now = some 1000 ∧ leadOf (q present) = 4) ∧
    (parseClaim (claimBody 1005)).frame = 1005 ∧ later 1005 (plus 1000 4) = true ∧
    (parseClaim (claimBody 1004)).frame = 1004 ∧ later 1004 (plus 1000 4) = false ∧
    (∃ e, e ∈ (parseClaim ([2] ++ be24 1005 ++ [1] ++ List.replicate 24 0)).entries) ∧
    (∀ b, let x : AlertRecord :=
        ⟨⟨2, 1⟩, ⟨1, 70, false, [65]⟩, 16, 990, none, some ⟨1005, b⟩, none, false, .ending⟩
     [x][0]? = some x ∧ x.id.unit.toNat = (2 : UnitId).val ∧ x.stop = some ⟨1005, b⟩) := by
  refine ⟨fun f => ⟨rfl, rfl, ?_⟩, by decide +kernel, by decide, by decide, by decide, by decide, ⟨_, .head _⟩,
    fun _ => ⟨rfl, rfl, rfl⟩⟩
  intro t ht
  simp only [List.mem_cons, List.not_mem_nil, or_false] at ht
  rcases ht with rfl | rfl | rfl | rfl | rfl <;> exact ⟨settle_of_empty rfl, peerPacket rfl ⟨⟨rfl, rfl⟩, rfl, two_ne⟩⟩

/-- A contribution of `n` payload bytes for frame `f` from unit 2. -/
def contribFor (f : FrameNo) (n : Nat) : LinkPacket := { packet 2 7 (0 :: List.replicate n 0) with frameTag := f }

/-- The slot of frame 1,004 opened with one entry of unit 2 for an audio rate of 8. -/
def opened (x : Filing) : State :=
  { air with asm := { air.asm with
      slots := air.asm.slots.set 12 (.opened 1004 ⟨none, [], 0, 0, 0⟩ ([] ++ ⟨0x0101, 2, 8, 0, x⟩ :: [])) } }

/-- Slot 13, of frame 1,005, as `x` makes it. -/
def waiting (x : FrameSlot) : State := { air with asm := { air.asm with slots := air.asm.slots.set 13 x } }

def damaged (f : FrameNo) : LinkPacket := { contribFor f 40 with bodyCheck := 0 }

/-- LATE at 1,001, EARLY at 1,006, held at 1,005 by a FREE slot or behind 40 others, EARLY behind 41, STRAY in a slot of
frame 989; for 1,004 an entry that is empty or is filed, of the right size or a byte longer, its body check failed, and
a slot with no entry for it. -/
theorem test_witness_ContributionOutcome :
    (∀ x, settle (waiting x) = waiting x ∧ PeerPacket .contrib (contribFor 1005 40) 2 (waiting x) ∧
      (let q := noted (contribFor 1005 40) 2 (waiting x)
       q.asm.slots[(13 : Fin 16)] = x ∧ q.pvw.unit.computing = true ∧ q.ftu.now = some 1000)) ∧
    (∀ n, (List.replicate n (Arrival.mk 2 1005 0x0101 none)).length = n) ∧
    (FrameSlot.waiting 989 [] ≠ .free ∧ ∀ l, FrameSlot.waiting 989 [] ≠ .waiting 1005 l) ∧
    (0 ≠ crc32 (0 :: List.replicate 40 0) ∧ ∀ f x, PeerPacket .contrib (damaged f) 2 (opened x) ∧
      (damaged f).bodyCheck = 0 ∧ (damaged f).body = 0 :: List.replicate 40 0) ∧
    (∀ l es, air.asm.slots[(12 : Fin 16)] ≠ .opened 1004 l es) ∧
    (∀ t ∈ [inState .listen, air, opened .empty, opened (.void 2)], ∀ f, settle t = t ∧
      PeerPacket .contrib (contribFor f 40) 2 t ∧ PeerPacket .contrib (contribFor f 41) 2 t ∧
      (contribFor f 40).bodyCheck = crc32 (contribFor f 40).body ∧
      (contribFor f 41).bodyCheck = crc32 (contribFor f 41).body) ∧
    (noted (contribFor 1004 40) 2 (inState .listen)).pvw.unit.computing = false ∧
    (∀ x, let q := noted (contribFor 1004 40) 2 (opened x)
      q.pvw.unit.computing = true ∧ q.ftu.now = some 1000 ∧ leadOf q = 4 ∧ q.asm.slots[(13 : Fin 16)] = .free ∧
      q.asm.slots[(12 : Fin 16)] = .opened 1004 ⟨none, [], 0, 0, 0⟩ ([] ++ ⟨0x0101, 2, 8, 0, x⟩ :: [])) ∧
    later 1001 (1000 + 1) = false ∧ (later 1006 (1000 + 1) = true ∧ later 1006 (plus 1000 5) = true) ∧
    (later 1005 (1000 + 1) = true ∧ 1005 = plus 1000 5) ∧
    (later 1004 (1000 + 1) = true ∧ later 1004 (plus 1000 5) = false ∧ 1004 ≠ plus 1000 5) ∧
    (parseContrib (contribFor 1004 40).body).payload.length = 5 * (8 + 0) ∧
    (parseContrib (contribFor 1004 41).body).payload.length ≠ 5 * (8 + 0) ∧ Filing.void 2 ≠ .empty := by
  refine ⟨fun x => ⟨settle_of_empty rfl, peerPacket rfl ⟨⟨rfl, rfl⟩, rfl, two_ne⟩, rfl, rfl, rfl⟩, by simp, by simp,
    ⟨by decide +kernel, fun _ _ => ⟨peerPacket rfl ⟨⟨rfl, rfl⟩, rfl, two_ne⟩, rfl, rfl⟩⟩,
    fun l es h => absurd h (by rintro ⟨⟩),
    ?_, by decide, fun x => ⟨rfl, rfl, rfl, rfl, rfl⟩, by decide, by decide, by decide, by decide,
    by decide +kernel, by decide +kernel, by decide⟩
  intro t ht f
  simp only [List.mem_cons, List.not_mem_nil, or_false] at ht
  rcases ht with rfl | rfl | rfl | rfl <;> exact ⟨settle_of_empty rfl, peerPacket rfl ⟨⟨rfl, rfl⟩, rfl, two_ne⟩,
    peerPacket rfl ⟨⟨rfl, rfl⟩, rfl, two_ne⟩, rfl, rfl⟩

/-- An ALERT of id (2, `serial`) for the frame `start`, with an update for frame 1,007 or without one. -/
def alertBody (unit serial : Byte) (start : FrameNo) (update : Bool) : List Byte :=
  [unit, serial, 1, 70, 0, 16, if update then 2 else 0] ++ be24 start ++ [1, 65] ++
    if update then [2, 70, 0] ++ be24 1007 ++ [1, 66] else []

def recordOf (serial : Byte) (update : Option AlertUpdate) : AlertRecord :=
  ⟨⟨2, serial⟩, ⟨1, 70, false, [65]⟩, 16, 1005, update, none, none, false, .waiting⟩

def tabled (t : List AlertRecord) : State := { air with alc := { air.alc with table := t } }

def updated : Option AlertUpdate := some ⟨1007, 2, 70, false, [66]⟩

/-- A full table whose worst record has urgency `n`, whose own alert, if it is the worst, is in state `x`. -/
def fullTable (n : Nat) (x : LocalState) : State :=
  { air with alc := { air.alc with
      table := [recordOf 1 none, recordOf 2 none, recordOf 3 none,
                { recordOf 4 none with base := ⟨n, 70, false, [65]⟩ }]
      localAlert := ⟨x, some ⟨2, 4⟩, some 1005, none⟩ } }

/-- A new id with urgency 1 against a worst record of urgency 1 and of 2, which is the own alert or not; an update for
frame 1,007, and for a frame that is not beyond now + L. -/
theorem test_witness_AlertTableFull :
    (∀ n x, settle (fullTable n x) = fullTable n x ∧
      PeerPacket .alert (packet 2 7 (alertBody 2 9 1005 false)) 2 (fullTable n x) ∧
      (let q := noted (packet 2 7 (alertBody 2 9 1005 false)) 2 (fullTable n x)
       q.alc.table.length = 4 ∧ q.alc.localAlert = ⟨x, some ⟨2, 4⟩, some 1005, none⟩ ∧ q.pvw.unit = .onAir ∧
       q.ftu.now = some 1000 ∧ q.lkp.queue.length < 64 ∧
       (acceptedRecord (parseAlert (alertBody 2 9 1005 false)) q).base.urgency = 1)) ∧
    (∀ n ∈ [1, 2], let t := (fullTable n .on).alc.table
      ∃ w, worstRecord (some 1000) t = some w ∧ w = { recordOf 4 none with base := ⟨n, 70, false, [65]⟩ } ∧
        (valuesNow w (some 1000)).urgency = n ∧ w.start = 1005 ∧ (∀ y ∈ t, (y.start - 1005).toNat < 8388608)) ∧
    later 1005 1005 = false ∧ ¬((2 : Byte).toNat < (2 : Byte).toNat) ∧ ¬((9 : Byte).toNat < (4 : Byte).toNat) ∧
    later 1007 (plus 1000 4) = true ∧ later 1004 (plus 1000 4) = false :=
  ⟨fun _ _ => ⟨settle_of_empty rfl, peerPacket rfl ⟨⟨rfl, rfl⟩, rfl, two_ne⟩, rfl, rfl, rfl, rfl, (by decide : 0 < 64), rfl⟩,
    fun n hn => ⟨{ recordOf 4 none with base := ⟨n, 70, false, [65]⟩ }, by
      simp only [List.mem_cons, List.not_mem_nil, or_false] at hn
      rcases hn with rfl | rfl <;> exact ⟨rfl, rfl, rfl, rfl, by decide⟩⟩,
    by decide, by decide, by decide, by decide, by decide⟩

theorem test_witness_AlertOutcome :
    (∀ t ∈ [inState .clash, air, tabled [recordOf 1 none, recordOf 2 none, recordOf 3 none], tabled [recordOf 9 updated]],
      ∀ b ∈ [alertBody 3 9 1005 false, alertBody 2 9 1004 false, alertBody 2 9 1005 false, alertBody 2 9 1005 true],
        settle t = t ∧ PeerPacket .alert (packet 2 7 b) 2 t ∧ (packet 2 7 b).bodyCheck = crc32 (packet 2 7 b).body ∧
        alertHolds b = true) ∧
    (let q (t : State) := noted (packet 2 7 (alertBody 2 9 1005 false)) 2 t
     let three := q (tabled [recordOf 1 none, recordOf 2 none, recordOf 3 none])
     (q (inState .clash)).pvw.unit.viewing = false ∧ three.pvw.unit.viewing = true ∧ three.pvw.unit = .onAir ∧
     three.ftu.now = some 1000 ∧ leadOf three = 4 ∧
     (∀ x ∈ three.alc.table, x.id ≠ (parseAlert (alertBody 2 9 1005 false)).id) ∧ three.alc.table.length < 4 ∧
     (q (tabled [recordOf 9 updated])).alc.table.find? (fun y => y.id = ⟨2, 9⟩) = some (recordOf 9 updated)) ∧
    (parseAlert (alertBody 3 9 1005 false)).id.unit.toNat ≠ (2 : UnitId).val ∧
    (parseAlert (alertBody 2 9 1004 false)).id = ⟨2, 9⟩ ∧ (2 : Byte).toNat = (2 : UnitId).val ∧
    later (parseAlert (alertBody 2 9 1004 false)).start (plus 1000 4) = false ∧
    later (parseAlert (alertBody 2 9 1005 false)).start (plus 1000 4) = true ∧
    (parseAlert (alertBody 2 9 1005 false)).update = none ∧ (parseAlert (alertBody 2 9 1005 true)).update = updated := by
  refine ⟨?_, by decide +kernel, by decide, by decide, by decide, by decide, by decide, by decide, by decide⟩
  intro t ht b hb
  simp only [List.mem_cons, List.not_mem_nil, or_false] at ht hb
  rcases ht with rfl | rfl | rfl | rfl <;> rcases hb with rfl | rfl | rfl | rfl <;>
    exact ⟨settle_of_empty rfl, peerPacket rfl ⟨⟨rfl, rfl⟩, rfl, two_ne⟩, rfl, rfl⟩

theorem test_witness_AlertEndOutcome :
    (∀ x : Option FrameNo, ∀ t ∈ [inState .clash, air, tabled ([] ++ { recordOf 9 none with receivedEnd := x } :: [])],
      ∀ b ∈ [[3, 9] ++ be24 1005, [2, 9] ++ be24 1004, [2, 9] ++ be24 1005],
        settle t = t ∧ PeerPacket .alertEnd (packet 2 7 b) 2 t ∧
        (packet 2 7 b).bodyCheck = crc32 (packet 2 7 b).body) ∧
    (let q (t : State) := noted (packet 2 7 ([2, 9] ++ be24 1005)) 2 t
     (q (inState .clash)).pvw.unit.viewing = false ∧ (q air).pvw.unit.viewing = true ∧ (q air).alc.table = [] ∧
     ∀ x, let y : AlertRecord := { recordOf 9 none with receivedEnd := x }
       let s := q (tabled ([] ++ y :: []))
       s.pvw.unit.viewing = true ∧ s.alc.table = [] ++ y :: [] ∧ y.id = ⟨2, 9⟩ ∧ y.receivedEnd = x ∧
       s.ftu.now = some 1000) ∧
    alertIdAt ([3, 9] ++ be24 1005) 0 = ⟨3, 9⟩ ∧ (3 : Byte).toNat ≠ (2 : UnitId).val ∧
    alertIdAt ([2, 9] ++ be24 1004) 0 = ⟨2, 9⟩ ∧ alertIdAt ([2, 9] ++ be24 1005) 0 = ⟨2, 9⟩ := by
  refine ⟨?_, ⟨rfl, rfl, rfl, fun x => ⟨rfl, rfl, rfl, rfl, rfl⟩⟩, by decide, by decide, by decide, by decide⟩
  intro x t ht b hb
  simp only [List.mem_cons, List.not_mem_nil, or_false] at ht hb
  rcases ht with rfl | rfl | rfl <;> rcases hb with rfl | rfl | rfl <;>
    exact ⟨settle_of_empty rfl, peerPacket rfl ⟨⟨rfl, rfl⟩, rfl, two_ne⟩, rfl⟩

/-! ### Witnesses: the feeds -/

/-- Port `p` as `x` makes it. -/
def withPort (p : PortId) (x : Port) : State :=
  { air with sin := { air.sin with ports := air.sin.ports.set p x } }

/-- A FILL packet with a good check. -/
def fillPacket : List Byte := [0xB7, 0x4E, 0x0F, 0, 0] ++ be16 (crc16 [0x0F, 0, 0])

/-- Ports 0 (MAIN), 1 (BACKUP) and 2 (ALERT) in each state. What may stand before a sync pair: bytes without one, the
first sync byte last, where the port scans; idle fill where a packet is expected. A length of 1,921, a body that ends
early, a check that fails; the first sync byte alone; the second failure and the third. -/
theorem test_witness_FeedReceiverOutcome :
    (∀ p x, settle (withPort p x) = withPort p x ∧ (withPort p x).pvw.unit.running = true ∧
      (withPort p x).sin.ports[p] = x) ∧
    roleOf (withPort 0 .reset) 0 = .main 0 ∧ roleOf (withPort 1 .reset) 1 = .backup 0 ∧
    roleOf (withPort 2 .reset) 2 = .alert ∧ (∀ k, PortRole.backup 0 ≠ .main k) ∧
    (let f : List Byte := [0xB7, 0x4E] ++ [0x0F, 0x07, 0x81]
     1920 < beNat (slice f 3 2)) ∧
    (let f : List Byte := [0xB7, 0x4E] ++ [0x0F, 0x07, 0x80]
     ¬1920 < beNat (slice f 3 2) ∧ f.length < 7 + beNat (slice f 3 2)) ∧
    (let f : List Byte := [0xB7, 0x4E] ++ [0x0F, 0, 0, 0, 0]
     ¬f.length < 7 + beNat (slice f 3 2) ∧ half f (5 + 0) ≠ crc16 (slice f 2 (3 + 0))) ∧
    (0xB7 : Byte) ≠ 0xFF ∧ hasFeedSync [0xB7, 0x4F] = false ∧ (∀ b ∈ ([0xFF, 0xFF] : List Byte), b = 0xFF) ∧
    NoPair 0xB7 0x4E [0x4E, 0xB7] ∧
    (∀ s : PortState, s = .hunt ∨ s = .lost → feedLead { Port.reset with state := s } [0x4E, 0xB7]) ∧
    feedLead { Port.reset with huntCount := 1 } [0xFF, 0xFF] ∧
    Port.reset.state = .hunt ∧ Port.reset.huntCount = 0 ∧ 1 ≤ ({ Port.reset with huntCount := 1 } : Port).huntCount ∧
    (∀ n, let x : Port := { Port.reset with state := .locked, failures := n, nextKnown := true }
      x.state = .locked ∧ x.failures = n ∧ x.nextKnown = true ∧ feedLead x [0xFF, 0xFF] ∧
        feedLead { x with nextKnown := false } [0x4E, 0xB7]) ∧
    ({ Port.reset with state := .disabled } : Port).state = .disabled ∧ State.reset.pvw.unit.running = false ∧
    (∀ f, feedKindOf 0x0A = some f → f.lengthOk 1920 = false) ∧
    (∀ f, feedKindOf 0x03 = some f → f.lengthOk 0 = false) := by
  refine ⟨fun p x => ⟨settle_of_empty rfl, rfl, by simp [withPort]⟩, rfl, rfl, rfl, by simp, by decide, by decide,
    by decide +kernel, by decide, by decide, by decide, noPair_of_seek rfl, ?_, by show ∀ b ∈ _, _; decide, rfl, rfl,
    by decide, fun _ => ⟨rfl, rfl, rfl, by show ∀ b ∈ _, _; decide, noPair_of_seek rfl⟩, rfl, rfl, ?_, ?_⟩
  · rintro s (rfl | rfl) <;> exact noPair_of_seek rfl
  all_goals intro f hf; cases hf <;> rfl

/-- R105: a sync pair further in takes a LOST port to HUNT. R103: the packet behind a missing sync is taken. -/
theorem test_scan_finds_the_pair :
    (feedHunt 0 [0x00, 0xB7, 0x4E] (withPort 0 { Port.reset with state := .lost })).sin.ports[(0 : PortId)].state
      = .hunt ∧
    (let x := (feedFail 0 ([0x00] ++ fillPacket)
       (withPort 0 { Port.reset with state := .locked, nextKnown := true })).sin.ports[(0 : PortId)]
     x.state = .locked ∧ x.counters.failed = 1 ∧ x.failures = 0 ∧ x.nextKnown = true) := by decide +kernel

/-- R102: a packet whose body is a packet counts; the byte behind it is no sync byte, so scanning goes back behind its
pair, where the packet in its body counts; what follows that one is no sync byte either. -/
theorem test_broken_hunt_scans_again :
    let core : List Byte := [0x0F, 0, 7] ++ fillPacket
    let x := (feedHunt 0 ([0xB7, 0x4E] ++ core ++ be16 (crc16 core) ++ [0x00]) (withPort 0 .reset)).sin.ports[(0 : PortId)]
    x.counters.huntDiscards = 2 ∧ x.huntCount = 0 ∧ x.state = .hunt := by decide +kernel

/-- Queues with 15 and with 16 units at port 0 and at the ALERT port, whose alert is ON or not. -/
def queuedUnits (n : Nat) (x : LocalState) : State :=
  let u : List (List Byte) := List.replicate n []
  { air with
    sin := { air.sin with
      services := air.sin.services.set 0 { Intake.reset with queue := u }, alertQueue := u }
    alc := { air.alc with localAlert := { air.alc.localAlert with state := x } } }

theorem test_witness_AudioOutcome :
    (∀ n x, settle (queuedUnits n x) = queuedUnits n x ∧
      (∀ m, m ≤ 1920 → FeedTaken .audio 0 (List.replicate m 0) (queuedUnits n x) ∧
        FeedTaken .audio 2 (List.replicate m 0) (queuedUnits n x)) ∧
      FeedsService 0 0 (queuedUnits n x) ∧ serviceDef (queuedUnits n x) 0 = some ⟨0x0101, 0, 128, 16, 1, 2, [65], 1⟩ ∧
      ((queuedUnits n x).sin.services[(0 : ServiceIx)]).queue.length = n ∧
      (queuedUnits n x).cfl.image = some held ∧ (queuedUnits n x).sin.alertQueue.length = n ∧
      (queuedUnits n x).alc.localAlert.state = x) ∧
    (List.replicate 640 (0 : Byte)).length = 5 * 128 ∧ (List.replicate 639 (0 : Byte)).length ≠ 5 * 128 ∧
    held.roles[(2 : PortId)] = .alert ∧ held.alertAudioRate ≠ 0 ∧
    (List.replicate 320 (0 : Byte)).length = 5 * held.alertAudioRate := by
  refine ⟨fun n x => ⟨settle_of_empty rfl, fun m hm => ⟨⟨rfl, rfl, ?_, rfl⟩, ⟨rfl, rfl, ?_, rfl⟩⟩, .inl rfl, rfl, ?_, rfl,
    by simp [queuedUnits], rfl⟩, ?_, ?_, rfl, by decide, ?_⟩
  · simpa [FeedKind.lengthOk] using hm
  · simpa [FeedKind.lengthOk] using hm
  · show (List.replicate n ([] : List Byte)).length = n; simp
  · rw [List.length_replicate]
  · rw [List.length_replicate]; decide
  · rw [List.length_replicate]; rfl

/-- The carousel of service 0 with slot 7 as `x` and the transmission `t`. -/
def withText (x : TextSlot) (t : Option TextTurn) : State :=
  { air with txc := { air.txc with
      carousels := air.txc.carousels.set 0
        { Carousel.reset .zero with slots := (Carousel.reset .zero).slots.set 7 x, current := t } } }

def keyed (key : Nat) : TextSlot := { TextSlot.empty false with state := .active, text := [65], key := key }

/-- Port 0 has key 5: slot 8; slot 7 empty, under key 4 or key 5, in transmission or not. -/
theorem test_witness_TextPacketsOutcome :
    (∀ x t, settle (withText x t) = withText x t ∧
      FeedTaken .textSet 0 [8, 0, 251, 0, 1, 65] (withText x t) ∧
      FeedTaken .textSet 0 [7, 0, 251, 0, 1, 65] (withText x t) ∧ FeedTaken .textClear 0 [8] (withText x t) ∧
      FeedTaken .textClear 0 [7] (withText x t) ∧ FeedsService 0 0 (withText x t) ∧ keyOf (withText x t) 0 = 5 ∧
      ((withText x t).txc.carousels[(0 : ServiceIx)]).slots[(7 : SlotIx)] = x ∧
      ((withText x t).txc.carousels[(0 : ServiceIx)]).current = t) ∧
    7 < (8 : Byte).toNat ∧ (7 : Byte).toNat = (7 : SlotIx).val ∧ (TextSlot.empty true).state = .empty ∧
    (keyed 4).state ≠ .empty ∧ 5 ≠ (keyed 4).key ∧ 5 = (keyed 5).key :=
  ⟨fun _ _ => ⟨settle_of_empty rfl, feedTaken rfl, feedTaken rfl, feedTaken rfl, feedTaken rfl, .inl rfl, rfl, rfl, rfl⟩,
    by decide, by decide, rfl, by decide, by decide, rfl⟩

/-- A picture object 0x1234 of service 0. -/
def object (state : PicState) (port : PortId) (key size received : Nat) (pages : List Nat) : PicRecord :=
  ⟨0x1234, 0, key, port, size, pages, received, 0xFFFF, 0, 0, 0, 0, 0, 0, 0, state, false⟩

def pictured (t : List PicRecord) : State := { air with pic := { air.pic with table := t } }

theorem free_pages_above (n : Nat) :
    freePages [object .ready 0 5 3 3 (List.range n)] = (List.range 384).filter (fun p => decide (n ≤ p)) := by
  refine congrArg (fun f => List.filter f _) (funext fun p => ?_)
  simp only [usedPages, object, List.flatMap_cons, List.flatMap_nil, List.append_nil, List.contains_eq_mem, List.mem_range]
  by_cases h : p < n <;> simp [h, Nat.not_le.2, Nat.not_lt.1]

/-- A size of 0, of 65,521, of 65,520 and of 1; a held object under key 4 or 5; 128 free pages, or 31
records; 127 free pages, or 32 records. -/
theorem test_witness_PictureBeginAndDeleteOutcome :
    (∀ t, settle (pictured t) = pictured t ∧ (pictured t).pic.table = t ∧ FeedsService 0 0 (pictured t) ∧
      (∀ a b, FeedTaken .picBegin 0 [0x12, 0x34, a, b, 0, 0, 0, 0] (pictured t)) ∧
      FeedTaken .picDelete 0 [0x12, 0x34] (pictured t) ∧ keyOf (pictured t) 0 = 5) ∧
    (let size (a b : Byte) := beNat (slice [0x12, 0x34, a, b, 0, 0, 0, 0] 2 2)
     size 0 0 = 0 ∧ 65520 < size 0xFF 0xF1 ∧ size 0xFF 0xF0 = 65520 ∧ size 0 1 = 1 ∧ (65520 + 511) / 512 = 128) ∧
    (∀ k, findObject 0 0x1234 (pictured [object .ready 0 k 3 3 [0]]) = some (object .ready 0 k 3 3 [0]) ∧
      (object .ready 0 k 3 3 [0]).key = k) ∧ 5 ≠ 0 ∧ 5 ≠ 4 ∧
    (freePages [object .ready 0 5 3 3 (List.range 256)]).length = 128 ∧
    (freePages (List.replicate 31 (object .ready 0 5 3 3 []))).length = 384 ∧
    (freePages [object .ready 0 5 3 3 (List.range 257)]).length = 127 ∧
    32 ≤ (List.replicate 32 (object .ready 0 5 3 3 [0])).length :=
  ⟨fun _ => ⟨settle_of_empty rfl, rfl, .inl rfl, fun _ _ => feedTaken rfl, feedTaken rfl, rfl⟩, by decide,
    fun _ => ⟨rfl, rfl⟩, by decide, by decide, by rw [free_pages_above]; decide +kernel, by decide +kernel,
    by rw [free_pages_above]; decide +kernel, by simp⟩

/-- 2 bytes received: the third at offset 2 of an object of 3 bytes, or of 2; at offset 3; of another port's load. -/
theorem test_witness_PictureDataOutcome :
    (∀ x, settle (pictured x) = pictured x ∧ (pictured x).pic.table = x ∧ MemorySound (pictured x) ∧
      FeedTaken .picData 0 [0x12, 0x34, 0, 2, 9] (pictured x) ∧ FeedTaken .picData 0 [0x12, 0x34, 0, 3, 9] (pictured x) ∧
      FeedsService 0 0 (pictured x)) ∧
    findObject 0 0x1234 (pictured []) = none ∧
    (∀ s p n, let x := object s p 5 n 2 [7]
      findObject 0 0x1234 (pictured ([] ++ x :: [])) = some x ∧ x.service = 0 ∧ x.id = half [0x12, 0x34, 0, 2, 9] 0 ∧
      x.state = s ∧ x.port = p ∧ x.received = 2 ∧ x.size = n ∧ x.pages = [7]) ∧
    beNat (slice [0x12, 0x34, 0, 2, 9] 2 2) = 2 ∧ beNat (slice [0x12, 0x34, 0, 3, 9] 2 2) ≠ 2 ∧
    2 + ([0x12, 0x34, 0, 2, 9].drop 4 : List Byte).length = 3 ∧ 2 < 3 ∧ [7].Nodup ∧ 3 ≤ 512 * [7].length ∧
    PicState.ready ≠ .loading ∧ (1 : PortId) ≠ 0 :=
  ⟨fun _ => ⟨settle_of_empty rfl, rfl, rfl, feedTaken rfl, feedTaken rfl, .inl rfl⟩, rfl,
    fun _ _ _ => ⟨rfl, rfl, rfl, rfl, rfl, rfl, rfl, rfl⟩, by decide, by decide, by decide, by decide, by decide, by decide,
    by decide, by decide⟩

theorem test_witness_PictureEndOutcome :
    (∀ x, settle (pictured x) = pictured x ∧ (pictured x).pic.table = x ∧ FeedsService 0 0 (pictured x) ∧
      FeedTaken .picEnd 0 [0x12, 0x34, 0xFF, 0xFF] (pictured x) ∧ FeedTaken .picEnd 0 [0x12, 0x34, 0xFF, 0xFE] (pictured x)) ∧
    findObject 0 0x1234 (pictured []) = none ∧
    (∀ s p n, let x := object s p 5 3 n [7]
      findObject 0 0x1234 (pictured ([] ++ x :: [])) = some x ∧ x.service = 0 ∧ x.id = half [0x12, 0x34, 0xFF, 0xFF] 0 ∧
      x.state = s ∧ x.port = p ∧ x.received = n ∧ x.size = 3 ∧ x.crc = half [0x12, 0x34, 0xFF, 0xFF] 2 ∧
      x.crc ≠ half [0x12, 0x34, 0xFF, 0xFE] 2) ∧ PicState.ready ≠ .loading ∧ (1 : PortId) ≠ 0 ∧ 2 ≠ 3 :=
  ⟨fun _ => ⟨settle_of_empty rfl, rfl, .inl rfl, feedTaken rfl, feedTaken rfl⟩, rfl,
    fun _ _ _ => ⟨rfl, rfl, rfl, rfl, rfl, rfl, rfl, rfl, (by decide : (0xFFFF : BitVec 16) ≠ half [0x12, 0x34, 0xFF, 0xFE] 2)⟩,
    by decide, by decide, by decide⟩

/-- The same unit on another image. -/
def onImage (i : Image) : State := { air with cfl := { air.cfl with image := some i } }

theorem test_witness_AlertFeedOutcome :
    ∀ b, let i := { held with feedAlert := b }
      settle (onImage i) = onImage i ∧ FeedTaken .alertReq 2 [4, 70, 65] (onImage i) ∧
      FeedTaken .alertClear 2 [] (onImage i) ∧ (onImage i).cfl.image = some i ∧ i.roles[(2 : PortId)] = .alert ∧
      i.feedAlert = b :=
  fun _ => ⟨settle_of_empty rfl, feedTaken rfl, feedTaken rfl, rfl, rfl, rfl⟩

/-- Standby at the BACKUP port of a service on its MAIN port; text at the ALERT port and an alert at a MAIN port. -/
theorem test_witness_FillStandbyMisplacedOutcome :
    settle air = air ∧ air.pvw.unit.running = true ∧ air.sin.ports[(1 : PortId)].state = .locked ∧
    FeedKind.textClear.lengthOk 1 = true ∧ inUse air 1 = false ∧ FeedTaken .fill 0 [] air ∧
    FeedTaken .textClear 2 [0] air ∧ roleOf air 2 = .alert ∧ FeedTaken .alertClear 0 [] air ∧ FeedsService 0 0 air ∧
    settle State.reset = State.reset ∧ State.reset.pvw.unit = .loading ∧
    settle (inState .halted) = inState .halted ∧ (inState .halted).pvw.unit = .halted ∧
    (let x : Port := { Port.reset with state := .disabled }
     settle (withPort 3 x) = withPort 3 x ∧ (withPort 3 x).sin.ports[(3 : PortId)].state = .disabled) :=
  ⟨settle_of_empty rfl, rfl, rfl, rfl, rfl, feedTaken rfl, feedTaken rfl, rfl, feedTaken rfl, .inl rfl,
    settle_of_empty rfl, rfl, settle_of_empty rfl, rfl, settle_of_empty rfl, rfl⟩

/-- Service 0 as `x` makes it. -/
def withService (x : Intake) : State :=
  { air with sin := { air.sin with services := air.sin.services.set 0 x } }

theorem test_witness_FeedEventsOutcome :
    (∀ p st, let x : Port := { Port.reset with state := st, idleCount := 8 }
      let t := withPort p x
      EventTurn (.feedLost p) (atEvent (.feedLost p) t) t [] ∧ t.pvw.unit.running = true ∧ t.sin.ports[p] = x) ∧
    roleOf (withPort 0 .reset) 0 ≠ .alert ∧ roleOf (withPort 2 .reset) 2 = .alert ∧
    (∀ x, let t := withService x
      EventTurn (.feedSwitch 0) (atEvent (.feedSwitch 0) t) t [] ∧
      EventTurn (.feedRevert 0) (atEvent (.feedRevert 0) t) t [] ∧ t.pvw.unit.running = true ∧
      t.sin.services[(0 : ServiceIx)] = x ∧ backupPort t 0 = some 1 ∧ mainPort t 0 = some 0 ∧
      t.sin.ports[(0 : PortId)].state = .locked ∧ t.sin.ports[(1 : PortId)].state = .locked) ∧
    (let x : Intake := { Intake.reset with mainDown := 8 }
     x.selection = .onMain ∧ x.mainDown = 8) ∧
    (let x : Intake := { Intake.reset with selection := .onBackup, mainUp := 125 }
     x.selection = .onBackup ∧ x.mainUp = 125) ∧
    (let x : Intake := { Intake.reset with selection := .onBackup, backupDown := 8 }
     x.selection = .onBackup ∧ x.backupDown = 8) :=
  ⟨fun _ _ => ⟨atEvent_turn _ _ rfl, rfl, by simp [withPort]⟩, by decide, rfl,
    fun _ => ⟨atEvent_turn _ _ rfl, atEvent_turn _ _ rfl, rfl, rfl, rfl, rfl, rfl, rfl⟩, ⟨rfl, rfl⟩, ⟨rfl, rfl⟩, rfl, rfl⟩

theorem test_witness_ContentEventsOutcome :
    (∀ u, let x : TextSlot := { keyed 5 with lifetime := 1 }
      let t := withText x u
      EventTurn (.textExpiry 0 7) (atEvent (.textExpiry 0 7) t) t [] ∧
      (t.txc.carousels[(0 : ServiceIx)]).slots[(7 : SlotIx)] = x ∧ x.state = .active ∧ x.lifetime ≠ 0 ∧
      x.remaining = 0 ∧ (t.txc.carousels[(0 : ServiceIx)]).current = u) ∧
    (∀ n, (none : Option TextTurn) ≠ some ⟨7, n⟩) ∧
    (∀ s n, let x : PicRecord := { object s 0 5 3 3 [7] with idle := 250, lifetime := n }
      let t := pictured ([] ++ x :: [])
      EventTurn (.pictureLoadTimeout 0 0x1234) (atEvent (.pictureLoadTimeout 0 0x1234) t) t [] ∧
      EventTurn (.pictureExpiry 0 0x1234) (atEvent (.pictureExpiry 0 0x1234) t) t [] ∧
      findObject 0 0x1234 t = some x ∧ x.state = s ∧ x.idle = 250 ∧ t.pic.table = [] ++ x :: [] ∧ x.service = 0 ∧
      x.id = 0x1234 ∧ x.lifetime = n ∧ x.remaining = 0 ∧ x.expiring = false) ∧ 1 ≠ 0 :=
  ⟨fun _ => ⟨atEvent_turn _ _ rfl, rfl, rfl, by decide, rfl, rfl⟩, by simp,
    fun _ _ => ⟨atEvent_turn _ _ rfl, atEvent_turn _ _ rfl, rfl, rfl, rfl, rfl, rfl, rfl, rfl, rfl, rfl⟩, by decide⟩

/-- The layout of 1,004 with a service entry of unit 5, placed or not, and with that of another unit alone. -/
def ownEntry (owner : UnitId) (p : Placement) : LayoutEntry :=
  ⟨owner, 0x0101, [], 8, 4, 1, 1, 4, 1, 0, 4, p, false, false⟩

def charted (es : List LayoutEntry) : State :=
  { air with ple := { air.ple with chain := [(1004, ⟨none, es, 1, 4, 0⟩)], last := some 1004 } }

theorem charted_layout (es : List LayoutEntry) : layoutAt (charted es).ple 1004 = some ⟨none, es, 1, 4, 0⟩ := by
  simp [charted, layoutAt, chainPair, covers]; decide

theorem test_witness_ProductionNotice :
    (∀ u p, let t := charted [ownEntry u p]
     t.ftu.now = some 1000 ∧ (∃ d, serviceDef t 0 = some d ∧ d.id = 0x0101) ∧
     layoutAt t.ple (plus 1000 (leadOf t)) = some ⟨none, [ownEntry u p], 1, 4, 0⟩ ∧ (ownEntry u p).id = 0x0101 ∧
     (ownEntry u p).owner = u) ∧
    selfOf air = 5 ∧ layoutAt air.ple (plus 1000 (leadOf air)) = none :=
  ⟨fun _ _ => ⟨rfl, ⟨_, rfl, rfl⟩, charted_layout _, rfl, rfl⟩, rfl, rfl⟩

/-! ### Witnesses: alerts -/

/-- The alert lines at levels `h`, the EDGE line AL0 and the LEVEL line AL1 with mark `b`. -/
def lined (h b : Bool) : State :=
  { air with
    lines := Vector.replicate 2 h
    alc := { air.alc with sources := { air.alc.sources with al1 := { Source.reset with raised := b } } } }

theorem test_witness_AlertLineOutcome :
    (∀ h b, settle (lined h b) = lined h b ∧ (lined h b).cfl.image = some held ∧ (lined h b).pvw.unit.running = true ∧
      (lined h b).lines[(0 : LineIx)] = h ∧ ((lined h b).alc.sources.get (lineSource 1)).raised = b) ∧
    (∀ l : LineIx, held.lines[l].enabled = true ∧ held.lines[l].activeHigh = true) ∧
    held.lines[(0 : LineIx)].mode = .edge ∧ held.lines[(1 : LineIx)].mode = .level ∧
    settle State.reset = State.reset ∧ State.reset.pvw.unit.running = false ∧
    (let i := { held with lines := held.lines.set 0 { lineIn .edge with enabled := false } }
     settle (onImage i) = onImage i ∧ (onImage i).cfl.image = some i ∧ i.lines[(0 : LineIx)].enabled = false) :=
  ⟨fun _ _ => ⟨settle_of_empty rfl, rfl, rfl, rfl, rfl⟩, by decide, rfl, rfl, settle_of_empty rfl, rfl,
    settle_of_empty rfl, rfl, rfl⟩

/-- The own alert in state `st`, with start `a` and end `b`. -/
def alerting (st : LocalState) (a : FrameNo) (b : Option FrameNo) : State :=
  { air with alc := { air.alc with
      localAlert := ⟨st, some ⟨5, 1⟩, some a, b⟩, repeatCount := 4, table := [{ recordOf 1 none with id := ⟨5, 1⟩ }] } }

/-- Each at the very frame, 1,000. -/
theorem test_witness_AlertRecordEventsOutcome :
    (let t := alerting .announced 1000 none
     EventTurn .localAlertOn (atEvent .localAlertOn t) t [] ∧ t.alc.localAlert.state = .announced ∧
     t.alc.localAlert.start = some 1000 ∧ t.ftu.now = some 1000) ∧
    (let t := alerting .ending 900 (some 1000)
     EventTurn .localAlertIdle (atEvent .localAlertIdle t) t [] ∧ t.alc.localAlert.state = .ending ∧
     t.alc.localAlert.stop = some 1000 ∧ t.ftu.now = some 1000) ∧
    (∀ e : Option EndFrame, let x := { recordOf 9 none with start := 1000, stop := e }
     let t := tabled ([] ++ x :: [])
     EventTurn (.alertRecordStart ⟨2, 9⟩) (atEvent (.alertRecordStart ⟨2, 9⟩) t) t [] ∧
     EventTurn (.alertRecordEnded ⟨2, 9⟩) (atEvent (.alertRecordEnded ⟨2, 9⟩) t) t [] ∧ t.pvw.unit.viewing = true ∧
     t.alc.table = [] ++ x :: [] ∧ x.id = ⟨2, 9⟩ ∧ x.state = .waiting ∧ x.stop = e ∧ x.start = 1000 ∧
     t.ftu.now = some 1000) ∧ later 1000 1000 = false :=
  ⟨⟨atEvent_turn _ _ rfl, rfl, rfl, rfl⟩, ⟨atEvent_turn _ _ rfl, rfl, rfl, rfl⟩,
    fun _ => ⟨atEvent_turn _ _ rfl, atEvent_turn _ _ rfl, rfl, rfl, rfl, rfl, rfl, rfl, rfl⟩, by decide⟩

/-- A duration limit of 1 s reached at 1,000 by an alert that began at 975. -/
theorem test_witness_OwnAlertPacketsOutcome :
    (∀ st a b, let t := alerting st a b
      EventTurn .alertDurationLimit (atEvent .alertDurationLimit t) t [] ∧
      EventTurn .alertRepeat (atEvent .alertRepeat t) t [] ∧ t.ftu.now = some 1000 ∧ t.cfl.image = some held ∧
      t.alc.localAlert.state = st ∧ t.alc.localAlert.start = some a ∧ t.alc.localAlert.id = some ⟨5, 1⟩ ∧
      t.alc.localAlert.stop = b ∧ t.progress.alertSent = false ∧ t.alc.repeatCount = 4 ∧
      ownRecord t = some { recordOf 1 none with id := ⟨5, 1⟩ } ∧
      t.alc.table = [] ++ { recordOf 1 none with id := ⟨5, 1⟩ } :: [] ∧ t.pvw.unit.viewing = true ∧
      t.lkp.queue.length < 64) ∧
    1 ≤ held.durationLimit ∧ held.lines[0].mode = .edge ∧ later (plus 975 (25 * held.durationLimit)) 1000 = false :=
  ⟨fun _ _ _ => ⟨atEvent_turn _ _ rfl, atEvent_turn _ _ rfl, rfl, rfl, rfl, rfl, rfl, rfl, rfl, rfl, rfl, rfl, rfl,
    (by decide : 0 < 64)⟩, by decide, rfl, by decide⟩

/-- A unit ON_AIR with no alert, TEST and AL0 pending, its table full of `x` or empty. -/
def pendingAt (x : List AlertRecord) : State :=
  { air with alc := { air.alc with
      table := x
      sources := { air.alc.sources with
        al0 := { Source.reset with raised := true }
        test := { Source.reset with raised := true, values := some ⟨3, 0, [84]⟩ } } } }

/-- The own alert under way in state `st`, TEST carried, its update `w`, and AL0 pending or nothing. -/
def underWay (st : LocalState) (w : Option AlertUpdate) (b : Bool) : State :=
  let t := alerting st 1000 none
  { t with alc := { t.alc with
      table := [{ recordOf 1 w with id := ⟨5, 1⟩, base := ⟨3, 70, true, [65]⟩ }]
      stopMark := true
      sources := { t.alc.sources with
        al0 := { Source.reset with raised := b }, test := { Source.reset with carried := true, raised := true } } } }

/-- Stop and sources with an alert under way and with none; an origination that wins with AL0, with room and against a
full table it does not rank above; an escalation of a test by AL0, none pending, and an update still ahead. -/
theorem test_witness_OwnAlertTests :
    (∀ x, (pendingAt x).ftu.now = some 1000 ∧ (pendingAt x).alc.localAlert.state = .idle ∧
      (pendingAt x).pvw.unit = .onAir ∧ (pendingAt x).alc.table = x ∧
      winner (pendingSources (pendingAt x)) = some (.al0, ⟨2, 3, [70]⟩)) ∧
    pendingSources air = [] ∧ ([] : List AlertRecord).length < 4 ∧
    (let w := recordOf 1 none
     worstRecord (some 1000) [w, w, w, w] = some w ∧ ∀ x : AlertRecord, x.base.urgency = 2 →
      ranksAbove (some 1000) x w = false) ∧
    (∀ st w b, let t := underWay st w b
      let x : AlertRecord := { recordOf 1 w with id := ⟨5, 1⟩, base := ⟨3, 70, true, [65]⟩ }
      t.ftu.now = some 1000 ∧ t.alc.localAlert.state = st ∧ t.alc.stopMark = true ∧ t.alc.localAlert.id = some x.id ∧
      t.alc.table = [] ++ x :: [] ∧ (t.alc.sources.get .test).carried = true ∧ (t.alc.sources.get .test).raised = true ∧
      t.pvw.unit.viewing = true ∧ t.lkp.queue.length < 64) ∧
    (air.alc.stopMark = false ∧ ∀ i, (air.alc.sources.get i).carried = false) ∧
    (let rising (t : State) := (pendingSources t).filter (fun y => y.2.urgency < 3 || (true && y.1 != .test))
     winner (rising (underWay .on none true)) = some (.al0, ⟨2, 3, [70]⟩) ∧ rising (underWay .on none false) = []) ∧
    later 1001 1000 = true :=
  ⟨fun _ => ⟨rfl, rfl, rfl, rfl, rfl⟩, rfl, by decide,
    ⟨rfl, fun x h => by simp [ranksAbove, h, valuesNow, valuesAt, recordOf]⟩,
    fun _ _ _ => ⟨rfl, rfl, rfl, rfl, rfl, rfl, rfl, rfl, (by decide : 0 < 64)⟩, ⟨rfl, fun i => by cases i <;> rfl⟩,
    ⟨rfl, rfl⟩, by decide⟩

/-- A full table whose worst record has urgency 3 gives way to AL0's urgency 2; the own port in the ALERT role, or none;
the local alert under way and idle at a repeat count of 3. -/
theorem test_witness_Eviction :
    (let w : AlertRecord := { recordOf 1 none with base := ⟨3, 70, false, [65]⟩ }
     let t := pendingAt [w, w, w, w]
     t.ftu.now = some 1000 ∧ 4 ≤ t.alc.table.length ∧ worstRecord t.ftu.now t.alc.table = some w ∧ t.lkp.queue.length < 64 ∧
     winner (pendingSources t) = some (.al0, ⟨2, 3, [70]⟩) ∧
     ∀ x : AlertRecord, x.base.urgency = 2 → ranksAbove (some 1000) x w = true) ∧
    (held.roles[(2 : PortId)] = .alert ∧ (∀ q : PortId, held.roles[q] = .alert → q = 2)) ∧
    (let i := { held with roles := Vector.replicate 6 .unused }
     (onImage i).cfl.image = some i ∧ ∀ q : PortId, i.roles[q] ≠ .alert) ∧
    (∀ n, let t : State := { alerting .on 1000 none with alc.repeatCount := n }
     t.alc.localAlert.state ≠ .idle ∧ t.progress.alertSent = false ∧ t.alc.repeatCount = n) ∧ 3 ≠ 4 ∧
    air.alc.localAlert.state = .idle :=
  ⟨⟨rfl, by decide, rfl, by decide, rfl, fun x h => by simp [ranksAbove, h, valuesNow, valuesAt, recordOf]⟩,
    ⟨rfl, by decide⟩, ⟨rfl, by decide⟩, fun _ => ⟨(by decide : LocalState.on ≠ .idle), rfl, rfl⟩, by decide, rfl⟩

/-! ### Witnesses: the supervision requests -/

def ask (code : Byte) (body : List Byte) : Request := ⟨1, code, body, true⟩

/-- A request waits. -/
def asking (u : UnitState) (code : Byte) (body : List Byte) : State :=
  { inState u with sup := { air.sup with queue := [ask code body] } }

/-- Queues of 3 and of 4. -/
theorem test_witness_RequestQueueOutcome :
    ∀ n, let s : State := { air with sup := { air.sup with queue := List.replicate n (ask 1 []) } }
      settle s = s ∧ s.sup.queue.length = n :=
  fun n => ⟨settle_of_empty rfl, by simp⟩

theorem test_witness_RequestRefusals :
    (∀ u c b, settle (asking u c b) = asking u c b ∧ (asking u c b).pvw.unit = u ∧
      (asking u c b).sup.queue = ask c b :: []) ∧ (ask 0x11 []).checkGood = true ∧ requestOf 0x11 = some .rejoin ∧
    RequestKind.rejoin.takenIn .offAir = false ∧ requestOf 6 = some .readText ∧
    RequestKind.readText.takenIn .onAir = true ∧ RequestKind.readText.lengthOk 0 = false ∧
    settle air = air ∧ ∀ k q rs, ¬Asked k q rs air := by
  refine ⟨fun _ _ _ => ⟨settle_of_empty rfl, rfl, rfl⟩, rfl, rfl, rfl, rfl, rfl, rfl, settle_of_empty rfl, ?_⟩
  rintro k q rs ⟨h, -, -⟩
  cases h

/-- Layouts of 1,000 and 1,003, computed up to 1,004: asked for 999, 1,000, 1,002, 1,004 and 1,005. -/
theorem test_witness_ReadingRequestsOutcome :
    (AnswerData.text (Carousel.reset .zero) ≠ .none ∧ (∀ v, AnswerData.text (Carousel.reset .zero) ≠ .flags v) ∧
      ∀ c f, AnswerData.text (Carousel.reset .zero) ≠ .fault c f) ∧
    (∀ l : Layout, ([((1000 : FrameNo), l)] ++ (1003, l) :: []).head? = some (1000, l)) ∧
    (later 1000 1002 = false ∧ later 1000 1000 = false ∧ later 1003 1000 = true ∧ later 1000 1004 = false) ∧
    State.reset.ple.last = none ∧
    (∀ x ∈ [(RequestKind.readStatus, (1 : Byte)), (.readCounters, 2), (.readView, 3), (.readAlerts, 5)],
      Taken x.1 (ask x.2 []) [] (asking .onAir x.2 [])) ∧
    (∀ h l, Taken .readText (ask 6 [h, l]) [] (asking .onAir 6 [h, l]) ∧
      Taken .readPictures (ask 7 [h, l]) [] (asking .onAir 7 [h, l])) ∧
    (let t : State := { asking .halted 5 [] with cfl := { air.cfl with image := none } }
     settle t = t ∧ Taken .readAlerts (ask 5 []) [] t ∧ t.cfl.image = none) ∧
    ((TextSlot.empty false).state = .empty ∧ ({ TextSlot.empty false with state := .active } : TextSlot).state ≠ .empty) ∧
    (asking .onAir 5 []).cfl.image = some held ∧
    (∀ b, b.length = 3 → let l : Layout := ⟨none, [], 0, 0, 0⟩
      let t : State := { asking .onAir 4 b with ple := { air.ple with
        chain := [(1000, l)] ++ (1003, l) :: [], last := some 1004 } }
      settle t = t ∧ Taken .readLayout (ask 4 b) [] t ∧ t.ple.last = some 1004 ∧
      t.ple.chain = [(1000, l)] ++ (1003, l) :: [] ∧ t.ple.chain = [] ++ (1000, l) :: [(1003, l)]) ∧
    (later 1002 1004 = false ∧ later 1000 1002 = false ∧ later 1003 1002 = true) ∧
    (later 1004 1004 = false ∧ later 1003 1004 = false) ∧ later 1005 1004 = true ∧
    (later 1000 999 = true ∧ later 1003 999 = true) ∧
    (∀ c b, settle (asking .onAir c b) = asking .onAir c b ∧
      serviceIx (asking .onAir c b) 0x0101 = some 0 ∧ serviceIx (asking .onAir c b) 0xFF05 = none ∧
      serviceIx (asking .onAir c b) 0x0102 = none ∧ (asking .onAir c b).cfl.image.isSome = true ∧
      0xFF05 = BitVec.ofNat 16 (0xFF00 + (selfOf (asking .onAir c b)).val) ∧
      0x0102 ≠ BitVec.ofNat 16 (0xFF00 + (selfOf (asking .onAir c b)).val)) :=
  ⟨by simp, fun _ => rfl, by decide, rfl, by
      intro x hx
      simp only [List.mem_cons, List.not_mem_nil, or_false] at hx
      rcases hx with rfl | rfl | rfl | rfl <;> exact taken ⟨rfl, rfl, rfl⟩ ⟨rfl, rfl⟩,
    fun _ _ => ⟨taken ⟨rfl, rfl, rfl⟩ ⟨rfl, rfl⟩, taken ⟨rfl, rfl, rfl⟩ ⟨rfl, rfl⟩⟩,
    ⟨settle_of_empty rfl, taken ⟨rfl, rfl, rfl⟩ ⟨rfl, rfl⟩, rfl⟩, by decide, rfl,
    fun b hb => ⟨settle_of_empty rfl, taken ⟨rfl, rfl, rfl⟩ ⟨rfl, by simp [RequestKind.lengthOk, ask, hb]⟩, rfl, rfl, rfl⟩,
    by decide, by decide, by decide, by decide,
    fun _ _ => ⟨settle_of_empty rfl, rfl, rfl, rfl, rfl, rfl, (by decide : (0x0102 : BitVec 16) ≠ 0xFF05)⟩⟩

theorem test_witness_ClearRequestsOutcome :
    settle (asking .onAir 8 [0, 0, 1]) = asking .onAir 8 [0, 0, 1] ∧ Taken .clearFlags (ask 8 [0, 0, 1]) [] (asking .onAir 8 [0, 0, 1]) ∧
    settle (asking .onAir 9 []) = asking .onAir 9 [] ∧ Taken .clearCounters (ask 9 []) [] (asking .onAir 9 []) :=
  ⟨settle_of_empty rfl, taken ⟨rfl, rfl, rfl⟩ ⟨rfl, rfl⟩, settle_of_empty rfl, taken ⟨rfl, rfl, rfl⟩ ⟨rfl, rfl⟩⟩

/-- SERVICE_OFF and SERVICE_ON of service 0x0101 and of one that is not there, with the switch OFF and ON. -/
theorem test_witness_ServiceSwitchOutcome :
    (∀ u ∈ [UnitState.listen, .joining, .onAir], ∀ on x : Bool, ∀ lo : Byte,
      let c : Byte := if on then 0x0B else 0x0A
      let t : State := { asking u c [1, lo] with pvw := { (inState u).pvw with switches := air.pvw.switches.set 0 x } }
      settle t = t ∧ Taken (if on then .serviceOn else .serviceOff) (ask c [1, lo]) [] t ∧ t.pvw.unit = u ∧
      t.ftu.now = some 1000 ∧ t.pvw.switches[(0 : ServiceIx)] = x ∧ serviceIx t (half [1, 1] 0) = some 0 ∧
      serviceIx t (half [1, 2] 0) = none ∧ t.lkp.queue.length < 64) := by
  intro u hu on x lo
  simp only [List.mem_cons, List.not_mem_nil, or_false] at hu
  rcases hu with rfl | rfl | rfl <;> cases on <;>
    exact ⟨settle_of_empty rfl, taken ⟨rfl, rfl, rfl⟩ ⟨rfl, rfl⟩, rfl, rfl, rfl, rfl, rfl, (by decide : 0 < 64)⟩

/-- Texts of 1 and of 128 bytes, and of none and of 129. -/
theorem test_witness_AlertRequestsOutcome :
    (∀ n, let t := asking .onAir 0x0C ([1, 70] ++ List.replicate n 65)
      settle t = t ∧ Taken .alertStart (ask 0x0C ([1, 70] ++ List.replicate n 65)) [] t ∧
      (([1, 70] ++ List.replicate n (65 : Byte)).drop 2).length = n) ∧
    (∀ n, let t := asking .onAir 0x0D ([70] ++ List.replicate n 65)
      settle t = t ∧ Taken .alertTest (ask 0x0D ([70] ++ List.replicate n 65)) [] t ∧
      (([70] ++ List.replicate n (65 : Byte)).drop 1).length = n) ∧
    settle (asking .onAir 0x0E []) = asking .onAir 0x0E [] ∧ Taken .alertStop (ask 0x0E []) [] (asking .onAir 0x0E []) ∧
    (asking .onAir 0x0E []).cfl.image = some held :=
  ⟨fun n => ⟨settle_of_empty rfl, taken ⟨rfl, rfl, rfl⟩ ⟨rfl, by simp [RequestKind.lengthOk, ask]⟩, by simp⟩,
    fun n => ⟨settle_of_empty rfl, taken ⟨rfl, rfl, rfl⟩ ⟨rfl, by simp [RequestKind.lengthOk, ask]⟩, by simp⟩,
    settle_of_empty rfl, taken ⟨rfl, rfl, rfl⟩ ⟨rfl, rfl⟩, rfl⟩

theorem test_witness_FlushRequestsOutcome :
    ∀ lo : Byte, ∀ x ∈ [(RequestKind.textFlush, (0x0F : Byte)), (.pictureFlush, 0x10)],
      let t := asking .onAir x.2 [1, lo]
      settle t = t ∧ Taken x.1 (ask x.2 [1, lo]) [] t ∧ serviceIx t (half [1, 1] 0) = some 0 ∧
      serviceIx t (half [1, 2] 0) = none := by
  intro lo x hx
  simp only [List.mem_cons, List.not_mem_nil, or_false] at hx
  rcases hx with rfl | rfl <;> exact ⟨settle_of_empty rfl, taken ⟨rfl, rfl, rfl⟩ ⟨rfl, rfl⟩, rfl, rfl⟩

theorem test_witness_ResetRequestsOutcome :
    settle (asking .clash 0x11 []) = asking .clash 0x11 [] ∧ Taken .rejoin (ask 0x11 []) [] (asking .clash 0x11 []) ∧
    (let t := { asking .onAir 0x12 [] with ofr := streaming.ofr }
     settle t = t ∧ Taken .softReset (ask 0x12 []) [] t ∧ streamingValid t = true ∧ t.cfl.image = some held) :=
  ⟨settle_of_empty rfl, taken ⟨rfl, rfl, rfl⟩ ⟨rfl, rfl⟩, settle_of_empty rfl, taken ⟨rfl, rfl, rfl⟩ ⟨rfl, rfl⟩, rfl, rfl⟩

/-- A LOAD_CONFIG body of none, 295, or 4,097 bytes, the last with the length field it has, fails with cause LENGTH, and
so does one of 296 with another length field (R195, R196); one of 4,096 is checked further. -/
theorem test_body_lengths :
    checkBody none [] = .bad .length none ∧ checkBody none (flashOf 295 295) = .bad .length none ∧
    checkBody none (flashOf 297 296) = .bad .length none ∧ checkBody none (flashOf 4097 4097) = .bad .length none ∧
    badLength (flashOf 4096 4096) = false ∧ imageLength (flashOf 4096 4096) = (flashOf 4096 4096).length := by
  have h1 : imageLength (flashOf 295 295) = 295 := by decide
  have h2 : imageLength (flashOf 297 296) = 297 := by decide
  have h3 : imageLength (flashOf 4097 4097) = 4097 := by decide
  have h4 : imageLength (flashOf 4096 4096) = 4096 := by decide
  have hl : ∀ n m, (flashOf n m).length = 2 + (m - 2) := fun n m => by
    unfold flashOf
    rw [List.length_append, List.length_replicate]
    rfl
  refine ⟨rfl, ?_⟩
  simp [checkBody, badLength, h1, h2, h3, h4, hl]

/-- R43: a malformed packet's own bytes are scanned for the next sync pair, and the failed header there is a second
failure, be the packet a command or bytes; without the pair there is one. -/
theorem test_malformed_packet_scanned :
    let p : Byte → LinkPacket := fun b => { packet 2 7 ([0x6E, b] ++ List.replicate 30 0) with lead := 2 }
    (receive .claim (p 0x93) (failed 0 true)).lkp.failures = 2 ∧
    (receive .claim (p 0) (failed 0 true)).lkp.failures = 1 ∧
    (receiveBytes ([0x6E, 0x93] ++ linkInner .claim (p 0x93)) (failed 0 true)).lkp.failures = 2 := by decide +kernel

/-- R45: the unit's own packet cut behind its header is an echo, and the body that is not there fails its check. -/
theorem test_cut_echo :
    let t := receiveBytes (([0x6E, 0x93] ++ linkInner .presence (packet 5 7 presenceBody)).take 20) (echoed .onAir)
    t.lkp.counters.echoes = 1 ∧ t.lkp.counters.clashes = 0 ∧ t.lkp.senders[(5 : UnitId)].bodyErrors = 1 := by
  decide +kernel

/-- A unit HALTED with a LOAD_CONFIG of a good image, of none, and of a body of each length that is too short or too
long. -/
theorem test_witness_LoadConfigOutcome :
    checkBody none image = .good (parseImage image) ∧ checkBody none [0] = .bad .length none ∧
    (∀ n, (List.replicate n (0 : Byte)).length = n) ∧
    ∀ b : List Byte,
      let t := asking .halted 0x13 b
      settle t = t ∧ Taken .loadConfig (ask 0x13 b) [] t ∧ t.cfl.lock = none :=
  ⟨test_image_sources.2, rfl, fun _ => by simp, fun _ => ⟨settle_of_empty rfl, taken ⟨rfl, rfl, rfl⟩ ⟨rfl, rfl⟩, rfl⟩⟩

/-! ### Witnesses: frame numbers, layouts, output, payloads -/

theorem test_witness_FrameNumberRelation :
    3 ≤ 3 ∧ 12 ≤ 12 ∧ (0 : FrameNo) ≠ 8388608 ∧ (Candidate.mk 4294967295 25 false).second = 4294967295 := by decide

theorem test_witness_BlockCountOfRates :
    (∀ x ∈ ([(1, 2, 1), (2, 8, 5), (3, 4, 3), (4, 8, 7)] : List (Nat × Nat × Nat)), x.2.2 ≤ x.2.1) ∧
    (8 ≤ 8 ∧ 8 ≤ 384) ∧ (8 ≤ 384 ∧ 384 ≤ 384) ∧ 0 ≤ 64 ∧ 64 ≤ 64 := by decide

/-- A claim entry of audio rate 8, no side part, class 4: 2 blocks. -/
def smallEntry (id : ServiceId) (priority : Nat) : UnitId × ClaimEntry := (2, ⟨id, priority, 8, 0, 4, 1, [], false⟩)

def summaryOf (rate : Nat) : AlertSummary := ⟨⟨5, 1⟩, 1, 70, false, rate⟩

theorem test_witness_RankOrder :
    (([smallEntry 2 0, smallEntry 1 0] : List (UnitId × ClaimEntry)).map (·.2.id)).Nodup ∧
    ([smallEntry 2 0, smallEntry 1 0] : List (UnitId × ClaimEntry)).Perm [smallEntry 1 0, smallEntry 2 0] ∧
    (∃ g, some (summaryOf 0) = some g) ∧
    (let l := (computeLayout 5 [smallEntry 2 0, smallEntry 1 0] (some (summaryOf 0))).layout
     ∃ e f, l.entries[0]? = some e ∧ l.entries[2]? = some f ∧ 2 < 41) :=
  ⟨by decide, List.Perm.swap _ _ _, ⟨_, rfl⟩, _, _, rfl, rfl, by decide⟩

/-- Chapter 2.4's kind of entry: 140 blocks as it stands, 134 shed, 107 in class 2, 77 in class 4. -/
def largeEntry : UnitId × ClaimEntry := (2, ⟨6, 0, 320, 16, 1, 1, [], false⟩)

/-- 140 blocks left, 139, 134, 133, 107, 77 and 76: what fits at each; an alert that targets the entry, and a test; and
a layout with two entries. -/
theorem test_witness_PlacedRanges :
    (360 ≤ 500 ∧ (placeAll none 360 []).2 = 360 ∧ 500 - 360 = 140 ∧ 424 ≤ 500) ∧
    (blockCount 320 16 1 ≤ 140 ∧ ¬blockCount 320 16 1 ≤ 139 ∧ 0 < 16 ∧ blockCount 320 0 1 ≤ 134 ∧ ¬blockCount 320 0 1 ≤ 133) ∧
    (1 < 2 ∧ 2 ≤ 4 ∧ blockCount 320 0 2 ≤ 107 ∧ ¬blockCount 320 0 3 ≤ 88 ∧ blockCount 320 0 4 ≤ 77) ∧
    (∀ d, 1 < d → d < 2 → ¬blockCount 320 0 d ≤ 107) ∧ (∀ d, 1 < d → d < 4 → ¬blockCount 320 0 d ≤ 77) ∧
    (∀ d, 1 < d → d ≤ 4 → ¬blockCount 320 0 d ≤ 76) ∧ (summaryOf 192).audioRate ≤ 192 ∧
    (summaryOf 192).test = false ∧ allIfZero 2 &&& allIfZero (summaryOf 192).mask ≠ 0 ∧
    (let l := (computeLayout 5 [smallEntry 2 0, largeEntry] (some (summaryOf 192))).layout
     ∃ x e f, l.entries = [x, e] ++ f :: [] ∧ f.placement ≠ .unplaced) := by
  refine ⟨by decide, by decide, by decide, ?_, ?_, ?_, by decide, by decide, by decide, _, _, _, rfl, by decide⟩ <;>
    intro d h1 h2
  · omega
  · have : d = 2 ∨ d = 3 := by omega
    rcases this with rfl | rfl <;> decide
  · have : d = 2 ∨ d = 3 ∨ d = 4 := by omega
    rcases this with rfl | rfl | rfl <;> decide

/-- Frame 1,000 sealed, and not; a number absent; a state that streams no valid frame. -/
theorem test_witness_FrameStartOutput :
    (∀ x, let t : State := { air with asm := { air.asm with slots := air.asm.slots.set 8 x } }
      t.ftu.now = some 1000 ∧ t.pvw.unit = .onAir ∧ t.asm.slots[slotOf 1000] = x) ∧
    (∀ d p, FrameSlot.free ≠ .sealed 1000 d p) ∧ State.reset.ftu.now = none ∧
    (inState .joining).pvw.unit ≠ .onAir ∧ (inState .joining).pvw.unit ≠ .isolated :=
  ⟨fun _ => ⟨rfl, rfl, rfl⟩, by simp, rfl, by decide, by decide⟩

/-- A carousel of one slot, ACTIVE and in the list or not, with transmission `t`, gap 16. -/
def turning (x : TextSlot) (t : Option TextTurn) : Carousel :=
  { Carousel.reset .zero with slots := (Carousel.reset .zero).slots.set 7 x, cycle := [6, 7], current := t }

/-- Held, and a gap of 15 of 16; a transmission of one segment, and one of two, at the first; a list with an ACTIVE entry
second, one with none, and no ACTIVE slot. -/
theorem test_witness_TextTurns :
    (({ turning (keyed 5) none with held := true } : Carousel).held = true ∧
      ({ turning (keyed 5) none with gap := 15 } : Carousel).gap < 16) ∧
    (∀ x t, (turning x t).held = false ∧ 16 ≤ (turning x t).gap ∧ (turning x t).current = t ∧
      (turning x t).slots[(7 : SlotIx)] = x ∧ (turning x t).position = none ∧ (turning x t).cycle.drop 0 = [6] ++ 7 :: []) ∧
    ((keyed 5).text.length + 15) / 16 ≤ 0 + 1 ∧ ¬((List.replicate 17 (65 : Byte)).length + 15) / 16 ≤ 0 + 1 ∧
    (let x : TextSlot := { keyed 5 with inList := true }
     x.state = .active ∧ x.inList = true ∧ (turning x none).slots[(6 : SlotIx)].state ≠ .active) ∧
    (keyed 5).inList = false ∧ ∀ i : SlotIx, (turning (.empty false) none).slots[i].state ≠ .active :=
  ⟨⟨rfl, by decide⟩, fun _ _ => ⟨rfl, (by decide : 16 ≤ 16), rfl, rfl, rfl, rfl⟩, by decide, by decide,
    ⟨rfl, rfl, by decide⟩, rfl, by decide⟩

/-- Service 0 with object `x` and the current turn and last position given. -/
def showing0 (x : PicRecord) (c : Option ObjectId) (l : Option (Nat × ObjectId)) : State :=
  { pictured ([] ++ x :: []) with pic := { (pictured ([] ++ x :: [])).pic with
      carousels := air.pic.carousels.set 0 { air.pic.carousels[(0 : ServiceIx)] with current := c, last := l } } }

/-- Three bytes, one segment: the segment, then the closing cell, with no repeats, at the last of one and expiring; a
READY object after the last position, and none but the one before it. -/
theorem test_witness_PictureTurns :
    (∀ st c l, let x := object st 0 5 3 3 [7]
      let t := showing0 x c l
      t.pic.table = [] ++ x :: [] ∧ x.service = 0 ∧ t.pic.carousels[(0 : ServiceIx)].current = c ∧
      t.pic.carousels[(0 : ServiceIx)].last = l ∧ x.pointer = 0 ∧ 0 < x.size ∧ x.state = st ∧ x.id = 0x1234 ∧
      x.order = 0) ∧
    (0 < (3 + 15) / 16 ∧ (3 + 15) / 16 ≤ 1) ∧ min (0 + 1) 255 = 1 ∧ min (255 + 1) 255 = 255 ∧
    (let x := object .ready 0 5 3 3 [7]
     (∀ l ∈ [none, some (0, 0x1233), some (0, 0x1234)], selectNext 0 [] (showing0 x none l) = some x) ∧
     selectNext 0 [0x1234] (showing0 x none none) = none) :=
  ⟨fun _ _ _ => ⟨rfl, rfl, rfl, rfl, rfl, (by decide : 0 < 3), rfl, rfl, rfl⟩, by decide, by decide, by decide,
    by decide, by decide⟩

/-- Audio filed; none filed with a hold of 1 and of 2, none good, or of another length; no audio part; a side part. -/
theorem test_witness_PayloadSizes :
    (∀ x, let e (rate : Nat) : StoreEntry := ⟨0x0101, 2, rate, 4, x⟩
      (e 8).audioRate ≠ 0 ∧ (e 0).audioRate = 0 ∧ (e 8).side % 4 = 0 ∧ (e 8).filing = x) ∧
    (let a : List Byte := List.replicate 40 0
     let c : List Byte := List.replicate 20 0
     let x : Filing := .filled 2 ⟨true, a⟩ ⟨true, c⟩
     filedAudio x = some a ∧ a.length = 5 * 8 ∧ filedSide x = some c ∧ c.length = 5 * 4 ∧ filedAudio .empty = none ∧
     filedSide .empty = none ∧
     ∀ n g, let h : HoldRecord := ⟨0x0101, g, n⟩
       (holdOf [h] 0x0101).count = n ∧ (holdOf [h] 0x0101).lastGood = g) ∧
    1 < 2 ∧ 2 ≤ 2 ∧ ([] : List Byte).length ≠ 5 * 8 :=
  ⟨fun _ => ⟨(by decide : 8 ≠ 0), rfl, (by decide : 4 % 4 = 0), rfl⟩,
    ⟨rfl, rfl, rfl, rfl, rfl, rfl, fun _ _ => ⟨rfl, rfl⟩⟩, by decide, by decide, by decide⟩

/-- Computed up to 1,003 or 1,004 with L = 4; a chain whose last layout is the one computed, or another; a production
that is due, or was made. -/
theorem test_witness_LayoutAndProductionStep :
    (∀ h c, let t : State := { air with ple := { air.ple with last := h, chain := c } }
      t.pvw.unit = .onAir ∧ t.ple.last = h ∧ t.ple.chain = c ∧ leadOf t = 4 ∧ t.asm.slots[slotOf 1004] = .free ∧
      (let l := (computeLayout (selfOf t) (claimSet t.pvw.slots 1004) (governing t.alc.table 1004)).layout
       l.summary = none ∧ l.entries = [])) ∧
    later 1004 1003 = true ∧ later 1004 1004 = false ∧ plus 1000 4 = 1004 ∧ some (summaryOf 16) ≠ none ∧
    (∀ x, let t : State := { air with cpr := { air.cpr with last := air.cpr.last.set 0 x } }
      t.cpr.last[(0 : ServiceIx)] = x) ∧
    (let x := recordOf 9 none
     governingRecord [x] 1005 = some x ∧ governing [x] 1004 = none ∧ governing [x] 1005 = some ⟨⟨2, 9⟩, 1, 70, false, 16⟩ ∧
     ∀ y ∈ [x], (y.start - 1005).toNat < 8388608) ∧
    (∀ x, (opened x).asm.slots[slotOf 1004] =
      .opened 1004 ⟨none, [], 0, 0, 0⟩ [⟨0x0101, 2, 8, 0, x⟩]) ∧
    (let l : Layout := ⟨none, [⟨2, 0x0101, [], 8, 0, 1, 1, 0, 1, 0, 4, .normal, false, false⟩], 1, 4, 0⟩
     l.entries[0]? = some ⟨2, 0x0101, [], 8, 0, 1, 1, 0, 1, 0, 4, .normal, false, false⟩ ∧ l.entries.length ≤ 1) ∧
    ∀ l es, air.asm.slots[slotOf 1001] ≠ .opened 1001 l es :=
  ⟨fun _ _ => ⟨rfl, rfl, rfl, rfl, rfl, rfl, rfl⟩, by decide, by decide, by decide, by simp, fun _ => rfl,
    ⟨by decide, by decide, by decide, by decide⟩, fun _ => rfl, ⟨rfl, by decide⟩, fun l es h => absurd h (by rintro ⟨⟩)⟩

/-- The slot of frame 999 as `x` makes it; a chain whose second pair is in force at 1,000, and one still ahead; the slot
of 1,004 waiting with an arrival. -/
theorem test_witness_BoundaryTurns :
    (∀ x, let t : State := { air with asm := { air.asm with slots := air.asm.slots.set 7 x } }
     t.ftu.now = some 1000 ∧ t.asm.slots[slotOf (1000 - 1)] = x) ∧
    later 1000 1000 = false ∧ later 1001 1000 = true ∧
    (let t : State := { air with asm := { air.asm with slots := air.asm.slots.set 12 (.waiting 1004 [⟨2, 1004, 0x0101, none⟩]) } }
     t.ftu.now = some 1000 ∧ 3 ≤ leadOf t ∧ leadOf t ≤ 12 ∧ t.pvw.unit.computing = true ∧ t.ple.last = none ∧
     t.asm.slots[slotOf (plus 1000 (leadOf t))] = .waiting (plus 1000 (leadOf t)) [⟨2, 1004, 0x0101, none⟩] ∧
     ∀ a ∈ [Arrival.mk 2 1004 0x0101 none], a.frame = plus 1000 (leadOf t)) :=
  ⟨fun _ => ⟨rfl, rfl⟩, by decide, by decide, rfl, by decide, by decide, rfl, rfl, rfl, by decide⟩

/-- A layout that is the newest computed, and one that is not; an own entry of a configured service, of none, and the
alert channel's; a production made for 1,004, or for the frame before; an arrival for an open entry, filed or not. -/
theorem test_witness_Production :
    (∀ es, let t := charted es
     layoutAt t.ple 1004 = some ⟨none, es, 1, 4, 0⟩ ∧ t.ple.last = some 1004 ∧ serviceIx t 0x0101 = some 0 ∧
     serviceIx t 0x0999 = none) ∧ layoutAt air.ple 1004 = none ∧
    (selfOf air = 5 ∧ (0xFF05 : ServiceId) = BitVec.ofNat 16 (0xFF00 + 5) ∧
      (0x0101 : ServiceId) ≠ BitVec.ofNat 16 (0xFF00 + 5)) ∧
    (∀ x, let t : State := { air with cpr := { air.cpr with last := air.cpr.last.set 0 x, alertLast := x } }
     t.cpr.last[(0 : ServiceIx)] = x ∧ t.cpr.alertLast = x) ∧ later 1004 1003 = true ∧ later 1004 1004 = false ∧ 0 < 1 ∧
    (∀ x, (opened x).ftu.now = some 1000 ∧ leadOf (opened x) = 4 ∧ (opened x).pvw.unit.computing = true ∧
     (opened x).asm.slots[slotOf 1004] = .opened 1004 ⟨none, [], 0, 0, 0⟩ ([] ++ ⟨0x0101, 2, 8, 0, x⟩ :: [])) ∧
    plus 1000 4 = 1004 ∧ (List.replicate 40 (0 : Byte)).length = 5 * (8 + 0) ∧ Filing.void 2 ≠ .empty :=
  ⟨fun _ => ⟨charted_layout _, rfl, rfl, rfl⟩, rfl, ⟨rfl, by decide, by decide⟩, fun _ => ⟨rfl, rfl⟩, by decide, by decide, by decide,
    fun _ => ⟨rfl, rfl, rfl, rfl⟩, by decide, by decide, by decide⟩

end Sys2Proof.Tests
end

section
/-! PROOFS. A boundary's actions, their turns, and the events that cut it (R4; logs 1 and 2). -/

namespace Sys2Proof.Machine

/-! ### Actions and their turns -/

/-- The actions that are no events. -/
theorem isEvent_eq_false_iff (a : Act) : isEvent a = false ↔
    a ∈ ([.endFrame, .relocked, .linkAges, .readAge, .rejoinHold, .listenCount, .startFrame, .freeSlot, .computeLayout,
      .pruneChain, .sealFrame, .expireContributions, .produce, .alertStopTest, .alertSourcesTest, .escalate,
      .originate] : List Act) ∨ (∃ p, a = .portActivity p) ∨
    ∃ k, a = .feedCounts k ∨ a = .textSide k ∨ a = .textHold k ∨ a = .pictureSide k ∨ a = .pictureLife k := by
  constructor
  · intro h
    cases a with
    | frameJump | holdoverExpired | readFailed | feedLost | feedSwitch | feedRevert | slotRemoval | claimInForce
    | peerSilent | enterJoining | enterOnAir | textExpiry | pictureLoadTimeout | pictureExpiry | presenceSend
    | claimResend | enterIsolated | alertRecordStart | alertRecordEnded | localAlertOn | localAlertIdle
    | alertDurationLimit | alertRepeat => cases h
    | portActivity p => exact .inr (.inl ⟨p, rfl⟩)
    | feedCounts k | textSide k | textHold k | pictureSide k | pictureLife k => exact .inr (.inr ⟨k, by simp⟩)
    | _ => exact .inl (by simp)
  · rintro (h | ⟨p, rfl⟩ | ⟨k, rfl | rfl | rfl | rfl | rfl⟩)
    · fin_cases h <;> rfl
    all_goals rfl

/-- An action that is no event takes its turn at every boundary. -/
theorem due_of_not_event {a : Act} (h : isEvent a = false) (s : State) : due a s = true := by
  obtain h | ⟨p, rfl⟩ | ⟨k, rfl | rfl | rfl | rfl | rfl⟩ := (isEvent_eq_false_iff a).mp h
  · fin_cases h <;> rfl
  all_goals rfl

theorem takeTurn_of_due {a : Act} {s : State} (h : due a s = true) : takeTurn a s = fire a s := if_pos h

theorem takeTurn_of_not_due {a : Act} {s : State} (h : due a s = false) : takeTurn a s = pass a s :=
  if_neg (by simp [h])

/-- Only PRESENCE, CLAIM and ALERT keep a count of the boundaries that pass them by. -/
theorem pass_eq_self {a : Act} (hp : a ≠ .presenceSend) (hc : a ≠ .claimResend) (hr : a ≠ .alertRepeat) (s : State) :
    pass a s = s := by
  unfold pass
  split
  · exact absurd rfl hp
  · exact absurd rfl hc
  · exact absurd rfl hr
  · rfl

/-- A boundary stops at an event that is due. -/
theorem advance_of_due {a : Act} {s : State} (he : isEvent a = true) (hd : due a s = true) (rest : List Act) :
    advance (a :: rest) s = { s with progress.agenda := a :: rest } := if_pos (by simp [he, hd])

/-- A boundary goes on past every other action. -/
theorem advance_of_goes_on {a : Act} {s : State} (h : isEvent a = false ∨ due a s = false) (rest : List Act) :
    advance (a :: rest) s = advance rest (takeTurn a s) := if_neg (by obtain h | h := h <;> simp [h])

theorem advance_of_not_event {a : Act} (h : isEvent a = false) (rest : List Act) (s : State) :
    advance (a :: rest) s = advance rest (fire a s) := by
  rw [advance_of_goes_on (.inl h), takeTurn_of_due (due_of_not_event h s)]

/-! ### A boundary cut at its events is the whole boundary -/

theorem takeTurn_agenda (a : Act) (s : State) : (takeTurn a s).progress.agenda = s.progress.agenda := by
  obtain ⟨-, -, hagenda, -, -⟩ := takeTurn_keeps a s
  exact hagenda

theorem runAll_agenda (as : List Act) {s : State} (h : s.progress.agenda = []) :
    (runAll as s).progress.agenda = [] :=
  runAll_keeps (P := fun t => t.progress.agenda = []) (fun a t ht => (takeTurn_agenda a t).trans ht) as s h

theorem settle_eq_runAll {s : State} {as : List Act} (h : s.progress.agenda = as) :
    settle s = runAll as { s with progress.agenda := [] } := by subst h; rfl

/-- Where a boundary waits at an event, running the rest is running all that was left. -/
theorem settle_advance (as : List Act) {s : State} (h : s.progress.agenda = []) :
    settle (advance as s) = runAll as s := by
  induction as generalizing s with
  | nil => exact settle_of_empty h
  | cons a as ih =>
    unfold advance
    split
    · show runAll (a :: as) { s with progress.agenda := [] } = _
      rw [← h]
    · exact ih ((takeTurn_agenda a s).trans h)

/-- The rest of the boundary after an event's command is what it would have been without the command. -/
theorem settle_runEvent (a : Act) (s : State) : settle (runEvent a s) = settle s := by
  by_cases hm : a ∈ s.progress.agenda
  · obtain ⟨before, rest, hs, hb⟩ := List.eq_append_cons_of_mem hm
    have hturn : EventTurn a s (runAll before { s with progress.agenda := [] }) rest := ⟨before, hs, hb, rfl⟩
    have hagenda : (takeTurn a (runAll before { s with progress.agenda := [] })).progress.agenda = [] :=
      (takeTurn_agenda a _).trans (runAll_agenda before rfl)
    rw [runEvent_turn hturn, settle_advance rest hagenda, settle_eq_runAll hs, runAll_append]
    rfl
  · unfold runEvent
    rw [if_neg (by simpa using hm)]

theorem settle_beginBoundary (o : BoundaryOrder) (n : Notices) (s : State) :
    settle (beginBoundary o n s) = runAll (agendaOf s o n) { s with progress := .none } := settle_advance _ rfl

/-! ### The agenda written out -/

theorem agendaOf_unnumbered {s : State} (h : s.ftu.now = none) (o : BoundaryOrder) (n : Notices) :
    agendaOf s o n = unnumberedActs s n := if_neg (by simp [h])

theorem agendaOf_numbered {s : State} (h : s.ftu.now.isSome = true) (o : BoundaryOrder) (n : Notices) :
    agendaOf s o n = numberedActs s o n := if_pos h

theorem intakeActs_eq (s : State) : intakeActs s = List.flatten [
    portIds.flatMap (fun p => [.portActivity p, .feedLost p]),
    (configured s).map .feedCounts, (configured s).flatMap (fun k => [.feedSwitch k, .feedRevert k])] := by
  simp [intakeActs]

theorem noticeActs_eq (s : State) : noticeActs s = fun k => List.flatten [[.textSide k], slotIxs.map (.textExpiry k),
    [.textHold k, .pictureSide k], (objectsOf s k).map (.pictureLoadTimeout k), [.pictureLife k],
    (objectsOf s k).map (.pictureExpiry k)] := by
  funext k
  simp [noticeActs]

/-- The parts of an unnumbered boundary, one behind the other. -/
theorem unnumberedActs_eq (s : State) (n : Notices) : unnumberedActs s n = List.flatten [
    [.endFrame], onlyIf n.jump [.frameJump], onlyIf n.expiry [.holdoverExpired], onlyIf n.relocked [.relocked],
    [.linkAges, .readAge, .readFailed], intakeActs s, [.rejoinHold, .startFrame, .listenCount], countActs] := by
  simp [unnumberedActs, openingActs]

/-- The parts of a numbered boundary, one behind the other. -/
theorem numberedActs_eq (s : State) (o : BoundaryOrder) (n : Notices) : numberedActs s o n = List.flatten [
    [.endFrame], onlyIf n.jump [.frameJump], onlyIf n.expiry [.holdoverExpired], onlyIf n.relocked [.relocked],
    [.linkAges, .readAge, .readFailed], onlyIf o.lossFirst (intakeActs s), unitIds.map .slotRemoval,
    unitIds.map .claimInForce, unitIds.map .peerSilent, [.rejoinHold, .enterOnAir, .startFrame, .freeSlot],
    onlyIf o.moveFirst joinActs, [.computeLayout, .pruneChain, .sealFrame], onlyIf (!o.moveFirst) joinActs,
    onlyIf o.expiryFirst [.expireContributions],
    onlyIf s.pvw.unit.running ((configured s).flatMap (noticeActs s)), [.produce],
    onlyIf (!o.expiryFirst) [.expireContributions], onlyIf (!o.lossFirst) (intakeActs s), countActs,
    s.alc.table.flatMap (fun r => [.alertRecordStart r.id, .alertRecordEnded r.id]),
    [.localAlertOn, .localAlertIdle, .alertStopTest, .alertDurationLimit, .alertSourcesTest, .escalate, .originate,
     .alertRepeat]] := by
  simp only [numberedActs, openingActs, tableActs, alertActs, List.flatten_cons, List.flatten_nil, List.append_assoc,
    List.append_nil]

/-! ### When each event is due -/

section
variable (s : State)

/-- Frame now is at `f` or past it. -/
theorem nowReaches_iff (f : FrameNo) : nowReaches s f = true ↔ ∃ n, s.ftu.now = some n ∧ later f n = false := by
  simp [nowReaches, Option.any_eq_true]

theorem joined_iff (u : UnitState) : joined u = true ↔ u = .joining ∨ u = .onAir := by simp [joined]

theorem tableRuns_iff (u : UnitState) : tableRuns u = true ↔ u ≠ .clash ∧ u ≠ .offAir := by simp [tableRuns]

theorem portLocked_iff (q : Option PortId) :
    portLocked s q = true ↔ ∃ p, q = some p ∧ s.sin.ports[p].state = .locked := by
  simp [portLocked, Option.any_eq_true]

theorem due_readFailed_iff : due .readFailed s = true ↔ s.cfl.reading = true ∧ s.cfl.readAge = 25 := by simp

theorem due_feedLost_iff (p : PortId) : due (.feedLost p) s = true ↔ s.pvw.unit.running = true ∧
    s.sin.ports[p].idleCount = 8 ∧ (s.sin.ports[p].state = .hunt ∨ s.sin.ports[p].state = .locked) := by
  simp [lossDue, and_assoc]

theorem due_feedSwitch_iff (k : ServiceIx) : due (.feedSwitch k) s = true ↔ s.pvw.unit.running = true ∧
    s.sin.services[k].selection = .onMain ∧ s.sin.services[k].mainDown = 8 ∧
    ∃ p, backupPort s k = some p ∧ s.sin.ports[p].state = .locked := by
  simp [switchDue, and_assoc, portLocked_iff]

theorem due_feedRevert_iff (k : ServiceIx) : due (.feedRevert k) s = true ↔ s.pvw.unit.running = true ∧
    s.sin.services[k].selection = .onBackup ∧ (s.sin.services[k].mainUp = 125 ∨
      (s.sin.services[k].backupDown = 8 ∧ ∃ p, mainPort s k = some p ∧ s.sin.ports[p].state = .locked)) := by
  simp [revertDue, and_assoc, portLocked_iff]

theorem due_slotRemoval_iff (u : UnitId) : due (.slotRemoval u) s = true ↔
    (s.pvw.unit ≠ .clash ∧ s.pvw.unit ≠ .offAir) ∧ u ≠ selfOf s ∧
    ∃ f, s.pvw.slots[u].removal = some f ∧ ∃ n, s.ftu.now = some n ∧ later f n = false := by
  simp [Option.any_eq_true, nowReaches_iff, tableRuns_iff, and_assoc]

theorem due_claimInForce_iff (u : UnitId) : due (.claimInForce u) s = true ↔
    (s.pvw.unit ≠ .clash ∧ s.pvw.unit ≠ .offAir) ∧
    ∃ c, s.pvw.slots[u].waiting = some c ∧ ∃ n, s.ftu.now = some n ∧ later c.frame n = false := by
  simp [Option.any_eq_true, nowReaches_iff, tableRuns_iff]

theorem due_peerSilent_iff (u : UnitId) : due (.peerSilent u) s = true ↔
    (s.pvw.unit = .listen ∨ s.pvw.unit = .joining ∨ s.pvw.unit = .onAir) ∧ u ≠ selfOf s ∧
    (s.pvw.slots[u].state = .heard ∨ s.pvw.slots[u].state = .present) ∧
    ∃ n f, s.ftu.now = some n ∧ s.pvw.slots[u].stamp = some f ∧ later n (plus f 25) = true := by
  simp only [due_peerSilent, silenceDue, joined_iff, Option.any_eq_true, Bool.and_eq_true, Bool.or_eq_true,
    decide_eq_true_eq, bne_iff_ne, and_assoc]
  constructor
  · rintro ⟨hu, hs, n, hn, hp, f, hf, hl⟩
    exact ⟨hu, hs, hp, n, f, hn, hf, hl⟩
  · rintro ⟨hu, hs, hp, n, f, hn, hf, hl⟩
    exact ⟨hu, hs, n, hn, hp, f, hf, hl⟩

theorem due_enterJoining_iff : due .enterJoining s = true ↔
    s.pvw.unit = .listen ∧ s.pvw.listenCount = 32 ∧ s.ftu.now.isSome = true := by simp [and_assoc]

theorem due_enterOnAir_iff : due .enterOnAir s = true ↔
    s.pvw.unit = .joining ∧ ∃ n, s.pvw.joinFrame = some n ∧ s.ftu.now = some n := by
  cases hj : s.pvw.joinFrame with
  | none => simp [hj]
  | some j => simpa [hj] using fun _ => eq_comm

theorem due_enterIsolated_iff : due .enterIsolated s = true ↔
    (s.pvw.unit = .joining ∨ s.pvw.unit = .onAir) ∧ s.lkp.echoAge = 25 := by simp [joined_iff]

theorem due_textExpiry_iff (k : ServiceIx) (i : SlotIx) : due (.textExpiry k i) s = true ↔
    s.txc.carousels[k].slots[i].state = .active ∧ s.txc.carousels[k].slots[i].lifetime ≠ 0 ∧
    s.txc.carousels[k].slots[i].remaining = 0 := by
  simp [textExpired, and_assoc]

theorem due_pictureLoadTimeout_iff (k : ServiceIx) (o : ObjectId) : due (.pictureLoadTimeout k o) s = true ↔
    ∃ x, findObject k o s = some x ∧ x.state = .loading ∧ x.idle = 250 := by
  simp [Option.any_eq_true, loadTimedOut]

theorem due_pictureExpiry_iff (k : ServiceIx) (o : ObjectId) : due (.pictureExpiry k o) s = true ↔
    ∃ x, findObject k o s = some x ∧ x.state ≠ .loading ∧ x.lifetime ≠ 0 ∧ x.remaining = 0 ∧ x.expiring = false := by
  simp [Option.any_eq_true, pictureExpired, and_assoc]

theorem due_presenceSend_iff : due .presenceSend s = true ↔
    s.pvw.unit.viewing = true ∧ s.progress.presenceSent = false ∧ s.pvw.presenceCount = 4 := by simp [and_assoc]

theorem due_claimResend_iff : due .claimResend s = true ↔ (s.pvw.unit = .joining ∨ s.pvw.unit = .onAir) ∧
    s.pvw.ownClaim.isSome = true ∧ s.progress.claimSent = false ∧ s.pvw.claimCount = 24 := by
  simp [joined_iff, and_assoc]

theorem due_alertRecordStart_iff (i : AlertId) : due (.alertRecordStart i) s = true ↔ s.pvw.unit.viewing = true ∧
    ∃ x, s.alc.table.find? (fun y => y.id = i) = some x ∧ x.state = .waiting ∧
      ∃ n, s.ftu.now = some n ∧ later x.start n = false := by
  simp [Option.any_eq_true, nowReaches_iff, recordOf]

theorem due_alertRecordEnded_iff (i : AlertId) : due (.alertRecordEnded i) s = true ↔ s.pvw.unit.viewing = true ∧
    ∃ x e, s.alc.table.find? (fun y => y.id = i) = some x ∧ x.stop = some e ∧
      ∃ n, s.ftu.now = some n ∧ later e.frame n = false := by
  simp [Option.any_eq_true, nowReaches_iff, recordOf]

theorem due_localAlertOn_iff : due .localAlertOn s = true ↔ s.alc.localAlert.state = .announced ∧
    ∃ f, s.alc.localAlert.start = some f ∧ ∃ n, s.ftu.now = some n ∧ later f n = false := by
  simp [Option.any_eq_true, nowReaches_iff]

theorem due_localAlertIdle_iff : due .localAlertIdle s = true ↔ s.alc.localAlert.state = .ending ∧
    ∃ f, s.alc.localAlert.stop = some f ∧ ∃ n, s.ftu.now = some n ∧ later f n = false := by
  simp [Option.any_eq_true, nowReaches_iff]

theorem durationDue_iff (n : FrameNo) : durationDue n s = true ↔ s.alc.localAlert.state = .on ∧
    ∃ f m, s.alc.localAlert.start = some f ∧ s.cfl.image = some m ∧ 1 ≤ m.durationLimit ∧
      later (plus f (25 * m.durationLimit)) n = false := by
  cases hm : s.cfl.image with
  | none => simp [durationDue, hm]
  | some m =>
    simp [durationDue, hm, Option.any_eq_true, Nat.one_le_iff_ne_zero, Nat.pos_iff_ne_zero, and_assoc,
      and_left_comm]

theorem due_alertDurationLimit_iff : due .alertDurationLimit s = true ↔ s.alc.localAlert.state = .on ∧
    ∃ n f m, s.ftu.now = some n ∧ s.alc.localAlert.start = some f ∧ s.cfl.image = some m ∧ 1 ≤ m.durationLimit ∧
      later (plus f (25 * m.durationLimit)) n = false := by
  simp only [due_alertDurationLimit, Option.any_eq_true, durationDue_iff]
  constructor
  · rintro ⟨n, hn, ho, f, m, hf, hm, hd, hl⟩
    exact ⟨ho, n, f, m, hn, hf, hm, hd, hl⟩
  · rintro ⟨ho, n, f, m, hn, hf, hm, hd, hl⟩
    exact ⟨n, hn, ho, f, m, hf, hm, hd, hl⟩

theorem due_alertRepeat_iff : due .alertRepeat s = true ↔
    s.alc.localAlert.state ≠ .idle ∧ s.progress.alertSent = false ∧ s.alc.repeatCount = 4 := by simp [and_assoc]

end

/-- Settles O4: events only cut a boundary (`settle_runEvent`, `settle_beginBoundary`); the agenda is `numberedActs_eq`
and `unnumberedActs_eq`, and each event is due as its `due_…_iff` says. -/
theorem eventsOnlyCutTheBoundary : Obligations.EventsOnlyCutTheBoundary := by
  unfold Obligations.EventsOnlyCutTheBoundary
  refine ⟨settle_runEvent, settle_beginBoundary, fun s o n => ⟨fun h => ?_, fun h => ?_⟩, fun a rest t => ?_,
    fun t => ?_, fun _ => ⟨rfl, rfl, rfl⟩⟩
  · rw [agendaOf_unnumbered h, unnumberedActs_eq, intakeActs_eq]
    rfl
  · rw [agendaOf_numbered h, numberedActs_eq, intakeActs_eq, noticeActs_eq]
    rfl
  · exact ⟨rfl, rfl, rfl, fun he hd => advance_of_due he hd rest, fun h => advance_of_goes_on h rest,
      fun hd hp hc hr => (takeTurn_of_not_due hd).trans (pass_eq_self hp hc hr t), fun he => due_of_not_event he t,
      isEvent_eq_false_iff a⟩
  · exact ⟨rfl, rfl, due_readFailed_iff t, due_feedLost_iff t, due_feedSwitch_iff t, due_feedRevert_iff t,
      due_slotRemoval_iff t, due_claimInForce_iff t, due_peerSilent_iff t, due_enterJoining_iff t, due_enterOnAir_iff t,
      due_enterIsolated_iff t, due_textExpiry_iff t, due_pictureLoadTimeout_iff t, due_pictureExpiry_iff t,
      due_presenceSend_iff t, due_claimResend_iff t, due_alertRecordStart_iff t, due_alertRecordEnded_iff t,
      due_localAlertOn_iff t, due_localAlertIdle_iff t, due_alertDurationLimit_iff t, due_alertRepeat_iff t⟩

end Sys2Proof.Machine
end

section
/-! PROOFS. The frame reference: time messages, pulses, missed pulses and the reference state (R2 to R10). -/

namespace Sys2Proof.Machine

/-! ### The commands of the frame reference -/

section
variable {s r : State} (h : settle s = r)
include h

theorem exec_timeMessage (bs : List Byte) : exec (.timeMessage bs) s = .next (takeTime bs r) := h ▸ rfl

theorem exec_framePulse (d : Nat) (o : BoundaryOrder) : exec (.framePulse d o) s = .next (takePulse d o r) := h ▸ rfl

theorem exec_localTimerExpiry (o : BoundaryOrder) :
    exec (.localTimerExpiry o) s = .next (raiseBoundary .timer o r) := h ▸ rfl

theorem exec_missedPulse : exec .missedPulse s = .next (missPulse r) := h ▸ rfl

end

/-! ### Time messages (R2, R188) -/

theorem half_be16 (a : List Byte) (v : BitVec 16) (o : Nat) (h : a.length = o) : half (a ++ be16 v) o = v := by
  subst h
  rw [half, slice, List.drop_left, List.take_of_length_le (by simp [be16]), beNat_be16, BitVec.ofNat_toNat,
    BitVec.setWidth_eq]

/-- A message of R188's format carries its second count. -/
theorem parseTime_good (n : BitVec 32) :
    parseTime ([0xA1#8] ++ be32 n ++ be16 (crc16 ([0xA1#8] ++ be32 n))) = some n := by
  have hlen : ([0xA1#8] ++ be32 n).length = 5 := rfl
  have hcheck := half_be16 _ (crc16 ([0xA1#8] ++ be32 n)) 5 hlen
  have htake : ([0xA1#8] ++ be32 n ++ be16 (crc16 ([0xA1#8] ++ be32 n))).take 5 = [0xA1#8] ++ be32 n :=
    List.take_left' hlen
  have hcount : slice ([0xA1#8] ++ be32 n ++ be16 (crc16 ([0xA1#8] ++ be32 n))) 1 4 = be32 n := rfl
  unfold parseTime
  rw [hcheck, htake, hcount, if_pos (by simp [byteAt, be32, be16]), beNat_be32, BitVec.ofNat_toNat, BitVec.setWidth_eq]

theorem parseTime_bad {bs : List Byte} (h : bs.length ≠ 7 ∨ byteAt bs 0 ≠ 0xA1 ∨ half bs 5 ≠ crc16 (bs.take 5)) :
    parseTime bs = none := by
  refine if_neg ?_
  simp only [Bool.and_eq_true, decide_eq_true_eq, and_assoc, not_and_or]
  exact h

/-- Settles O13: `parseTime` reads the format of R188, and nothing else. -/
theorem timeMessageOutcome : Obligations.TimeMessageOutcome := by
  unfold Obligations.TimeMessageOutcome
  refine ⟨fun s r n hs => ?_, fun s r bs hs hbad => ?_⟩
  · rw [exec_timeMessage hs, takeTime, parseTime_good]
  · rw [exec_timeMessage hs, takeTime, parseTime_bad hbad]

/-! ### Missed pulses (R3, R8) -/

theorem pulseMissing_iff (f : Ftu) : pulseMissing f = true ↔ f.source = .timer ∧ f.matched = false := by
  simp [pulseMissing]

/-- FTU entering HOLDOVER (R8). -/
theorem missPulse_of_locked {s : State} (hm : pulseMissing s.ftu = true) (hl : s.ftu.ref = .locked) :
    missPulse s =
      let t := { s with ftu := { s.ftu with ref := .holdover, holdover := 1, candidate := none,
                                            counters.holdovers := bump s.ftu.counters.holdovers } }
      if s.pvw.unit = .joining then enterListen t else breakListen t := if_pos (by simp [hm, hl])

theorem missPulse_of_not {s : State} (h : s.ftu.source = .pulse ∨ s.ftu.matched = true ∨ s.ftu.ref ≠ .locked) :
    missPulse s = s := by
  refine if_neg ?_
  simp only [Bool.and_eq_true, pulseMissing_iff, decide_eq_true_eq]
  rintro ⟨⟨hs, hm⟩, hl⟩
  rw [hs, hm, hl] at h
  simp at h

/-- Settles O15: `missPulse_of_locked` in each unit state, `missPulse_of_not` elsewhere. -/
theorem missedPulseOutcome : Obligations.MissedPulseOutcome := by
  unfold Obligations.MissedPulseOutcome
  refine ⟨fun s r hs hsource hmatched hlocked => ?_, fun s r hs hn => ?_⟩
  · have hr := missPulse_of_locked ((pulseMissing_iff r.ftu).mpr ⟨hsource, hmatched⟩) hlocked
    refine ⟨fun hj hl => ?_, fun hl => ?_, fun hj => ?_⟩
    · rw [exec_missedPulse hs, hr, if_neg hj, breakListen, if_neg hl]
    · rw [exec_missedPulse hs, hr, if_neg (by simp [hl]), breakListen, if_pos hl]
    · rw [exec_missedPulse hs, hr, if_pos hj]
  · rw [exec_missedPulse hs, missPulse_of_not hn]

/-! ### Labelled pulses (R2, R5, R7, R10) -/

theorem consistent_iff (m : BitVec 32) (c : Option Candidate) :
    consistent m c = true ↔ ∃ x, c = some x ∧ m = x.second + 1 ∧ x.pulses = 25 := by
  simp [consistent, Option.any_eq_true]

theorem acceptPulse_of_none {f : Ftu} (h : f.message = none) : acceptPulse f = countPulse f := by
  rw [acceptPulse, h]

theorem acceptPulse_of_some {f : Ftu} {m : BitVec 32} (h : f.message = some m) :
    acceptPulse f = testMessage m { f with message := none } := by
  rw [acceptPulse, h]

/-- A message's test touches neither the count nor what is known of the last boundary. -/
theorem testMessage_keeps (m : BitVec 32) (f : Ftu) :
    (testMessage m f).message = f.message ∧ (testMessage m f).now = f.now ∧ (testMessage m f).source = f.source ∧
    (testMessage m f).matched = f.matched ∧ (testMessage m f).timerStart = f.timerStart := by
  unfold testMessage
  split
  · unfold testUnlocked
    split <;> exact ⟨rfl, rfl, rfl, rfl, rfl⟩
  · unfold testLocked
    split
    · exact ⟨rfl, rfl, rfl, rfl, rfl⟩
    · dsimp only
      split <;> exact ⟨rfl, rfl, rfl, rfl, rfl⟩
  · unfold testHoldover
    split
    · dsimp only
      split <;> exact ⟨rfl, rfl, rfl, rfl, rfl⟩
    · exact ⟨rfl, rfl, rfl, rfl, rfl⟩

theorem testMessage_unlocked {m : BitVec 32} {f : Ftu} (h : f.ref = .unlocked) :
    testMessage m f = testUnlocked m f := by
  rw [testMessage, h]

theorem testMessage_locked {m : BitVec 32} {f : Ftu} (h : f.ref = .locked) :
    testMessage m f = testLocked m f := by
  rw [testMessage, h]

theorem testMessage_holdover {m : BitVec 32} {f : Ftu} (h : f.ref = .holdover) :
    testMessage m f = testHoldover m f := by
  rw [testMessage, h]

theorem afterLabel_eq (m : BitVec 32) : afterLabel m = BitVec.ofNat 24 (25 * m.toNat + 1) :=
  (BitVec.ofNat_add ..).symm

theorem testUnlocked_fits {m : BitVec 32} {f : Ftu} (h : consistent m f.candidate = true) :
    testUnlocked m f =
      { countPulse f with ref := .locked, next := some ⟨BitVec.ofNat 24 (25 * m.toNat + 1), false⟩ } := by
  rw [testUnlocked, if_pos h, afterLabel_eq]

theorem testUnlocked_unfit {m : BitVec 32} {f : Ftu} (h : ¬consistent m f.candidate = true) :
    testUnlocked m f = { f with candidate := some ⟨m, 1, false⟩ } := if_neg h

theorem testLocked_agrees {m : BitVec 32} {f : Ftu} (h : f.now = some (refFrame m)) :
    testLocked m f = { f with candidate := some ⟨m, 1, false⟩ } := if_pos h

/-- Two messages that disagree with the count and agree with each other move it (R7). -/
theorem testLocked_jumps {m : BitVec 32} {f : Ftu} (hn : f.now ≠ some (refFrame m))
    (hc : consistent m f.candidate = true) (hd : f.candidate.any (·.differs) = true) :
    testLocked m f = { f with
      candidate := none, next := some ⟨BitVec.ofNat 24 (25 * m.toNat + 1), true⟩
      counters.disagreeing := bump f.counters.disagreeing } := by
  rw [testLocked, if_neg hn, if_pos (by rw [hd, hc]; rfl), afterLabel_eq]

theorem testLocked_differs {m : BitVec 32} {f : Ftu} (hn : f.now ≠ some (refFrame m))
    (h : ¬consistent m f.candidate = true ∨ f.candidate.any (·.differs) = false) :
    testLocked m f = { f with
      candidate := some ⟨m, 1, true⟩, counters.disagreeing := bump f.counters.disagreeing } := by
  rw [testLocked, if_neg hn, if_neg (by obtain h | h := h <;> simp [h])]
  rfl

theorem testHoldover_agrees {m : BitVec 32} {f : Ftu} (hc : consistent m f.candidate = true)
    (hn : f.now = some (refFrame m)) :
    testHoldover m f = { f with ref := .locked, holdover := 0, candidate := none } := by
  rw [testHoldover, if_pos hc, if_pos hn]

theorem testHoldover_jumps {m : BitVec 32} {f : Ftu} (hc : consistent m f.candidate = true)
    (hn : f.now ≠ some (refFrame m)) :
    testHoldover m f = { f with ref := .locked, holdover := 0, candidate := none,
                                next := some ⟨BitVec.ofNat 24 (25 * m.toNat + 1), true⟩ } := by
  rw [testHoldover, if_pos hc, if_neg hn, afterLabel_eq]

theorem testHoldover_unfit {m : BitVec 32} {f : Ftu} (h : ¬consistent m f.candidate = true) :
    testHoldover m f = { f with candidate := some ⟨m, 1, false⟩ } := if_neg h

/-- Settles O16: a pending message is spent, and tested as the reference state has it. -/
theorem referenceTests : Obligations.ReferenceTests := by
  unfold Obligations.ReferenceTests
  refine ⟨fun f hf => acceptPulse_of_none hf, fun f m hm => ?_⟩
  rw [acceptPulse_of_some hm]
  simp only [← consistent_iff]
  obtain ⟨hmessage, hnow, hsource, hmatched, hstart⟩ := testMessage_keeps m { f with message := none }
  refine ⟨hmessage, hnow, hsource, hmatched, hstart, fun hr hc => ?_, fun hr hc => ?_, fun hr hn => ?_,
    fun hr hn hc hd => ?_, fun hr hn h => ?_, fun hr hc hn => ?_, fun hr hc hn => ?_, fun hr hc => ?_⟩
  · rw [testMessage_unlocked (by exact hr), testUnlocked_fits (by exact hc)]
    exact ⟨rfl, rfl, rfl, rfl⟩
  · rw [testMessage_unlocked (by exact hr), testUnlocked_unfit (by exact hc)]
    exact ⟨hr, rfl, rfl⟩
  · rw [testMessage_locked (by exact hr), testLocked_agrees (by exact hn)]
  · rw [testMessage_locked (by exact hr), testLocked_jumps (by exact hn) (by exact hc) (by exact hd)]
  · rw [testMessage_locked (by exact hr), testLocked_differs (by exact hn) (by exact h)]
  · rw [testMessage_holdover (by exact hr), testHoldover_agrees (by exact hc) (by exact hn)]
  · rw [testMessage_holdover (by exact hr), testHoldover_jumps (by exact hc) (by exact hn)]
  · rw [testMessage_holdover (by exact hr), testHoldover_unfit (by exact hc)]

/-! ### Pulses and boundaries (R3, R4, R8) -/

theorem takePulse_stray {s : State} {d : Nat} (o : BoundaryOrder) (hd : d < 30000)
    (h : s.ftu.source = .pulse ∨ s.ftu.matched = true ∨ 10000 ≤ d) :
    takePulse d o s = { s with ftu.counters.stray := bump s.ftu.counters.stray } := by
  have hj : judgePulse s.ftu d = .stray := by
    rw [judgePulse, if_neg (by omega), if_neg]
    obtain h | h | h := h <;> simp [h]
  rw [takePulse, hj]

theorem takePulse_matched {s : State} {d : Nat} (o : BoundaryOrder) (hd : d < 10000) (hs : s.ftu.source = .timer)
    (hm : s.ftu.matched = false) : takePulse d o s = matchPulse d s := by
  have hj : judgePulse s.ftu d = .matched := by
    rw [judgePulse, if_neg (by omega), if_pos (by simp [hs, hm, hd])]
  rw [takePulse, hj]

theorem takePulse_raises (s : State) {d : Nat} (o : BoundaryOrder) (hd : 30000 ≤ d) :
    takePulse d o s = raiseBoundary .pulse o s := by
  have hj : judgePulse s.ftu d = .raises := if_pos hd
  rw [takePulse, hj]

theorem nextNow_eq (f : Ftu) : nextNow f = (f.next.map (·.frame)).or (f.now.map (· + 1)) := by
  unfold nextNow
  cases f.next <;> rfl

theorem atBoundary_eq (src : BoundarySource) (f : Ftu) : atBoundary src f =
    { f with now := (f.next.map (·.frame)).or (f.now.map (· + 1)), next := none, source := src, matched := false,
             timerStart := 0 } := by
  rw [atBoundary, nextNow_eq]

theorem expires_eq (f g : Ftu) :
    expires f g = decide (g.ref = .holdover ∧ f.holdover ≠ 250 ∧ g.holdover = 250) := by
  rw [Bool.eq_iff_iff]
  simp [expires, and_assoc]

theorem relocks_eq (f g : Ftu) : relocks f g = decide (f.ref = .holdover ∧ g.ref = .locked ∧ g.next = none) := by
  rw [Bool.eq_iff_iff]
  simp [relocks, and_assoc]

theorem relocks_of_kept {f g : Ftu} (h : g.ref = f.ref) : relocks f g = false := by
  rw [relocks_eq, h]
  refine decide_eq_false ?_
  rintro ⟨hh, hl, -⟩
  rw [hh] at hl
  cases hl

theorem expires_of_ne {f g : Ftu} (h : g.ref ≠ .holdover) : expires f g = false := by
  rw [expires_eq]
  exact decide_eq_false (fun hg => h hg.1)

/-- The count reaches 250 at one boundary of a holdover. -/
theorem expires_of_count {f g : Ftu} (hr : g.ref = .holdover) (hg : g.holdover = min (f.holdover + 1) 250) :
    expires f g = decide (f.holdover ≠ 250 ∧ 249 ≤ f.holdover) := by
  rw [expires_eq, decide_eq_decide, hg]
  simp only [hr, true_and]
  omega

/-- A matched pulse is accepted at once; a relock by it that agrees with the count takes OFF_AIR to LISTEN (R10). -/
theorem matchPulse_eq (d : Nat) (s : State) :
    let g := acceptPulse { s.ftu with matched := true, timerStart := d }
    matchPulse d s =
      if s.ftu.ref = .holdover ∧ g.ref = .locked ∧ g.next = none ∧ s.pvw.unit = .offAir
      then enterListen { s with ftu := g } else { s with ftu := g } := by
  simp only [matchPulse, relocked, relocks_eq, decide_eq_true_eq, ← ite_and, and_assoc]

theorem countHoldover_of_ne {f : Ftu} (h : f.ref ≠ .holdover) : countHoldover f = f := if_neg h

theorem countHoldover_of_holdover {f : Ftu} (h : f.ref = .holdover) :
    countHoldover f = { f with holdover := min (f.holdover + 1) 250 } := if_pos h

/-- Settles O14: a pulse is stray, matched or raises a boundary (`takePulse_stray`, `takePulse_matched`,
`takePulse_raises`); what the boundary's notices say is `expires_eq` and `relocks_eq`. -/
theorem pulseAndTimerOutcome : Obligations.PulseAndTimerOutcome := by
  unfold Obligations.PulseAndTimerOutcome
  refine ⟨fun s r d o hs hd h => ?_, fun s r d o hs hd hsource hmatched hm => ?_, fun s r d o hs hd hm hr => ?_,
    fun s r d o hs hd hsource hmatched => ?_, fun s r d o hs hd => ?_, fun rest t => ?_, fun s r o hs hr => ?_,
    fun s r o hs hr => ?_⟩
  · rw [exec_framePulse hs, takePulse_stray o hd h]
  · rw [exec_framePulse hs, takePulse_matched o hd hsource hmatched, matchPulse, acceptPulse_of_none (by exact hm),
      relocks_of_kept (by rfl)]
    rfl
  · rw [exec_framePulse hs, takePulse_raises r o hd, raiseBoundary, if_pos rfl, acceptPulse_of_none (by exact hm),
      countHoldover_of_ne (by exact hr), relocks_of_kept (by rfl), expires_of_ne (by exact hr), atBoundary_eq]
    rfl
  · refine ⟨fun hn => ?_, fun hb => ?_⟩
    · rw [exec_framePulse hs, takePulse_matched o hd hsource hmatched, matchPulse_eq, if_neg hn]
    · rw [exec_framePulse hs, takePulse_matched o hd hsource hmatched, matchPulse_eq, if_pos hb]
  · rw [exec_framePulse hs, takePulse_raises r o hd, raiseBoundary, if_pos rfl, expires_eq, relocks_eq, atBoundary_eq]
    rfl
  · exact advance_of_not_event rfl rest t
  · rw [exec_localTimerExpiry hs, raiseBoundary, if_neg nofun, countHoldover_of_ne (by exact hr),
      relocks_of_kept (by rfl), expires_of_ne (by exact hr), atBoundary_eq]
  · rw [exec_localTimerExpiry hs, raiseBoundary, if_neg nofun, countHoldover_of_holdover (by exact hr),
      relocks_of_kept (by rfl), expires_of_count (by exact hr) (by rfl), atBoundary_eq]

end Sys2Proof.Machine
end

section
/-! PROOFS. Frame numbers and their comparison (R6). -/

namespace Sys2Proof.Machine

theorem later_iff (a b : FrameNo) : later a b = true ↔ 1 ≤ (a - b).toNat ∧ (a - b).toNat ≤ 8388607 := by
  simp [later]

theorem later_eq_false_iff (a b : FrameNo) : later a b = false ↔ (a - b).toNat = 0 ∨ 8388608 ≤ (a - b).toNat := by
  rw [← Bool.not_eq_true, later_iff]
  omega

theorem later_self (a : FrameNo) : later a a = false := by simp [later]

theorem not_later_both (a b : FrameNo) : ¬(later a b = true ∧ later b a = true) := by
  rw [later_iff, later_iff]
  bv_omega

theorem neither_later_iff {a b : FrameNo} (h : a ≠ b) :
    (later a b = false ∧ later b a = false) ↔ a = b + 8388608 := by
  rw [later_eq_false_iff, later_eq_false_iff]
  bv_omega

/-- The frames later than now + L that are later than now as well. -/
theorem later_window_iff (n a : FrameNo) {lead : Nat} (hl : lead ≤ 12) :
    (later a (plus n lead) = true ∧ later a n = true) ↔
      ∃ j, 1 ≤ j ∧ j ≤ 8388607 - lead ∧ a = plus n (lead + j) := by
  rw [later_iff, later_iff]
  unfold plus
  constructor
  · rintro ⟨hw, hn⟩
    exact ⟨(a - (n + BitVec.ofNat 24 lead)).toNat, by bv_omega, by bv_omega, by bv_omega⟩
  · rintro ⟨j, h1, h2, rfl⟩
    bv_omega

/-- Settles O54: the relation in 24-bit arithmetic, and the ends of the ranges of frame numbers and of seconds. -/
theorem frameNumberRelation : Obligations.FrameNumberRelation := by
  unfold Obligations.FrameNumberRelation
  refine ⟨later_iff, by decide, later_self, not_later_both, fun _ _ => neither_later_iff,
    fun n a lead _ hl => later_window_iff n a hl, fun c hs hp => ?_, by decide, by decide⟩
  exact (consistent_iff 0 (some c)).mpr ⟨c, rfl, by rw [hs]; rfl, hp⟩

end Sys2Proof.Machine
end

section
/-! PROOFS. The start of a frame at the output framer (R12 to R14, R78, R194). -/

namespace Sys2Proof.Machine

theorem addDigest_eq (x : FrameNo × BitVec 16) (h : List (FrameNo × BitVec 16)) :
    addDigest x h = (h ++ [x]).drop (h.length - 15) := by
  rw [addDigest, show h.length + 1 - 16 = h.length - 15 by omega]

theorem startFrame_valid {s : State} {n : FrameNo} (hn : s.ftu.now = some n) (hu : s.pvw.unit.emitting = true) :
    startFrame s = startValid n s := by
  rw [startFrame, hn]
  exact if_pos hu

theorem startFrame_idle {s : State} (h : s.ftu.now = none ∨ s.pvw.unit.emitting = false) :
    startFrame s = startIdle s := by
  unfold startFrame
  split
  · rename_i n hn
    rw [hn] at h
    exact if_neg (by simpa using h)
  · rfl

theorem emitting_iff (u : UnitState) : u.emitting = true ↔ u = .onAir ∨ u = .isolated := by
  cases u <;> simp [UnitState.emitting]

theorem frameBytes_sealed {s : State} {n : FrameNo} {dir : List Byte} {pays : List (List Byte)}
    (h : s.asm.slots[slotOf n] = .sealed n dir pays) : frameBytes s n = dir ++ pays.flatten := by
  rw [frameBytes, slotAt, h]
  exact if_pos rfl

theorem frameBytes_empty {s : State} {n : FrameNo} (h : ∀ dir pays, s.asm.slots[slotOf n] ≠ .sealed n dir pays) :
    frameBytes s n = emptyDirectory (ensembleOf s) n := by
  unfold frameBytes slotAt
  split
  · rename_i m dir pays hm
    refine if_neg ?_
    rintro rfl
    exact h dir pays hm
  · rfl

/-- What the directory check covers of an idle directory. -/
def idleCore (ensemble : BitVec 16) (n : Option FrameNo) : List Byte :=
  be16 ensemble ++ be24 (n.getD 0) ++ [0, 0, 0, 0, 0, 0, 1] ++ List.replicate 370 0

theorem idleDirectory_eq (e : BitVec 16) (n : Option FrameNo) :
    idleDirectory e n = idleCore e n ++ be16 (crc16 (idleCore e n)) := rfl

theorem idleCore_length (e : BitVec 16) (n : Option FrameNo) : (idleCore e n).length = 382 := by
  simp only [idleCore, List.length_append, List.length_replicate]
  rfl

theorem idleDirectory_length (e : BitVec 16) (n : Option FrameNo) : (idleDirectory e n).length = 384 := by
  rw [idleDirectory_eq, List.length_append, idleCore_length]
  rfl

theorem byteAt_append_left {a b : List Byte} {j : Nat} (h : j < a.length) : byteAt (a ++ b) j = byteAt a j :=
  List.getD_append _ _ _ _ h

theorem byteAt_append_right {a b : List Byte} {j : Nat} (h : a.length ≤ j) :
    byteAt (a ++ b) j = byteAt b (j - a.length) := List.getD_append_right _ _ _ _ h

@[simp] theorem byteAt_zeros (n j : Nat) : byteAt (List.replicate n 0) j = 0 :=
  (List.getD_eq_getElem?_getD ..).trans (List.getElem?_getD_replicate_default_eq ..)

/-- Behind the frame number an idle directory is zeros, but for its IDLE mark (R194). -/
theorem byteAt_idleDirectory (e : BitVec 16) (n : Option FrameNo) {j : Nat} (h5 : 5 ≤ j) (h : j ≤ 381) (hj : j ≠ 11) :
    byteAt (idleDirectory e n) j = 0 := by
  have hcore : idleCore e n =
      (be16 e ++ be24 (n.getD 0)) ++ (List.replicate 6 0 ++ ([1] ++ List.replicate 370 0)) := rfl
  have hhead : (be16 e ++ be24 (n.getD 0)).length = 5 := rfl
  rw [idleDirectory_eq, byteAt_append_left (by rw [idleCore_length]; omega), hcore,
    byteAt_append_right (by rw [hhead]; exact h5), hhead]
  by_cases hlow : j - 5 < 6
  · rw [byteAt_append_left (by simpa using hlow), byteAt_zeros]
  · rw [byteAt_append_right (by simpa using hlow), byteAt_append_right (by simp; omega), byteAt_zeros]

theorem idleDirectory_check (e : BitVec 16) (n : Option FrameNo) :
    half (idleDirectory e n) 382 = crc16 ((idleDirectory e n).take 382) := by
  rw [idleDirectory_eq, half_be16 _ _ _ (idleCore_length e n), List.take_left' (idleCore_length e n)]

/-- Settles O58: `startFrame` streams the sealed slot or an empty frame, or the idle directory. -/
theorem frameStartOutput : Obligations.FrameStartOutput := by
  unfold Obligations.FrameStartOutput
  refine ⟨fun r n hn hu => ⟨frameBytes r n, ?_, fun dir pays h => frameBytes_sealed h, frameBytes_empty⟩,
    fun r h => ⟨idleDirectory (ensembleOf r) r.ftu.now, ?_, idleDirectory_length _ _, rfl, rfl, rfl,
      fun _ => byteAt_idleDirectory _ _, idleDirectory_check _ _⟩, fun t rest => ⟨rfl, advance_of_not_event rfl rest t⟩⟩
  · rw [startFrame_valid hn ((emitting_iff _).mpr hu), startValid, addDigest_eq]
  · refine startFrame_idle (h.imp id fun hu => ?_)
    rw [← Bool.not_eq_true, emitting_iff, not_or]
    exact hu

end Sys2Proof.Machine
end

section
/-! PROOFS. The state after reset, its tables entry by entry. -/

namespace Sys2Proof.Machine

theorem reset_peerSlot (u : UnitId) : State.reset.pvw.slots[u] = .absent .zero := Vector.getElem_replicate ..
theorem reset_switch (k : ServiceIx) : State.reset.pvw.switches[k] = true := Vector.getElem_replicate ..
theorem reset_sender (u : UnitId) : State.reset.lkp.senders[u] = .zero := Vector.getElem_replicate ..
theorem reset_lastProduction (k : ServiceIx) : State.reset.cpr.last[k] = none := Vector.getElem_replicate ..
theorem reset_frameSlot (i : Fin 16) : State.reset.asm.slots[i] = .free := Vector.getElem_replicate ..
theorem reset_port (p : PortId) : State.reset.sin.ports[p] = .reset := Vector.getElem_replicate ..
theorem reset_intake (k : ServiceIx) : State.reset.sin.services[k] = .reset := Vector.getElem_replicate ..
theorem reset_carousel (k : ServiceIx) : State.reset.txc.carousels[k] = .reset .zero := Vector.getElem_replicate ..
theorem reset_picCarousel (k : ServiceIx) : State.reset.pic.carousels[k] = .reset .zero := Vector.getElem_replicate ..
theorem reset_removal (u : UnitId) : State.reset.alc.removals[u] = none := Vector.getElem_replicate ..

theorem reset_source (i : SourceId) : State.reset.alc.sources.get i = .reset := by cases i <;> rfl

theorem reset_textSlot (c : TextCounters) (i : SlotIx) : (Carousel.reset c).slots[i] = .empty false :=
  Vector.getElem_replicate ..

theorem freePages_nil : freePages [] = List.range 384 := by
  simp [freePages, usedPages, Config.pages]

/-- A table of equal entries holds only zeros where its entry does. -/
theorem zeros_of_replicate {α : Type} {k : Nat} {x : α} {f : α → List Nat} (h : ∀ n ∈ f x, n = 0) :
    ∀ n ∈ (Vector.replicate k x).toList.flatMap f, n = 0 := by
  intro n hn
  rw [Vector.toList_replicate, List.mem_flatMap] at hn
  obtain ⟨y, hy, hny⟩ := hn
  rw [List.eq_of_mem_replicate hy] at hny
  exact h n hny

/-- Settles O5: the tables entry by entry, every other item as `State.reset` writes it. -/
theorem resetValues : Obligations.ResetValues := by
  unfold Obligations.ResetValues
  refine ⟨rfl, rfl, rfl, rfl, rfl, rfl, rfl, rfl, rfl, rfl, rfl, rfl, rfl, rfl, rfl, rfl, rfl,
    fun u => congrArg (·.state) (reset_peerSlot u), reset_switch, rfl, rfl, rfl, reset_lastProduction,
    reset_frameSlot, rfl, ?_, ?_, rfl, ?_, ?_, rfl, rfl, rfl, ?_, rfl, rfl, rfl, rfl, rfl, rfl, rfl, rfl, rfl, rfl,
    rfl, rfl, rfl, rfl, rfl, rfl, rfl, rfl, rfl, rfl, ?_, rfl, rfl, rfl, rfl, rfl, rfl, rfl, rfl, rfl, rfl, ?_, ?_,
    ?_, ?_, rfl, rfl, ?_, ?_, rfl, rfl, rfl, reset_removal, rfl, ?_⟩
  · intro p
    rw [reset_port]
    exact ⟨rfl, rfl⟩
  · intro k
    rw [reset_intake]
    exact ⟨rfl, rfl⟩
  · intro k i
    rw [reset_carousel, reset_textSlot]
    rfl
  · intro k
    rw [reset_carousel]
    exact ⟨rfl, rfl⟩
  · exact (congrArg List.length freePages_nil).trans List.length_range
  · intro u
    rw [reset_sender]
    rfl
  · intro p
    rw [reset_port]
    exact ⟨rfl, rfl, rfl, rfl⟩
  · intro k
    rw [reset_intake]
    exact ⟨rfl, rfl, rfl⟩
  · intro k i
    rw [reset_carousel, reset_textSlot]
    rfl
  · intro k
    rw [reset_carousel]
    exact ⟨rfl, rfl, rfl, rfl, rfl⟩
  · intro k
    rw [reset_picCarousel]
    exact ⟨rfl, rfl, rfl⟩
  · intro i
    rw [reset_source]
    exact ⟨rfl, rfl, rfl⟩
  · simp only [List.forall_mem_append, and_assoc]
    exact ⟨by decide, by decide, by decide, by decide, zeros_of_replicate (by decide), by decide,
      zeros_of_replicate (by decide), zeros_of_replicate (by decide), by decide, by decide, by decide,
      zeros_of_replicate (by decide), zeros_of_replicate (by decide), by decide, zeros_of_replicate (by decide),
      by decide, zeros_of_replicate (by decide), by decide, by decide, by decide, by decide⟩

end Sys2Proof.Machine
end

section
/-! PROOFS. The expiry and jump notices, and what a jump clears (R9, R11). -/

namespace Sys2Proof.Machine

theorem exec_holdoverExpired (s : State) : exec .holdoverExpired s = .next (runEvent .holdoverExpired s) := rfl

theorem exec_frameJump (s : State) : exec .frameJump s = .next (runEvent .frameJump s) := rfl

/-- An expiry notice counted and flagged, before PVW acts on it. -/
def expiryNoticed (s : State) : State :=
  { s with sup := supWith .holdoverExpired { s with sup.lifetime.expiries := bump s.sup.lifetime.expiries } }

theorem holdoverExpired_eq (s : State) : holdoverExpired s =
    if s.pvw.unit = .listen ∨ s.pvw.unit = .onAir ∨ s.pvw.unit = .isolated then enterOffAir (expiryNoticed s)
    else expiryNoticed s := by
  simp only [← or_assoc]
  simp only [holdoverExpired, Bool.or_eq_true, decide_eq_true_eq]
  rfl

/-- A jump notice counted and flagged, before the blocks act on it. -/
def jumpNoticed (s : State) : State :=
  { s with
    ftu.counters.jumps := bump s.ftu.counters.jumps
    sup := supWith .frameJump { s with sup.lifetime.jumps := bump s.sup.lifetime.jumps } }

theorem frameJump_eq (s : State) : frameJump s = jumpEffects (jumpNoticed s) := rfl

theorem jumpsToListen_iff (u : UnitState) : jumpsToListen u = true ↔ ¬(u = .loading ∨ u = .halted ∨ u = .clash) := by
  cases u <;> simp [jumpsToListen]

/-- In LOADING, HALTED and CLASH a jump clears what an entry to LISTEN clears (R11). -/
theorem frameJump_of_stays {s : State} (h : s.pvw.unit = .loading ∨ s.pvw.unit = .halted ∨ s.pvw.unit = .clash) :
    frameJump s = clearForListen (jumpNoticed s) :=
  if_neg (fun hj => (jumpsToListen_iff s.pvw.unit).mp hj h)

/-- Every other unit state goes to LISTEN. -/
theorem frameJump_of_moves {s : State} (h : ¬(s.pvw.unit = .loading ∨ s.pvw.unit = .halted ∨ s.pvw.unit = .clash)) :
    frameJump s = enterListen (jumpNoticed s) :=
  if_pos ((jumpsToListen_iff s.pvw.unit).mpr h)

theorem clearForListen_slot (s : State) (u : UnitId) :
    (clearForListen s).pvw.slots[u] = .absent s.pvw.slots[u].counters := by
  show (mapAll (fun p => PeerSlot.absent p.counters) s.pvw.slots)[u] = _
  rw [mapAll_get]

theorem clearForListen_frameSlot (s : State) (i : Fin 16) : (clearForListen s).asm.slots[i] = .free :=
  Vector.getElem_replicate ..

theorem clearForListen_lastProduction (s : State) (k : ServiceIx) : (clearForListen s).cpr.last[k] = none :=
  Vector.getElem_replicate ..

theorem clearForListen_removal (s : State) (u : UnitId) : (clearForListen s).alc.removals[u] = none :=
  Vector.getElem_replicate ..

theorem clearForListen_source (s : State) (i : SourceId) :
    (clearForListen s).alc.sources.get i = { s.alc.sources.get i with carried := false } := by cases i <;> rfl

/-- Settles O17: an expiry is `holdoverExpired_eq`, a jump `frameJump_of_stays` and `frameJump_of_moves`. -/
theorem noticeEventsOutcome : Obligations.NoticeEventsOutcome := by
  unfold Obligations.NoticeEventsOutcome
  refine ⟨fun s t rest ht => ?_, fun s t rest ht => ?_⟩
  · rw [exec_holdoverExpired, runEvent_due ht rfl, fire_holdoverExpired, holdoverExpired_eq]
    exact ⟨fun hu => by rw [if_pos hu]; rfl, fun hu => by rw [if_neg hu]; rfl⟩
  · rw [exec_frameJump, runEvent_due ht rfl, fire_frameJump]
    refine ⟨fun hu => ⟨clearForListen (jumpNoticed t), by rw [frameJump_of_stays hu], rfl, clearForListen_slot _, rfl,
      clearForListen_frameSlot _, rfl, rfl, clearForListen_lastProduction _, rfl, rfl, rfl, rfl,
      clearForListen_removal _, rfl, rfl, rfl, rfl, clearForListen_source _, rfl, rfl⟩, fun hu => ?_⟩
    rw [frameJump_of_moves hu]
    rfl

end Sys2Proof.Machine
end

section
/-! PROOFS. Block counts (R20), the turns of the ladder and the placed ranges (R26, R27). -/

namespace Sys2Proof.Machine

/-! ### Block counts -/

theorem le_ceilDiv_mul (n : Nat) {d : Nat} (hd : 0 < d) : n ≤ ceilDiv n d * d := by
  have := Nat.div_add_mod (n + d - 1) d
  have := Nat.mod_lt (n + d - 1) hd
  rw [ceilDiv, Nat.mul_comm]
  omega

theorem ceilDiv_mul_lt (n : Nat) {d : Nat} (hd : 0 < d) : ceilDiv n d * d < n + d := by
  have := Nat.div_mul_le_self (n + d - 1) d
  rw [ceilDiv]
  omega

/-- R20's three steps: the payload, its expansion rounded up, and the blocks of 24 bytes rounded up. -/
theorem blockCount_steps (a s : Nat) {p n d : Nat} (he : expansion p = (n, d)) (hd : 0 < d) :
    ∃ b, 5 * (a + s) * n ≤ b * d ∧ b * d < 5 * (a + s) * n + d ∧
      b ≤ blockCount a s p * 24 ∧ blockCount a s p * 24 < b + 24 := by
  rw [blockCount, he]
  exact ⟨_, le_ceilDiv_mul _ hd, ceilDiv_mul_lt _ hd, le_ceilDiv_mul _ (by decide), ceilDiv_mul_lt _ (by decide)⟩

/-- The four classes with their expansions. -/
theorem expansion_of_class {p n d : Nat}
    (h : (p, n, d) ∈ ([(1, 2, 1), (2, 8, 5), (3, 4, 3), (4, 8, 7)] : List (Nat × Nat × Nat))) :
    expansion p = (n, d) ∧ 0 < d := by
  simp only [List.mem_cons, Prod.mk.injEq, List.not_mem_nil, or_false] at h
  obtain ⟨rfl, rfl, rfl⟩ | ⟨rfl, rfl, rfl⟩ | ⟨rfl, rfl, rfl⟩ | ⟨rfl, rfl, rfl⟩ := h <;> decide

/-- Settles O55: each class's expansion in `blockCount_steps`, and arithmetic. -/
theorem blockCountOfRates : Obligations.BlockCountOfRates := by
  unfold Obligations.BlockCountOfRates
  refine ⟨fun a s p n d hp => ?_, by decide⟩
  obtain ⟨he, hd⟩ := expansion_of_class hp
  obtain ⟨b, hlow, hhigh, hfit, hleast⟩ := blockCount_steps a s he hd
  simp only [List.mem_cons, Prod.mk.injEq, List.not_mem_nil, or_false] at hp
  obtain ⟨rfl, rfl, rfl⟩ | ⟨rfl, rfl, rfl⟩ | ⟨rfl, rfl, rfl⟩ | ⟨rfl, rfl, rfl⟩ := hp
  all_goals exact ⟨⟨b, hlow, hhigh, by omega, by omega, by omega⟩, by omega, by omega, fun _ _ _ => by omega⟩

/-! ### The ladder, rung by rung -/

section
variable {a s p q : Nat}

theorem ladder_normal (h : blockCount a s p ≤ q) : ladder a s p q = ⟨.normal, s, p, blockCount a s p⟩ := if_pos h

theorem ladder_shed (h : ¬blockCount a s p ≤ q) (hs : 0 < s) (h0 : blockCount a 0 p ≤ q) :
    ladder a s p q = ⟨.shed, 0, p, blockCount a 0 p⟩ := by
  rw [ladder, if_neg h, if_pos (by simp [hs, h0])]

/-- The classes above `p`, up to 4, are tried in order. -/
theorem ladder_lowered {c : Nat} (h : ¬blockCount a s p ≤ q) (h0 : ¬(0 < s ∧ blockCount a 0 p ≤ q)) (hp : p < c)
    (hc : c ≤ 4) (hfit : blockCount a 0 c ≤ q) (hleast : ∀ d, p < d → d < c → ¬blockCount a 0 d ≤ q) :
    ladder a s p q = ⟨.lowered, 0, c, blockCount a 0 c⟩ := by
  have hfind : (List.range' (p + 1) (4 - p)).find? (fun c => blockCount a 0 c ≤ q) = some c := by
    rw [List.find?_range'_eq_some]
    refine ⟨by simpa using hfit, by rw [List.mem_range'_1]; omega, fun d hd hdc => ?_⟩
    simpa using hleast d hd hdc
  rw [ladder, if_neg h, if_neg (by simpa using h0), hfind]

theorem ladder_unplaced (h : ¬blockCount a s p ≤ q) (h0 : ¬(0 < s ∧ blockCount a 0 p ≤ q))
    (hnone : ∀ c, p < c → c ≤ 4 → ¬blockCount a 0 c ≤ q) : ladder a s p q = ⟨.unplaced, 0, p, 0⟩ := by
  have hfind : (List.range' (p + 1) (4 - p)).find? (fun c => blockCount a 0 c ≤ q) = none := by
    rw [List.find?_eq_none]
    intro c hc
    rw [List.mem_range'_1] at hc
    simpa using hnone c (by omega) (by omega)
  rw [ladder, if_neg h, if_neg (by simpa using h0), hfind]

end

/-! ### An entry's turn -/

theorem targeted_iff (gov : Option AlertSummary) (c : ClaimEntry) : targeted gov c = true ↔
    ∃ g, gov = some g ∧ g.test = false ∧ allIfZero c.regions &&& allIfZero g.mask ≠ 0 := by
  cases gov <;> simp [targeted, regionsMeet]

/-- What the ladder gives an entry whose turn comes at block `b`: the side rate is 0 when the alert targets it (R25). -/
def rungAt (gov : Option AlertSummary) (b : Nat) (c : ClaimEntry) : Rung :=
  ladder c.audioRate (if targeted gov c then 0 else c.sideRate) c.protClass (500 - b)

/-- An entry takes its rung's values; a placed one starts at `b`. -/
theorem placeEntry_of_rung {gov : Option AlertSummary} {b : Nat} {o : UnitId} {c : ClaimEntry} {x : Placement}
    {side cls count : Nat} (h : rungAt gov b c = ⟨x, side, cls, count⟩) :
    let e := placeEntry gov b (o, c)
    e.placement = x ∧ e.side = side ∧ e.cls = cls ∧ e.start = (if x = .unplaced then 0 else b) ∧ e.count = count := by
  have hstart : (placeEntry gov b (o, c)).start = if (rungAt gov b c).placement = .unplaced then 0 else b := rfl
  rw [h] at hstart
  exact ⟨congrArg Rung.placement h, congrArg Rung.side h, congrArg Rung.cls h, hstart, congrArg Rung.count h⟩

theorem placeEntry_start (gov : Option AlertSummary) (b : Nat) (e : UnitId × ClaimEntry)
    (h : (placeEntry gov b e).placement ≠ .unplaced) : (placeEntry gov b e).start = b := if_neg h

theorem placeAll_cons (gov : Option AlertSummary) (b : Nat) (e : UnitId × ClaimEntry) (es : List (UnitId × ClaimEntry)) :
    placeAll gov b (e :: es) =
      (placeEntry gov b e :: (placeAll gov (b + (placeEntry gov b e).count) es).1,
        (placeAll gov (b + (placeEntry gov b e).count) es).2) := rfl

/-- A placed entry starts where the ranges before it end. -/
theorem placeAll_start (gov : Option AlertSummary) (xs : List (UnitId × ClaimEntry)) :
    ∀ (b : Nat) (before after : List LayoutEntry) (e : LayoutEntry), (placeAll gov b xs).1 = before ++ e :: after →
      e.placement ≠ .unplaced → e.start = b + (before.map (·.count)).sum := by
  induction xs with
  | nil => intro b before after e h; simp [placeAll] at h
  | cons x xs ih =>
    intro b before after e h hp
    rw [placeAll_cons] at h
    obtain _ | ⟨y, before⟩ := before
    · obtain ⟨rfl, -⟩ := List.cons.inj h
      exact placeEntry_start gov b x hp
    · obtain ⟨rfl, htail⟩ := List.cons.inj h
      rw [ih _ before after e htail hp, List.map_cons, List.sum_cons, Nat.add_assoc]

/-! ### The entries of a layout -/

/-- The entries left after R22, in rank order. -/
def rankedOf (claims : List (UnitId × ClaimEntry)) : List (UnitId × ClaimEntry) :=
  rank (keepFirst [] (claims.filter (fun e => validService e.2.id)))

theorem computeLayout_without_alert (self : UnitId) (claims : List (UnitId × ClaimEntry)) :
    let l := (computeLayout self claims none).layout
    l.entries = (placeAll none 0 (rankedOf claims)).1 ∧ l.endBlock = (placeAll none 0 (rankedOf claims)).2 := ⟨rfl, rfl⟩

theorem computeLayout_with_alert (self : UnitId) (claims : List (UnitId × ClaimEntry)) (g : AlertSummary) :
    let l := (computeLayout self claims (some g)).layout
    let first := blockCount g.audioRate 8 1
    l.entries = alertEntry g :: (placeAll (some g) first (rankedOf claims)).1 ∧
      l.endBlock = (placeAll (some g) first (rankedOf claims)).2 := ⟨rfl, rfl⟩

/-- The alert channel's largest rate, 192, takes 84 blocks. -/
theorem alertCount_le {rate : Nat} (h : rate ≤ 192) : blockCount rate 8 1 ≤ 84 := by
  obtain ⟨b, -, hhigh, -, hleast⟩ := blockCount_steps rate 8 (rfl : expansion 1 = (2, 1)) (by decide)
  omega

/-- Settles O57: the rungs are `ladder_normal`, `ladder_shed`, `ladder_lowered` and `ladder_unplaced`. -/
theorem placedRanges : Obligations.PlacedRanges := by
  unfold Obligations.PlacedRanges
  constructor
  · intro gov before after o c b hb all done room follow s fits placed
    have hfollow : targeted gov c = follow := by
      rw [Bool.eq_iff_iff, targeted_iff, decide_eq_true_iff]
    have hrung : rungAt gov done.2 c = ladder c.audioRate s c.protClass room := by
      rw [rungAt, hfollow]
    refine ⟨placeAll_length .., placeAll_end .., placeAll_end_le _ _ _ hb, placeAll_end .., placeAll_end_le _ _ _ hb,
      placeEntry gov done.2 (o, c), _, congrArg Prod.fst (placeAll_append gov before _ b), rfl, rfl, rfl, rfl, rfl, rfl,
      rfl, rfl, rfl, hfollow, fun h => ?_, fun h hs h0 => ?_, fun p h h0 hp h4 hfit hleast => ?_, fun h h0 hnone => ?_⟩
    · exact placeEntry_of_rung (hrung.trans (ladder_normal h))
    · exact placeEntry_of_rung (hrung.trans (ladder_shed h hs h0))
    · exact placeEntry_of_rung (hrung.trans (ladder_lowered h h0 hp h4 hfit hleast))
    · exact placeEntry_of_rung (hrung.trans (ladder_unplaced h h0 hnone))
  · intro self claims gov hg l
    cases gov with
    | none =>
      obtain ⟨hentries, hend⟩ := computeLayout_without_alert self claims
      refine ⟨?_, ?_, fun before after e h hp => ?_⟩
      · rw [hend, hentries, placeAll_end, Nat.zero_add]
      · exact hend ▸ placeAll_end_le _ _ 0 (Nat.zero_le _)
      · rw [placeAll_start none _ 0 before after e (hentries ▸ h) hp, Nat.zero_add]
    | some g =>
      obtain ⟨hentries, hend⟩ := computeLayout_with_alert self claims g
      have hcount := alertCount_le (hg g rfl)
      refine ⟨?_, ?_, fun before after e h hp => ?_⟩
      · rw [hend, hentries, placeAll_end, List.map_cons, List.sum_cons]
        rfl
      · exact hend ▸ placeAll_end_le _ _ _ (by omega)
      · rw [hentries] at h
        obtain _ | ⟨x, before⟩ := before
        · obtain ⟨rfl, -⟩ := List.cons.inj h
          rfl
        · obtain ⟨rfl, htail⟩ := List.cons.inj h
          rw [placeAll_start _ _ _ before after e htail hp, List.map_cons, List.sum_cons]
          rfl

end Sys2Proof.Machine
end

section
/-! PROOFS. The bytes of a frame's directory (R15 to R18, R194). -/

namespace Sys2Proof.Machine

/-! ### Slices of joined bytes -/

theorem slice_append_left {a b : List Byte} {i n : Nat} (h : i + n ≤ a.length) : slice (a ++ b) i n = slice a i n := by
  rw [slice, slice, List.drop_append_of_le_length (by omega), List.take_append_of_le_length (by simp; omega)]

theorem slice_append_right {a b : List Byte} {i n : Nat} (h : a.length ≤ i) :
    slice (a ++ b) i n = slice b (i - a.length) n := by
  rw [slice, List.drop_append, List.drop_eq_nil_of_le h, List.nil_append, slice]

theorem slice_take {a : List Byte} {i n m : Nat} (h : i + n ≤ m) : slice (a.take m) i n = slice a i n := by
  rw [slice, slice, List.drop_take, List.take_take, Nat.min_eq_left (by omega)]

theorem zeroPad_length (n : Nat) (bs : List Byte) : (zeroPad n bs).length = n := by
  simp only [zeroPad, List.length_append, List.length_take, List.length_replicate]
  omega

/-- Blocks of one size joined: the first `i` of them dropped. -/
theorem drop_flatMap_of_length {α β : Type} {f : α → List β} {k : Nat} (h : ∀ x, (f x).length = k) (xs : List α) :
    ∀ i, (xs.flatMap f).drop (k * i) = (xs.drop i).flatMap f := by
  induction xs with
  | nil => simp
  | cons x xs ih =>
    intro i
    obtain _ | i := i
    · rfl
    · rw [List.flatMap_cons, List.drop_append, List.drop_eq_nil_of_le (by rw [h, Nat.mul_succ]; omega), h,
        Nat.mul_succ, Nat.add_sub_cancel, ih]
      rfl

/-! ### The entry area -/

theorem entryBytes_length (e : LayoutEntry × SealFlag) : (entryBytes e.1 e.2).length = 8 := rfl

theorem entryArea_length (es : List (LayoutEntry × SealFlag)) : (entryArea es).length = 328 := zeroPad_length _ _

theorem entries_length (es : List (LayoutEntry × SealFlag)) :
    (es.flatMap (fun e => entryBytes e.1 e.2)).length = 8 * es.length := by
  induction es with
  | nil => rfl
  | cons e es ih => rw [List.flatMap_cons, List.length_append, ih, entryBytes_length, List.length_cons]; omega

/-- The position of an entry holds its bytes. -/
theorem slice_entryArea {es : List (LayoutEntry × SealFlag)} {i : Nat} {e : LayoutEntry × SealFlag} (hi : i < 41)
    (he : es[i]? = some e) : slice (entryArea es) (8 * i) 8 = entryBytes e.1 e.2 := by
  obtain ⟨hlt, rfl⟩ := List.getElem?_eq_some_iff.mp he
  have hfits : 8 * i + 8 ≤ ((es.flatMap (fun e => entryBytes e.1 e.2)).take 328).length := by
    rw [List.length_take, entries_length]
    omega
  rw [entryArea, zeroPad, slice_append_left hfits, slice_take (by omega), slice,
    drop_flatMap_of_length entryBytes_length, List.drop_eq_getElem_cons hlt, List.flatMap_cons,
    List.take_left' (entryBytes_length _)]

/-- A position behind the last entry is zero. -/
theorem slice_entryArea_rest {es : List (LayoutEntry × SealFlag)} {i : Nat} (hi : i < 41) (h : es.length ≤ i) :
    slice (entryArea es) (8 * i) 8 = List.replicate 8 0 := by
  have hlen := entries_length es
  rw [entryArea, zeroPad, List.take_of_length_le (by omega), slice_append_right (by omega), slice, List.drop_replicate,
    List.take_replicate, Nat.min_eq_left (by omega)]

/-! ### The whole directory -/

/-- A directory's bytes before the entry area. -/
def directoryHead (ensemble : BitVec 16) (n : FrameNo) (l : Layout) : List Byte :=
  be16 ensemble ++ be24 n ++ be16 l.digest ++ [byteOf l.entries.length, byteOf l.placed] ++
    be16 (BitVec.ofNat 16 l.endBlock) ++ [0] ++ alertBlock l.summary ++ labelSlot n l.entries

/-- What the directory check covers. -/
def directoryCore (ensemble : BitVec 16) (n : FrameNo) (l : Layout) (es : List (LayoutEntry × SealFlag)) : List Byte :=
  directoryHead ensemble n l ++ entryArea es ++ List.replicate 19 0

theorem frameDirectory_eq (ensemble : BitVec 16) (n : FrameNo) (l : Layout) (es : List (LayoutEntry × SealFlag)) :
    frameDirectory ensemble n l es =
      directoryCore ensemble n l es ++ be16 (crc16 (directoryCore ensemble n l es)) := rfl

theorem alertBlock_length (g : Option AlertSummary) : (alertBlock g).length = 7 := by cases g <;> rfl

section
variable (ensemble : BitVec 16) (n : FrameNo) (l : Layout) (es : List (LayoutEntry × SealFlag))

theorem directoryHead_length : (directoryHead ensemble n l).length = 35 := by
  rw [directoryHead, List.length_append, List.length_append, alertBlock_length, labelSlot, zeroPad_length]
  rfl

theorem directoryCore_length : (directoryCore ensemble n l es).length = 382 := by
  rw [directoryCore, List.length_append, List.length_append, directoryHead_length, entryArea_length,
    List.length_replicate]

theorem frameDirectory_length : (frameDirectory ensemble n l es).length = 384 := by
  rw [frameDirectory_eq, List.length_append, directoryCore_length]
  rfl

theorem frameDirectory_check :
    half (frameDirectory ensemble n l es) 382 = crc16 ((frameDirectory ensemble n l es).take 382) := by
  rw [frameDirectory_eq, half_be16 _ _ _ (directoryCore_length ..), List.take_left' (directoryCore_length ..)]

theorem frameDirectory_take_seven :
    (frameDirectory ensemble n l es).take 7 = be16 ensemble ++ be24 n ++ be16 l.digest := rfl

theorem byteAt_frameDirectory_eleven : byteAt (frameDirectory ensemble n l es) 11 = 0 := rfl

theorem slice_frameDirectory_alert : slice (frameDirectory ensemble n l es) 12 7 = alertBlock l.summary := by
  obtain ⟨rest, hrest⟩ : ∃ rest, (frameDirectory ensemble n l es).drop 12 = alertBlock l.summary ++ rest :=
    ⟨_, by simp [frameDirectory_eq, directoryCore, directoryHead, be16, be24]; rfl⟩
  rw [slice, hrest, List.take_left' (alertBlock_length _)]

/-- The entry positions stand from byte 35 on. -/
theorem slice_frameDirectory_position {i : Nat} (hi : i < 41) :
    slice (frameDirectory ensemble n l es) (35 + 8 * i) 8 = slice (entryArea es) (8 * i) 8 := by
  have hhead := directoryHead_length ensemble n l
  have harea := entryArea_length es
  rw [frameDirectory_eq, slice_append_left (by rw [directoryCore_length]; omega), directoryCore,
    slice_append_left (by rw [List.length_append]; omega), slice_append_right (by omega), hhead, Nat.add_sub_cancel_left]

/-- The id of the entry at a position. -/
theorem half_frameDirectory_position {i : Nat} (hi : i < 41) {e : LayoutEntry × SealFlag} (he : es[i]? = some e) :
    half (frameDirectory ensemble n l es) (35 + 8 * i) = e.1.id := by
  have hid : slice (frameDirectory ensemble n l es) (35 + 8 * i) 2 = be16 e.1.id := by
    have h := slice_frameDirectory_position ensemble n l es hi
    rw [slice_entryArea hi he] at h
    calc slice (frameDirectory ensemble n l es) (35 + 8 * i) 2
        = (slice (frameDirectory ensemble n l es) (35 + 8 * i) 8).take 2 := by rw [slice, slice, List.take_take]; rfl
      _ = be16 e.1.id := by rw [h]; rfl
  rw [half, hid, beNat_be16, BitVec.ofNat_toNat, BitVec.setWidth_eq]

end

end Sys2Proof.Machine
end

section
/-! PROOFS. The entries left after R22, and their rank (R24). -/

namespace Sys2Proof.Machine

/-! ### The order of two entries -/

theorem ranksBefore_iff (a b : UnitId × ClaimEntry) : ranksBefore a b = true ↔
    a.2.priority < b.2.priority ∨ (a.2.priority = b.2.priority ∧ a.2.id.toNat < b.2.id.toNat) := by
  simp [ranksBefore]

theorem ranksBefore_trans {a b c : UnitId × ClaimEntry} (hab : ranksBefore a b = true) (hbc : ranksBefore b c = true) :
    ranksBefore a c = true := by
  rw [ranksBefore_iff] at *
  omega

theorem ranksBefore_asymm {a b : UnitId × ClaimEntry} (h : ranksBefore a b = true) : ¬ranksBefore b a = true := by
  rw [ranksBefore_iff] at *
  omega

/-- Of two entries with different service ids one ranks before the other. -/
theorem ranksBefore_of_not {a b : UnitId × ClaimEntry} (hid : a.2.id ≠ b.2.id) (h : ¬ranksBefore a b = true) :
    ranksBefore b a = true := by
  have hne : a.2.id.toNat ≠ b.2.id.toNat := fun he => hid (BitVec.eq_of_toNat_eq he)
  rw [ranksBefore_iff] at *
  omega

/-! ### The rank is a reordering, in order, and the only one -/

theorem insertRanked_perm (x : UnitId × ClaimEntry) (ys : List (UnitId × ClaimEntry)) :
    (insertRanked x ys).Perm (x :: ys) := by
  induction ys with
  | nil => exact .refl _
  | cons y ys ih =>
    rw [insertRanked]
    split
    · exact .refl _
    · exact (ih.cons y).trans (.swap x y ys)

theorem rank_perm (es : List (UnitId × ClaimEntry)) : (rank es).Perm es := by
  induction es with
  | nil => exact .refl _
  | cons e es ih => exact (insertRanked_perm e _).trans (ih.cons e)

/-- An entry put before the first that it outranks keeps the order. -/
theorem insertRanked_pairwise {x : UnitId × ClaimEntry} {ys : List (UnitId × ClaimEntry)}
    (hx : ∀ y ∈ ys, x.2.id ≠ y.2.id) (h : ys.Pairwise (fun a b => ranksBefore a b = true)) :
    (insertRanked x ys).Pairwise (fun a b => ranksBefore a b = true) := by
  induction ys with
  | nil => exact List.pairwise_singleton _ x
  | cons y ys ih =>
    obtain ⟨hy, hys⟩ := List.pairwise_cons.mp h
    obtain ⟨hxy, hxys⟩ := List.forall_mem_cons.mp hx
    rw [insertRanked]
    split
    · rename_i hb
      exact List.pairwise_cons.mpr ⟨List.forall_mem_cons.mpr ⟨hb, fun z hz => ranksBefore_trans hb (hy z hz)⟩, h⟩
    · rename_i hb
      refine List.pairwise_cons.mpr ⟨fun z hz => ?_, ih hxys hys⟩
      obtain rfl | hz := List.mem_cons.mp ((insertRanked_perm x ys).mem_iff.mp hz)
      · exact ranksBefore_of_not hxy hb
      · exact hy z hz

theorem rank_pairwise {es : List (UnitId × ClaimEntry)} (h : (es.map (·.2.id)).Nodup) :
    (rank es).Pairwise (fun a b => ranksBefore a b = true) := by
  induction es with
  | nil => exact .nil
  | cons e es ih =>
    obtain ⟨he, hes⟩ := List.nodup_cons.mp h
    exact insertRanked_pairwise (fun y hy heq => he (List.mem_map.mpr ⟨y, (rank_perm es).mem_iff.mp hy, heq.symm⟩))
      (ih hes)

/-- The order in which the entries came does not enter. -/
theorem rank_eq_of_perm {es es' : List (UnitId × ClaimEntry)} (hp : es.Perm es') (h : (es.map (·.2.id)).Nodup) :
    rank es = rank es' :=
  List.Perm.eq_of_pairwise (fun _ _ _ _ hab hba => absurd hba (ranksBefore_asymm hab)) (rank_pairwise h)
    (rank_pairwise ((hp.map _).nodup_iff.mp h)) ((rank_perm es).trans (hp.trans (rank_perm es').symm))

/-- The owners do not enter. -/
theorem insertRanked_map_owner (g : UnitId → UnitId) (x : UnitId × ClaimEntry) (ys : List (UnitId × ClaimEntry)) :
    insertRanked (g x.1, x.2) (ys.map (fun e => (g e.1, e.2))) =
      (insertRanked x ys).map (fun e => (g e.1, e.2)) := by
  induction ys with
  | nil => rfl
  | cons y ys ih =>
    have hb : ranksBefore (g x.1, x.2) (g y.1, y.2) = ranksBefore x y := rfl
    rw [List.map_cons, insertRanked, insertRanked, hb, ih]
    split <;> rfl

theorem rank_map_owner (g : UnitId → UnitId) (es : List (UnitId × ClaimEntry)) :
    rank (es.map (fun e => (g e.1, e.2))) = (rank es).map (fun e => (g e.1, e.2)) := by
  induction es with
  | nil => rfl
  | cons e es ih => exact (congrArg (insertRanked _) ih).trans (insertRanked_map_owner g e (rank es))

/-! ### What is kept, and what a layout lists -/

/-- The entries kept have distinct service ids, none of those seen before (R22). -/
theorem keepFirst_ids (es : List (UnitId × ClaimEntry)) : ∀ seen : List ServiceId,
    ((keepFirst seen es).map (·.2.id)).Nodup ∧ ∀ e ∈ keepFirst seen es, e.2.id ∉ seen := by
  induction es with
  | nil => exact fun seen => ⟨.nil, nofun⟩
  | cons e es ih =>
    intro seen
    rw [keepFirst]
    split
    · exact ih seen
    · rename_i hseen
      obtain ⟨hnodup, hnew⟩ := ih (e.2.id :: seen)
      refine ⟨List.nodup_cons.mpr ⟨fun hmem => ?_, hnodup⟩, List.forall_mem_cons.mpr ⟨by simpa using hseen, fun y hy hs =>
        hnew y hy (List.mem_cons_of_mem _ hs)⟩⟩
      obtain ⟨y, hy, heq⟩ := List.mem_map.mp hmem
      exact hnew y hy (heq ▸ List.mem_cons_self)

/-- Each entry's turn keeps its owner and id. -/
theorem placeAll_owner_id (gov : Option AlertSummary) (es : List (UnitId × ClaimEntry)) :
    ∀ b, (placeAll gov b es).1.map (fun x => (x.owner, x.id)) = es.map (fun e => (e.1, e.2.id)) := by
  induction es with
  | nil => exact fun _ => rfl
  | cons e es ih => exact fun b => congrArg ((e.1, e.2.id) :: ·) (ih _)

/-- The layout's service entries are the ladder's run over the rank, from the alert channel's blocks on. -/
theorem computeLayout_services (self : UnitId) (claims : List (UnitId × ClaimEntry)) (gov : Option AlertSummary) :
    (computeLayout self claims gov).layout.entries.drop (if gov.isSome then 1 else 0) =
      (placeAll gov ((gov.map (fun g => blockCount g.audioRate 8 1)).getD 0) (rankedOf claims)).1 := by
  cases gov <;> rfl

/-- Settles O56: the rank is the only order (`rank_perm`, `rank_pairwise`), and the layout and the directory follow
it. -/
theorem rankOrder : Obligations.RankOrder := by
  unfold Obligations.RankOrder
  refine ⟨fun es => ⟨rank_perm es, fun h => ?_⟩, fun es es' => rank_eq_of_perm, rank_map_owner,
    fun self claims gov => ⟨(keepFirst_ids _ []).1, ?_, fun g hg => by rw [hg]; rfl, computeLayout_services ..⟩,
    fun ensemble n l f i e he hi => ?_⟩
  · simpa only [ranksBefore_iff] using rank_pairwise h
  · rw [computeLayout_services, placeAll_owner_id]
    rfl
  · exact half_frameDirectory_position ensemble n l _ hi (e := (e, f e)) (by rw [List.getElem?_map, he]; rfl)

end Sys2Proof.Machine
end

section
/-! PROOFS. The claim set and the governing alert at a frame (R21, R170). -/

namespace Sys2Proof.Machine

/-! ### The claim set -/

/-- What a slot gives: the entries of the claim that is in force at the frame, unless it is ABSENT or removed. -/
theorem mem_slotEntries (p : PeerSlot) (n : FrameNo) (e : ClaimEntry) : e ∈ slotEntries p n ↔
    p.state ≠ .absent ∧ (∀ f, p.removal = some f → later f n = true) ∧
    ((∃ c, p.waiting = some c ∧ later c.frame n = false ∧ e ∈ c.entries) ∨
      ((∀ c, p.waiting = some c → later c.frame n = true) ∧ ∃ c, p.inForce = some c ∧ e ∈ c.entries)) := by
  have hforce : e ∈ (p.inForce.map (·.entries)).getD [] ↔ ∃ c, p.inForce = some c ∧ e ∈ c.entries := by
    cases p.inForce <;> simp
  have hout : (p.state = .absent || p.removal.any (fun r => !later r n)) = true ↔
      ¬(p.state ≠ .absent ∧ ∀ f, p.removal = some f → later f n = true) := by
    cases p.removal with
    | none => simp
    | some f => simp; tauto
  unfold slotEntries
  by_cases hin : p.state ≠ .absent ∧ ∀ f, p.removal = some f → later f n = true
  · rw [if_neg (fun h => hout.mp h hin), ← and_assoc, and_iff_right hin]
    cases p.waiting with
    | none => simp [hforce]
    | some c => cases hl : later c.frame n <;> simp [hforce, hl]
  · rw [if_pos (hout.mpr hin)]
    exact iff_of_false List.not_mem_nil (fun ⟨hstate, hremoval, _⟩ => hin ⟨hstate, hremoval⟩)

theorem mem_unitIds : ∀ u : UnitId, u ∈ unitIds := by decide

theorem mem_claimSet (slots : Vector PeerSlot 8) (n : FrameNo) (u : UnitId) (e : ClaimEntry) :
    (u, e) ∈ claimSet slots n ↔ e ∈ slotEntries slots[u] n := by
  simp [claimSet, mem_unitIds]

theorem claimSet_ascending (slots : Vector PeerSlot 8) (n : FrameNo) :
    ((claimSet slots n).map (·.1)).Pairwise (· ≤ ·) := by
  rw [List.pairwise_map, claimSet, List.pairwise_flatMap]
  constructor
  · intro u _
    rw [List.pairwise_map]
    exact List.pairwise_of_forall (fun _ _ => le_refl u)
  · refine (by decide : unitIds.Pairwise (· ≤ ·)).imp fun {u v} huv x hx y hy => ?_
    obtain ⟨_, -, rfl⟩ := List.mem_map.mp hx
    obtain ⟨_, -, rfl⟩ := List.mem_map.mp hy
    exact huv

/-! ### The governing alert -/

/-- The record that governs of two, `a` the one found so far. -/
def better (n : FrameNo) (acc : Option AlertRecord) (r : AlertRecord) : Option AlertRecord :=
  acc.elim (some r) (fun a => if governsBefore n r a then some r else some a)

theorem governingRecord_eq (t : List AlertRecord) (n : FrameNo) :
    governingRecord t n = (t.filter (governCandidate n)).foldl (better n) none := by
  unfold governingRecord
  congr 1
  funext acc r
  cases acc <;> rfl

/-- With a candidate found, the fold finds one. -/
theorem foldl_better_mem (n : FrameNo) (l : List AlertRecord) :
    ∀ a, ∃ x ∈ a :: l, l.foldl (better n) (some a) = some x := by
  induction l with
  | nil => exact fun a => ⟨a, List.mem_cons_self, rfl⟩
  | cons r l ih =>
    intro a
    rw [List.foldl_cons, better, Option.elim_some]
    split
    · obtain ⟨x, hx, hfold⟩ := ih r
      exact ⟨x, List.mem_cons_of_mem _ hx, hfold⟩
    · obtain ⟨x, hx, hfold⟩ := ih a
      exact ⟨x, List.cons_subset_cons a (List.subset_cons_self r l) hx, hfold⟩

/-- Where governing is the order of a key, the record found has the least key. -/
theorem foldl_better_least {K : Type} [LinearOrder K] {n : FrameNo} {key : AlertRecord → K} {x : AlertRecord}
    {l : List AlertRecord} : ∀ {a : AlertRecord},
      (∀ y ∈ a :: l, ∀ z ∈ a :: l, governsBefore n y z = true ↔ key y < key z) →
      l.foldl (better n) (some a) = some x → ∀ y ∈ a :: l, key x ≤ key y := by
  induction l with
  | nil =>
    intro a _ hx y hy
    obtain rfl := Option.some.inj hx
    rw [List.mem_singleton.mp hy]
  | cons r l ih =>
    intro a h hx
    obtain ⟨ha, hr, hl⟩ : (∀ y ∈ a :: l, y ∈ a :: r :: l) ∧ r ∈ a :: r :: l ∧ ∀ y ∈ r :: l, y ∈ a :: r :: l :=
      ⟨List.cons_subset_cons a (List.subset_cons_self r l), by simp, List.subset_cons_self a _⟩
    have hra := h r hr a List.mem_cons_self
    rw [List.foldl_cons, better, Option.elim_some] at hx
    simp only [List.forall_mem_cons]
    by_cases hb : governsBefore n r a = true
    · rw [if_pos hb] at hx
      have hleast := List.forall_mem_cons.mp (ih (fun y hy z hz => h y (hl y hy) z (hl z hz)) hx)
      exact ⟨hleast.1.trans (hra.mp hb).le, hleast⟩
    · rw [if_neg hb] at hx
      obtain ⟨hxa, hleast⟩ := List.forall_mem_cons.mp (ih (fun y hy z hz => h y (ha y hy) z (ha z hz)) hx)
      exact ⟨hxa, hxa.trans (not_lt.mp (mt hra.mpr hb)), hleast⟩

/-- R170's order as a key, starts counted from a frame `base` not later than any. -/
def governKey (n base : FrameNo) (r : AlertRecord) : ℕ ×ₗ ℕ ×ₗ ℕ ×ₗ ℕ ×ₗ ℕ :=
  toLex ((valuesAt r n).test.toNat, toLex ((valuesAt r n).urgency, toLex ((r.start - base).toNat,
    toLex (r.id.unit.toNat, r.id.serial.toNat))))

/-- Of starts within half the number range, the later one is the one further from the first. -/
theorem later_iff_of_within {a b base : FrameNo} (ha : (a - base).toNat < 8388608) (hb : (b - base).toNat < 8388608) :
    later b a = true ↔ (a - base).toNat < (b - base).toNat := by
  rw [later_iff]
  bv_omega

theorem governsBefore_iff_key {n base : FrameNo} {a b : AlertRecord} (ha : (a.start - base).toNat < 8388608)
    (hb : (b.start - base).toNat < 8388608) : governsBefore n a b = true ↔ governKey n base a < governKey n base b := by
  have hstart : a.start = b.start ↔ (a.start - base).toNat = (b.start - base).toNat := by
    rw [BitVec.toNat_inj, sub_left_inj]
  unfold governsBefore governKey
  simp only [Prod.Lex.toLex_lt_toLex, ← hstart, ← later_iff_of_within ha hb, idBefore, BitVec.toNat_inj]
  by_cases htest : (valuesAt a n).test = (valuesAt b n).test
  · by_cases hurgency : (valuesAt a n).urgency = (valuesAt b n).urgency
    · by_cases hs : a.start = b.start
      · simp [htest, hurgency, hs, later_self]
      · simp [htest, hurgency, hs]
    · simp [htest, hurgency]
  · revert htest
    cases (valuesAt a n).test <;> cases (valuesAt b n).test <;> simp

theorem governCandidate_iff (n : FrameNo) (y : AlertRecord) : governCandidate n y = true ↔
    later y.start n = false ∧ ∀ e, y.stop = some e → later e.frame n = true := by
  cases h : y.stop <;> simp [governCandidate, h]

/-- The record that governs is the fold's, from the first candidate on. -/
theorem governingRecord_cases (t : List AlertRecord) (n : FrameNo) :
    (t.filter (governCandidate n) = [] ∧ governingRecord t n = none) ∨
    ∃ a l, t.filter (governCandidate n) = a :: l ∧ governingRecord t n = l.foldl (better n) (some a) := by
  rw [governingRecord_eq]
  cases t.filter (governCandidate n) with
  | nil => exact .inl ⟨rfl, rfl⟩
  | cons a l => exact .inr ⟨a, l, rfl, rfl⟩

theorem governing_eq_none_iff (t : List AlertRecord) (n : FrameNo) :
    governing t n = none ↔ ∀ y ∈ t, ¬governCandidate n y = true := by
  rw [governing, Option.map_eq_none_iff, ← List.filter_eq_nil_iff]
  obtain ⟨hnil, hnone⟩ | ⟨a, l, hcons, hfold⟩ := governingRecord_cases t n
  · exact iff_of_true hnone hnil
  · obtain ⟨x, -, hx⟩ := foldl_better_mem n l a
    exact iff_of_false (by simp [hfold, hx]) (by simp [hcons])

theorem governingRecord_mem {t : List AlertRecord} {n : FrameNo} {x : AlertRecord} (h : governingRecord t n = some x) :
    x ∈ t ∧ governCandidate n x = true := by
  obtain ⟨-, hnone⟩ | ⟨a, l, hcons, hfold⟩ := governingRecord_cases t n
  · rw [hnone] at h
    cases h
  · obtain ⟨y, hy, hfound⟩ := foldl_better_mem n l a
    rw [hfold, hfound] at h
    obtain rfl := Option.some.inj h
    exact List.mem_filter.mp (hcons ▸ hy)

/-- Of the candidates the governing record has the least key. -/
theorem governingRecord_least {t : List AlertRecord} {n base : FrameNo} {x : AlertRecord}
    (h : governingRecord t n = some x) (hbase : ∀ y ∈ t, (y.start - base).toNat < 8388608) :
    ∀ y ∈ t, governCandidate n y = true → governKey n base x ≤ governKey n base y := by
  intro y hy hopen
  have hmem : y ∈ t.filter (governCandidate n) := List.mem_filter.mpr ⟨hy, hopen⟩
  obtain ⟨hnil, -⟩ | ⟨a, l, hcons, hfold⟩ := governingRecord_cases t n
  · rw [hnil] at hmem
    cases hmem
  · have hwithin : ∀ z ∈ a :: l, (z.start - base).toNat < 8388608 :=
      fun z hz => hbase z (List.mem_of_mem_filter (hcons ▸ hz))
    exact foldl_better_least (fun z hz w hw => governsBefore_iff_key (hwithin z hz) (hwithin w hw))
      (hfold ▸ h) y (hcons ▸ hmem)

/-- What the least key says: no test before a test, then the lowest urgency, the earliest start, the lowest id. -/
theorem governKey_le {n base : FrameNo} {x y : AlertRecord} (hx : (x.start - base).toNat < 8388608)
    (hy : (y.start - base).toNat < 8388608) (h : governKey n base x ≤ governKey n base y) :
    let v := valuesAt x n
    let w := valuesAt y n
    (v.test = true → w.test = true) ∧ (v.test = w.test → v.urgency ≤ w.urgency ∧
      (v.urgency = w.urgency → later x.start y.start = false ∧
        (x.start = y.start → x.id.unit.toNat < y.id.unit.toNat ∨
          (x.id.unit = y.id.unit ∧ x.id.serial.toNat ≤ y.id.serial.toNat)))) := by
  simp only [governKey, Prod.Lex.toLex_le_toLex] at h
  refine ⟨fun hv => ?_, fun ht => ⟨?_, fun hu => ?_⟩⟩
  · rw [hv] at h
    revert h
    cases (valuesAt y n).test <;> simp
  · rw [ht] at h
    omega
  · rw [ht, hu] at h
    rw [← Bool.not_eq_true, later_iff_of_within hy hx]
    refine ⟨by omega, fun hs => ?_⟩
    rw [hs] at h
    rw [← BitVec.toNat_inj]
    omega

end Sys2Proof.Machine
end

section
/-! PROOFS. The frame store: arrivals, the opening of a slot, the seal, and the turns of a boundary at PLE and ASM (R30,
R32, R33, R88 to R98). -/

namespace Sys2Proof.Machine

theorem computing_iff (u : UnitState) : u.computing = true ↔ u = .joining ∨ u = .onAir ∨ u = .isolated := by
  cases u <;> simp [UnitState.computing]

theorem slotAt_eq (s : State) (n : FrameNo) : slotAt s n = s.asm.slots[slotOf n] := rfl

/-! ### Arrivals -/

/-- The unit computes layouts, and frame `n` runs with lead `lead`: what decides how an arrival is judged (R90). -/
structure Receiving (n : FrameNo) (lead : Nat) (s : State) : Prop where
  computing : s.pvw.unit.computing = true
  now       : s.ftu.now = some n
  lead      : leadOf s = lead

/-- An arrival for now + L is tested against the frame's entries. -/
theorem arrive_of_receiving {n : FrameNo} {lead : Nat} {s : State} {a : Arrival} (h : Receiving n lead s)
    (h3 : 3 ≤ lead) (h12 : lead ≤ 12) (ha : a.frame = plus n lead) : arrive a s = testEntry a s := by
  have hlate : (!later (plus n lead) (plus n 1)) = false := by
    rw [Bool.not_eq_false', later_iff]
    unfold plus
    bv_omega
  have hearly : ¬later (plus n lead) (plus n (lead + 1)) = true := by
    rw [later_iff]
    unfold plus
    bv_omega
  have hheld : plus n lead ≠ plus n (lead + 1) := by
    unfold plus
    bv_omega
  unfold arrive
  rw [h.computing, h.now]
  simp only [h.lead, ha]
  rw [hlate, if_neg Bool.false_ne_true, if_neg hearly, if_neg hheld]

/-- The entry tests change nothing outside ASM. -/
theorem testEntry_eq (a : Arrival) (s : State) : testEntry a s = { s with asm := (testEntry a s).asm } := by
  unfold testEntry
  split
  · split_ifs
    · split <;> rfl
    · rfl
  · rfl

theorem testEntry_receiving {n : FrameNo} {lead : Nat} {s : State} (a : Arrival) (h : Receiving n lead s) :
    Receiving n lead (testEntry a s) := by
  rw [testEntry_eq]
  exact ⟨h.computing, h.now, h.lead⟩

/-- Arrivals for now + L that come one after the other. -/
theorem foldl_arrive {n : FrameNo} {lead : Nat} (h3 : 3 ≤ lead) (h12 : lead ≤ 12) (as : List Arrival) :
    ∀ s, Receiving n lead s → (∀ a ∈ as, a.frame = plus n lead) →
      as.foldl (fun t a => arrive a t) s = as.foldl (fun t a => testEntry a t) s := by
  induction as with
  | nil => exact fun _ _ _ => rfl
  | cons a as ih =>
    intro s h has
    rw [List.foldl_cons, List.foldl_cons, arrive_of_receiving h h3 h12 (has a List.mem_cons_self)]
    exact ih _ (testEntry_receiving a h) (fun x hx => has x (List.mem_cons_of_mem _ hx))

/-- The entry tests on an arrival whose service has a placed entry of the sender's. -/
theorem testEntry_entry {a : Arrival} {s : State} {l : Layout} {before after : List StoreEntry} {y : StoreEntry}
    (h : s.asm.slots[slotOf a.frame] = .opened a.frame l (before ++ y :: after)) (hy : isEntryOf a y = true)
    (hb : ∀ x ∈ before, isEntryOf a x = false) :
    testEntry a s = countAsm (countJudged (judgeEntry a y))
      (setSlot a.frame (.opened a.frame l (before ++ fileEntry a y :: after)) s) := by
  have hfind : (before ++ y :: after).find? (isEntryOf a) = some y := by
    rw [List.find?_append, List.find?_eq_none.mpr (fun x hx => by simp [hb x hx]), Option.none_or,
      List.find?_cons_of_pos hy]
  unfold testEntry
  rw [slotAt_eq, h]
  simp only [if_true, hfind, modifyFirst_append _ _ _ _ _ hb hy]

/-- An arrival of the entry's payload size fills an EMPTY entry. -/
theorem testEntry_files {a : Arrival} {c : Contribution} {s : State} {l : Layout} {before after : List StoreEntry}
    {y : StoreEntry} (h : s.asm.slots[slotOf a.frame] = .opened a.frame l (before ++ y :: after))
    (hy : isEntryOf a y = true) (hb : ∀ x ∈ before, isEntryOf a x = false) (hc : a.content = some c)
    (he : y.filing = .empty) (hlen : c.payload.length = 5 * (y.audioRate + y.side)) :
    testEntry a s = { s with asm.slots := s.asm.slots.set (slotOf a.frame) (.opened a.frame l (before ++ { y with
      filing := .filled a.sender ⟨!c.audioVoid, c.payload.take (5 * y.audioRate)⟩
        ⟨!c.sideVoid, c.payload.drop (5 * y.audioRate)⟩ } :: after)) } := by
  have hj : judgeEntry a y = .filed := by
    rw [judgeEntry, if_neg (by simp [he]), hc]
    exact if_neg (by simp [payloadSize, hlen])
  rw [testEntry_entry h hy hb, hj, fileEntry, hj, hc]
  rfl

/-- A second arrival for an entry is counted and changes nothing. -/
theorem testEntry_duplicate {a : Arrival} {s : State} {l : Layout} {before after : List StoreEntry} {y : StoreEntry}
    (h : s.asm.slots[slotOf a.frame] = .opened a.frame l (before ++ y :: after)) (hy : isEntryOf a y = true)
    (hb : ∀ x ∈ before, isEntryOf a x = false) (he : y.filing ≠ .empty) :
    testEntry a s = { s with asm.counters := { s.asm.counters with duplicate := bump s.asm.counters.duplicate } } := by
  have hj : judgeEntry a y = .duplicate := if_pos he
  have hf : fileEntry a y = y := by
    rw [fileEntry, hj]
  have hset : setSlot a.frame (.opened a.frame l (before ++ y :: after)) s = s := by
    rw [setSlot, ← h]
    simp
  rw [testEntry_entry h hy hb, hj, hf, hset]
  rfl

/-! ### The computation and the slot it opens -/

/-- The layout that unit `r` computes for frame `f`. -/
def layoutFor (f : FrameNo) (r : State) : Computed :=
  computeLayout (selfOf r) (claimSet r.pvw.slots f) (governing r.alc.table f)

/-- `r` after the computation for frame `f`, the frame's slot opened with EMPTY entries. -/
def openedFor (f : FrameNo) (r : State) : State :=
  let c := layoutFor f r
  { r with
    ple := pleAfter r.ple f c
    asm := { r.asm with slots := r.asm.slots.set (slotOf f) (.opened f c.layout
      ((c.layout.entries.filter (fun e => e.placement != .unplaced)).map (fun e =>
        ⟨e.id, e.owner, e.audioRate, e.side, .empty⟩))) }
    sup := if c.ownParty then supWith .duplicateId r else r.sup }

/-- `r` after the computation, before the slot is opened. -/
def computedFor (f : FrameNo) (r : State) : State :=
  if (layoutFor f r).ownParty then raiseFlag .duplicateId { r with ple := pleAfter r.ple f (layoutFor f r) }
  else { r with ple := pleAfter r.ple f (layoutFor f r) }

theorem computeAt_eq (f : FrameNo) (r : State) : computeAt f r = openSlot f (layoutFor f r).layout (computedFor f r) :=
  rfl

theorem computedFor_eq (f : FrameNo) (r : State) : computedFor f r = { r with
    ple := pleAfter r.ple f (layoutFor f r)
    sup := if (layoutFor f r).ownParty then supWith .duplicateId r else r.sup } := by
  unfold computedFor
  split_ifs <;> rfl

theorem setSlot_computedFor (f : FrameNo) (r : State) :
    setSlot f (.opened f (layoutFor f r).layout
      (((layoutFor f r).layout.entries.filter (·.isPlaced)).map storeEntry)) (computedFor f r) = openedFor f r := by
  rw [computedFor_eq]
  rfl

theorem slotAt_computedFor (f : FrameNo) (r : State) : slotAt (computedFor f r) f = r.asm.slots[slotOf f] := by
  rw [computedFor_eq]
  rfl

theorem computeAt_of_free {f : FrameNo} {r : State} (h : r.asm.slots[slotOf f] = .free) :
    computeAt f r = openedFor f r := by
  rw [computeAt_eq, openSlot, slotAt_computedFor, h, setSlot_computedFor]
  rfl

/-- The arrivals that wait for the frame are tested when its slot opens. -/
theorem computeAt_of_waiting {f : FrameNo} {r : State} {as : List Arrival}
    (h : r.asm.slots[slotOf f] = .waiting f as) :
    computeAt f r = as.foldl (fun t a => testEntry a t) (openedFor f r) := by
  rw [computeAt_eq, openSlot, slotAt_computedFor, h, setSlot_computedFor]
  simp only [if_true]

/-- What the slot held before does not enter. -/
theorem computeAt_freed (f : FrameNo) (r : State) :
    computeAt f { r with asm.slots := r.asm.slots.set (slotOf f) .free } = openedFor f r := by
  rw [computeAt_of_free (Vector.getElem_set_self _)]
  unfold openedFor
  simp only [Vector.set_set]
  rfl

/-- A layout is computed for a frame that is later than the last (R30). -/
def Fresh (f : FrameNo) (r : State) : Prop :=
  (r.pvw.unit = .joining ∨ r.pvw.unit = .onAir ∨ r.pvw.unit = .isolated) ∧
    ∀ h, r.ple.last = some h → later f h = true

theorem fresh_iff (f : FrameNo) (r : State) :
    (r.pvw.unit.computing && r.ple.last.all (fun h => later f h)) = true ↔ Fresh f r := by
  rw [Bool.and_eq_true, computing_iff, Option.all_eq_true]
  rfl

theorem computeStep_of_fresh {n : FrameNo} {r : State} (h : Fresh (plus n (leadOf r)) r) :
    computeStep n r = computeAt (plus n (leadOf r)) r := if_pos ((fresh_iff _ r).mpr h)

theorem computeStep_of_not_fresh {n : FrameNo} {r : State} (h : ¬Fresh (plus n (leadOf r)) r) : computeStep n r = r :=
  if_neg (mt (fresh_iff _ r).mp h)

/-- Arrivals that wait are classified as if they came when the slot has opened (R92). -/
theorem computeStep_of_waiting {r : State} {n : FrameNo} {as : List Arrival} (hn : r.ftu.now = some n)
    (h3 : 3 ≤ leadOf r) (h12 : leadOf r ≤ 12) (hu : r.pvw.unit.computing = true)
    (hlast : ∀ h, r.ple.last = some h → later (plus n (leadOf r)) h = true)
    (hslot : r.asm.slots[slotOf (plus n (leadOf r))] = .waiting (plus n (leadOf r)) as)
    (has : ∀ a ∈ as, a.frame = plus n (leadOf r)) :
    computeStep n r = as.foldl (fun t a => arrive a t)
      (computeStep n { r with asm.slots := r.asm.slots.set (slotOf (plus n (leadOf r))) .free }) := by
  have hfresh : Fresh (plus n (leadOf r)) r := ⟨(computing_iff _).mp hu, hlast⟩
  have hfree : computeStep n { r with asm.slots := r.asm.slots.set (slotOf (plus n (leadOf r))) .free } =
      openedFor (plus n (leadOf r)) r := by
    rw [computeStep_of_fresh (by exact hfresh)]
    exact computeAt_freed _ r
  rw [computeStep_of_fresh hfresh, computeAt_of_waiting hslot, hfree,
    foldl_arrive h3 h12 as (openedFor _ r) ⟨hu, hn, rfl⟩ has]

/-! ### The chain with a new layout, and the chain pruned -/

theorem chainWith_same {chain : List (FrameNo × Layout)} {n : FrameNo} {l : Layout} {x : FrameNo × Layout}
    (h : chain.getLast? = some x) (hs : x.2.summary = l.summary) (he : x.2.entries = l.entries) :
    chainWith chain n l = (chain, false) := by
  rw [chainWith, h]
  exact if_pos (by simp [sameLayout, hs, he])

theorem chainWith_new {chain : List (FrameNo × Layout)} {n : FrameNo} {l : Layout}
    (h : chain = [] ∨ ∃ x, chain.getLast? = some x ∧ (x.2.summary ≠ l.summary ∨ x.2.entries ≠ l.entries)) :
    chainWith chain n l = (chain ++ [(n, l)], true) := by
  obtain rfl | ⟨x, hx, hne⟩ := h
  · rfl
  · rw [chainWith, hx]
    exact if_neg (by obtain h | h := hne <;> simp [sameLayout, h])

/-- The pairs that leave each have a successor in force; the second oldest of those that stay is not (R33). -/
theorem pruneChain_split (n : FrameNo) (chain : List (FrameNo × Layout)) : ∃ gone, chain = gone ++ pruneChain n chain ∧
    (∀ x y l, pruneChain n chain = x :: y :: l → later y.1 n = true) ∧ (chain ≠ [] → pruneChain n chain ≠ []) ∧
    ∀ a x b, gone = a ++ x :: b → ∃ y l, b ++ pruneChain n chain = y :: l ∧ later y.1 n = false := by
  induction chain with
  | nil => exact ⟨[], rfl, nofun, id, by simp⟩
  | cons p chain ih =>
    obtain _ | ⟨q, rest⟩ := chain
    · exact ⟨[], rfl, nofun, id, by simp⟩
    · by_cases hq : later q.1 n = true
      · have hkept : pruneChain n (p :: q :: rest) = p :: q :: rest := if_pos hq
        rw [hkept]
        refine ⟨[], rfl, fun x y l h => ?_, id, by simp⟩
        obtain ⟨-, h⟩ := List.cons.inj h
        obtain ⟨rfl, -⟩ := List.cons.inj h
        exact hq
      · have hkept : pruneChain n (p :: q :: rest) = pruneChain n (q :: rest) := if_neg hq
        rw [hkept]
        obtain ⟨gone, hsplit, hsecond, hnonempty, hgone⟩ := ih
        refine ⟨p :: gone, congrArg (p :: ·) hsplit, hsecond, fun _ => hnonempty nofun, fun a x b h => ?_⟩
        obtain _ | ⟨y, a⟩ := a
        · obtain ⟨-, rfl⟩ := List.cons.inj h
          exact ⟨q, rest, hsplit.symm, Bool.eq_false_iff.mpr hq⟩
        · obtain ⟨-, h⟩ := List.cons.inj h
          exact hgone a x b h

/-! ### The slot freed -/

theorem freeSlot_of_other {n : FrameNo} {t : State} (h : t.asm.slots[slotOf (n - 1)] = .free ∨
    (∃ m l, m ≠ n - 1 ∧ t.asm.slots[slotOf (n - 1)] = .waiting m l) ∨
    (∃ m l es, m ≠ n - 1 ∧ t.asm.slots[slotOf (n - 1)] = .opened m l es) ∨
    ∃ m d ps, m ≠ n - 1 ∧ t.asm.slots[slotOf (n - 1)] = .sealed m d ps) : freeSlot n t = t := by
  unfold freeSlot
  obtain h | ⟨m, l, hm, h⟩ | ⟨m, l, es, hm, h⟩ | ⟨m, d, ps, hm, h⟩ := h
  · simp only [slotAt_eq, h, Bool.false_eq_true, if_false]
  all_goals simp only [slotAt_eq, h, hm, decide_false, Bool.false_eq_true, if_false]

theorem freeSlot_of_waiting {n : FrameNo} {t : State} {l : List Arrival}
    (h : t.asm.slots[slotOf (n - 1)] = .waiting (n - 1) l) : freeSlot n t = { t with asm := { t.asm with
      slots := t.asm.slots.set (slotOf (n - 1)) .free
      counters := { t.asm.counters with ignoredByState := bumpBy t.asm.counters.ignoredByState l.length } } } := by
  unfold freeSlot
  simp only [slotAt_eq, h, decide_true, if_true]
  rfl

theorem freeSlot_of_held {n : FrameNo} {t : State} (h : (∃ l es, t.asm.slots[slotOf (n - 1)] = .opened (n - 1) l es) ∨
    ∃ d ps, t.asm.slots[slotOf (n - 1)] = .sealed (n - 1) d ps) :
    freeSlot n t = { t with asm.slots := t.asm.slots.set (slotOf (n - 1)) .free } := by
  unfold freeSlot
  obtain ⟨l, es, h⟩ | ⟨d, ps, h⟩ := h <;>
    simp only [slotAt_eq, h, decide_true, if_true, waitingArrivals, countAsm, bumpBy_zero] <;> rfl

/-! ### The seal -/

/-- Counting a substitution touches the two tables of rows alone (R99). -/
theorem countSubstitution_eq (x : Sealed) (a : Asm) : countSubstitution x a =
    { a with rows := (countSubstitution x a).rows, otherRow := (countSubstitution x a).otherRow } := by
  unfold countSubstitution
  split_ifs <;> rfl

theorem countSubstitutions_eq (xs : List Sealed) : ∀ a : Asm, ∃ rows otherRow,
    xs.foldl (fun a x => countSubstitution x a) a = { a with rows := rows, otherRow := otherRow } := by
  induction xs with
  | nil => exact fun a => ⟨a.rows, a.otherRow, rfl⟩
  | cons x xs ih =>
    intro a
    rw [List.foldl_cons, countSubstitution_eq]
    exact ih _

theorem sealFrame_of_opened {n : FrameNo} {r : State} {l : Layout} {es : List StoreEntry}
    (h : r.asm.slots[slotOf n] = .opened n l es) : sealFrame n r = sealOpen n l es r := by
  unfold sealFrame
  rw [slotAt_eq, h]
  exact if_pos rfl

/-- The directory that the seal writes: the layout's, with the flags of its placed entries (R98). -/
def sealedDirectory (n : FrameNo) (l : Layout) (es : List StoreEntry) (r : State) : List Byte :=
  frameDirectory (ensembleOf r) n l (l.entries.map (fun e =>
    (e, if e.isPlaced then flagOf (es.map (sealEntry r.asm.hold)) e.id else .clear)))

/-- A seal changes ASM alone: the slot, the hold table, two counters and the rows. -/
theorem sealOpen_eq (n : FrameNo) (l : Layout) (es : List StoreEntry) (r : State) :
    let xs := es.map (sealEntry r.asm.hold)
    ∃ rows otherRow, sealOpen n l es r = { r with asm := { r.asm with
      slots := r.asm.slots.set (slotOf n) (.sealed n (sealedDirectory n l es r) (xs.map (fun x => x.audio ++ x.side)))
      hold := xs.map (·.record), rows := rows, otherRow := otherRow
      counters := { r.asm.counters with
        sealed := bump r.asm.counters.sealed
        impaired := if ∃ x ∈ xs, x.flag ≠ .clear then bump r.asm.counters.impaired else r.asm.counters.impaired } } } := by
  intro xs
  obtain ⟨rows, otherRow, hrows⟩ := countSubstitutions_eq xs r.asm
  have himpaired : (xs.any (fun x => x.flag != .clear)) = decide (∃ x ∈ xs, x.flag ≠ .clear) := by
    rw [Bool.eq_iff_iff, decide_eq_true_iff]
    simp
  refine ⟨rows, otherRow, ?_⟩
  unfold sealOpen
  simp only [himpaired, bumpBy_bit, decide_eq_true_eq, show es.map (sealEntry r.asm.hold) = xs from rfl, hrows]
  rfl

/-- The position of a layout entry in a sealed directory. -/
theorem slice_sealedDirectory {n : FrameNo} {l : Layout} {es : List StoreEntry} {r : State} {i : Nat} (hi : i < 41)
    {e : LayoutEntry} (he : l.entries[i]? = some e) : slice (sealedDirectory n l es r) (35 + 8 * i) 8 = entryBytes e
      (if e.placement = .unplaced then .clear
        else (((es.map (sealEntry r.asm.hold)).find? (fun x => x.record.service = e.id)).map (·.flag)).getD .clear) := by
  rw [sealedDirectory, slice_frameDirectory_position _ _ _ _ hi,
    slice_entryArea hi (by rw [List.getElem?_map, he, Option.map_some])]
  cases h : e.placement <;> simp [LayoutEntry.isPlaced, h, flagOf]

theorem slice_sealedDirectory_rest {n : FrameNo} {l : Layout} {es : List StoreEntry} {r : State} {i : Nat} (hi : i < 41)
    (h : l.entries.length ≤ i) : slice (sealedDirectory n l es r) (35 + 8 * i) 8 = List.replicate 8 0 := by
  rw [sealedDirectory, slice_frameDirectory_position _ _ _ _ hi, slice_entryArea_rest hi (by rwa [List.length_map])]

/-- Any other slot is sealed as an empty frame. -/
theorem sealFrame_of_other {n : FrameNo} {r : State} (h : ∀ l es, r.asm.slots[slotOf n] ≠ .opened n l es) :
    sealFrame n r = sealEmpty n r := by
  unfold sealFrame
  rw [slotAt_eq]
  split
  · rename_i m l es hm
    refine if_neg ?_
    rintro rfl
    exact h l es hm
  · rfl

end Sys2Proof.Machine
end

section
/-! PROOFS. Production: the contribution of a service and of the alert channel, handed in and filed (R83 to R87, R93). -/

namespace Sys2Proof.Machine

/-! ### Flags that stay -/

theorem flagSet_raiseFlag_iff (f g : Flag) (s : State) :
    flagSet f (raiseFlag g s) = true ↔ flagSet f s = true ∨ g.mask &&& f.mask ≠ 0 := by
  simp only [flagSet, bne_iff_ne, ne_eq, raiseFlag_flags]
  rw [BitVec.and_or_distrib_right, ← not_and_or]
  exact not_congr BitVec.or_eq_zero_iff

theorem flagSet_raiseFlag {f : Flag} {s : State} (g : Flag) (h : flagSet f s = true) :
    flagSet f (raiseFlag g s) = true := (flagSet_raiseFlag_iff f g s).mpr (.inl h)

theorem flagSet_raiseFlag_self (f : Flag) (s : State) : flagSet f (raiseFlag f s) = true :=
  (flagSet_raiseFlag_iff f f s).mpr (.inr (by cases f <;> decide))

/-- A flag raised on a condition, as a change of the flags alone. -/
theorem raiseFlag_if (b : Bool) (f : Flag) (s : State) :
    (if b then raiseFlag f s else s) = { s with sup := if b then supWith f s else s.sup } := by cases b <;> rfl

/-! ### What a production can change once the audio is taken -/

/-- `t` is `s` but for TXC, PIC, LKP, ASM and the flags, and no flag is cleared. -/
structure Supplied (s t : State) : Prop where
  same  : t = { s with txc := t.txc, pic := t.pic, lkp := t.lkp, asm := t.asm, sup := t.sup }
  flags : ∀ f, flagSet f s = true → flagSet f t = true

theorem Supplied.trans {s t u : State} (h : Supplied s t) (g : Supplied t u) : Supplied s u :=
  ⟨by rw [g.same, h.same], fun f hf => g.flags f (h.flags f hf)⟩

theorem Supplied.keeps {s t : State} (h : Supplied s t) : t.sin = s.sin ∧ t.cpr = s.cpr ∧ t.pvw = s.pvw ∧
    t.ftu = s.ftu ∧ t.ofr = s.ofr ∧ t.ple = s.ple ∧ t.alc = s.alc ∧ t.cfl = s.cfl := by
  rw [h.same]
  exact ⟨rfl, rfl, rfl, rfl, rfl, rfl, rfl, rfl⟩

theorem enqueue_supplied (p : TxPacket) (s : State) : Supplied s (enqueue p s).1 := by
  refine ⟨by rw [enqueue_eq], fun f hf => ?_⟩
  unfold enqueue
  dsimp only
  split_ifs
  · exact hf
  · exact hf
  all_goals exact flagSet_raiseFlag .txOverflow (by exact hf)

theorem handIn_supplied (p : TxPacket) (s : State) : Supplied s (handIn p s).1 :=
  (enqueue_supplied p s).trans ⟨by rw [handIn, serve_eq], fun f hf => by rw [handIn, serve_eq]; exact hf⟩

theorem holdArrival_eq (a : Arrival) (s : State) : holdArrival a s = { s with asm := (holdArrival a s).asm } := by
  unfold holdArrival
  split
  · rfl
  · split_ifs <;> rfl
  · rfl

theorem arrive_supplied (a : Arrival) (s : State) : Supplied s (arrive a s) := by
  unfold arrive
  split
  · split_ifs
    · exact ⟨rfl, fun f hf => flagSet_raiseFlag .contribLate (by exact hf)⟩
    · exact ⟨rfl, fun _ => id⟩
    · rw [holdArrival_eq]
      exact ⟨rfl, fun _ => id⟩
    · rw [testEntry_eq]
      exact ⟨rfl, fun _ => id⟩
  · exact ⟨rfl, fun _ => id⟩

theorem deliver_supplied (n : FrameNo) (id : ServiceId) (c : Contribution) (s : State) :
    Supplied s (deliver n id c s) := (handIn_supplied _ s).trans (arrive_supplied _ _)

theorem deliver_of_cfl {s r : State} (h : s.cfl = r.cfl) (n : FrameNo) (id : ServiceId) (c : Contribution) :
    deliver n id c s = arrive ⟨selfOf r, n, id, some c⟩ (handIn ⟨.contrib, n, id, contribBytes c⟩ s).1 := by
  rw [deliver, selfOf, h]
  rfl

/-- Giving a cell touches PIC alone. -/
theorem giveSegment_eq (k : ServiceIx) (x : PicRecord) (s : State) :
    (giveSegment k x s).1 = { s with pic := (giveSegment k x s).1.pic } := by
  unfold giveSegment endTurn
  dsimp only
  split_ifs <;> rfl

theorem requestPictures_eq (k : ServiceIx) (m : Nat) : ∀ (closed : List ObjectId) (s : State),
    (requestPictures k m closed s).1 = { s with pic := (requestPictures k m closed s).1.pic } := by
  induction m with
  | zero => exact fun _ _ => rfl
  | succ m ih =>
    intro closed s
    unfold requestPictures
    split
    · dsimp only
      rw [ih, giveSegment_eq]
    · split
      · rfl
      · dsimp only
        rw [ih, giveSegment_eq]
        rfl

theorem fillSide_supplied (k : ServiceIx) (cadence c : Nat) (s : State) :
    Supplied s (fillSide k cadence c s).1 := by
  unfold fillSide
  split_ifs
  · exact ⟨rfl, fun _ => id⟩
  · dsimp only
    rw [requestPictures_eq]
    exact ⟨rfl, fun _ => id⟩

/-! ### The side part -/

/-- One text cell at most, then pictures, then fill (R85). -/
theorem fillSide_of_pos {c : Nat} (hc : 0 < c) (k : ServiceIx) (cadence : Nat) (s : State) :
    let text := requestText cadence s.txc.carousels[k]
    let given := text.2.toList
    let pics := requestPictures k (c - given.length) [] { s with txc.carousels := s.txc.carousels.set k text.1 }
    fillSide k cadence c s = (pics.1, (given ++ pics.2 ++
      List.replicate (c - given.length - pics.2.length) (List.replicate 20 0)).flatten) := by
  intro text given pics
  rw [fillSide, if_neg (by omega), Nat.sub_sub, ← List.length_append]
  rfl

/-! ### A service's contribution -/

theorem takeAudio_eq (rate : Nat) (q : List (List Byte)) :
    takeAudio rate q = (q.headD (List.replicate (5 * rate) 0), decide (q = []), q.drop 1) := by cases q <;> rfl

/-- `r` after the audio of service `k` has been taken for frame `n`: the oldest unit, or an underrun. -/
def audioTaken (k : ServiceIx) (n : FrameNo) (r : State) : State :=
  let x := r.sin.services[k]
  let c := r.cpr.counters[k]
  let silent := decide (x.queue = [])
  { r with
    sin := { r.sin with services := r.sin.services.set k { x with queue := x.queue.drop 1 } }
    cpr := { r.cpr with
      last := r.cpr.last.set k (some n)
      counters := r.cpr.counters.set k ⟨bump c.produced, if silent then bump c.underruns else c.underruns⟩ }
    sup := if silent then supWith .underrun r else r.sup }

theorem notProduced_iff (last : Option FrameNo) (n : FrameNo) :
    notProduced last n = true ↔ ∀ f, last = some f → later n f = true := Option.all_eq_true ..

theorem produceService_of_due {k : ServiceIx} {n : FrameNo} {r : State} (e : LayoutEntry)
    (h : ∀ f, r.cpr.last[k] = some f → later n f = true) :
    let x := r.sin.services[k]
    let side := fillSide k (((serviceDef r k).map (·.cadence)).getD 1) (e.side / 4) (audioTaken k n r)
    produceService k n e r = deliver n e.id
      ⟨decide (x.queue = []), false, x.queue.headD (List.replicate (5 * e.audioRate) 0) ++ side.2⟩ side.1 := by
  unfold produceService
  rw [if_pos ((notProduced_iff _ n).mpr h)]
  simp only [takeAudio_eq, bumpBy_bit, raiseFlag_if]
  rfl

theorem produceService_of_made {k : ServiceIx} {n f : FrameNo} {r : State} (e : LayoutEntry)
    (hf : r.cpr.last[k] = some f) (h : later n f = false) : produceService k n e r = r :=
  if_neg (fun hd => by rw [(notProduced_iff _ n).mp hd f hf] at h; cases h)

/-- What a production does outside TXC, PIC, LKP and ASM is the taking of the audio. -/
theorem produceService_supplied {k : ServiceIx} {n : FrameNo} {r : State} (e : LayoutEntry)
    (h : ∀ f, r.cpr.last[k] = some f → later n f = true) : Supplied (audioTaken k n r) (produceService k n e r) := by
  rw [produceService_of_due e h]
  exact (fillSide_supplied _ _ _ _).trans (deliver_supplied _ _ _ _)

theorem audioTaken_underrun {k : ServiceIx} {n : FrameNo} {r : State} (h : r.sin.services[k].queue = []) :
    flagSet .underrun (audioTaken k n r) = true := by
  have hsup : (audioTaken k n r).sup = (raiseFlag .underrun r).sup := if_pos (decide_eq_true h)
  unfold flagSet
  rw [hsup]
  exact flagSet_raiseFlag_self .underrun r

/-! ### The alert channel's contribution -/

/-- `r` after the alert channel has taken its audio, at a rate above 0, and two cells of the message supplied. -/
def alertTaken (n : FrameNo) (e : LayoutEntry) (r : State) : State :=
  let q := r.sin.alertQueue
  let silent := decide (e.audioRate ≠ 0 ∧ q = [])
  let c := r.cpr.alertCounters
  { r with
    sin := { r.sin with alertQueue := if e.audioRate = 0 then q else q.drop 1 }
    txc := { r.txc with alert := (requestAlert (suppliedAlert n r) r.txc.alert).1 }
    cpr := { r.cpr with
      alertLast := some n
      alertCounters := ⟨bump c.produced, if silent then bump c.underruns else c.underruns⟩ }
    sup := if silent then supWith .underrun r else r.sup }

theorem produceAlert_of_due {n : FrameNo} {r : State} (e : LayoutEntry)
    (h : ∀ f, r.cpr.alertLast = some f → later n f = true) :
    let q := r.sin.alertQueue
    let cells := requestAlert (suppliedAlert n r) r.txc.alert
    let audio := if e.audioRate = 0 then [] else q.headD (List.replicate (5 * e.audioRate) 0)
    produceAlert n e r = deliver n e.id ⟨decide (e.audioRate ≠ 0 ∧ q = []), decide (cells.2 = []),
      audio ++ (cells.2 ++ List.replicate (2 - cells.2.length) (List.replicate 20 0)).flatten⟩ (alertTaken n e r) := by
  intro q cells audio
  have hempty : cells.2.isEmpty = decide (cells.2 = []) := by
    rw [Bool.eq_iff_iff, List.isEmpty_iff, decide_eq_true_iff]
  have htake : (if e.audioRate = 0 then ([], false, q) else takeAudio e.audioRate q) =
      (audio, decide (e.audioRate ≠ 0 ∧ q = []), if e.audioRate = 0 then q else q.drop 1) := by
    by_cases h0 : e.audioRate = 0
    · simp [audio, h0]
    · simp [audio, h0, takeAudio_eq]
  unfold produceAlert
  rw [if_pos ((notProduced_iff _ n).mpr h)]
  simp only [show r.sin.alertQueue = q from rfl, htake, bumpBy_bit, raiseFlag_if,
    show (requestAlert (suppliedAlert n r) r.txc.alert) = cells from rfl, hempty]
  rfl

theorem produceAlert_of_made {n f : FrameNo} {r : State} (e : LayoutEntry) (hf : r.cpr.alertLast = some f)
    (h : later n f = false) : produceAlert n e r = r :=
  if_neg (fun hd => by rw [(notProduced_iff _ n).mp hd f hf] at h; cases h)

/-! ### The production of a frame -/

theorem produce_of_none {n : FrameNo} {t : State} (h : layoutAt t.ple n = none ∨ t.ple.last ≠ some n) :
    produce n t = t := by
  unfold produce
  split
  · rename_i l hl
    rw [hl] at h
    exact if_neg (h.resolve_left nofun)
  · rfl

theorem produce_of_layout {n : FrameNo} {t : State} {l : Layout} (hl : layoutAt t.ple n = some l)
    (h : t.ple.last = some n) : produce n t =
      (l.entries.filter (fun e => e.placement != .unplaced && e.owner = selfOf t)).foldl (produceEntry n) t := by
  unfold produce
  rw [hl]
  exact if_pos h

theorem produceEntry_service {n : FrameNo} {t : State} {e : LayoutEntry}
    (h : e.id ≠ BitVec.ofNat 16 (0xFF00 + (selfOf t).val)) :
    produceEntry n t e = (serviceIx t e.id).elim t (fun k => produceService k n e t) := by
  unfold produceEntry
  rw [if_neg (by exact h)]
  cases serviceIx t e.id <;> rfl

end Sys2Proof.Machine
end

section
/-! PROOFS. The turns of a numbered boundary at PLE, ASM and CPR, put together (R30 to R33, R83 to R98, R170). -/

namespace Sys2Proof.Machine

theorem atNow_of_now {t : State} {n : FrameNo} (h : t.ftu.now = some n) (f : FrameNo → State → State) :
    atNow f t = f n t := by
  rw [atNow, h]

theorem pleAfter_of_same {p : Ple} {x : FrameNo × Layout} (n : FrameNo) {c : Computed} (h : p.chain.getLast? = some x)
    (hs : x.2.summary = c.layout.summary) (he : x.2.entries = c.layout.entries) :
    (pleAfter p n c).chain = p.chain ∧ (pleAfter p n c).counters.changes = p.counters.changes := by
  simp [pleAfter, chainWith_same h hs he]

theorem pleAfter_of_new {p : Ple} (n : FrameNo) {c : Computed} (h : p.chain = [] ∨ ∃ x, p.chain.getLast? = some x ∧
      (x.2.summary ≠ c.layout.summary ∨ x.2.entries ≠ c.layout.entries)) :
    (pleAfter p n c).chain = p.chain ++ [(n, c.layout)] ∧
      (pleAfter p n c).counters.changes = bump p.counters.changes := by
  simp [pleAfter, chainWith_new h]

theorem isEntryOf_iff (a : Arrival) (y : StoreEntry) :
    isEntryOf a y = true ↔ y.service = a.service ∧ y.owner = a.sender := by simp [isEntryOf]

/-- Settles O60: each clause is a rule of the claim set, the governing alert, the frame store or production, read at its
turn of the boundary. -/
theorem layoutAndProductionStep : Obligations.LayoutAndProductionStep := by
  unfold Obligations.LayoutAndProductionStep
  refine ⟨fun r n => ⟨computeStep_of_not_fresh, fun hfresh hfree => ⟨pleAfter r.ple _ (layoutFor _ r), ?_, rfl, rfl,
      fun x => pleAfter_of_same _, pleAfter_of_new _⟩⟩,
    fun k n e r => ⟨fun f => produceService_of_made e, fun hdue => ?_⟩,
    fun slots n => ⟨fun u e => (mem_claimSet ..).trans (mem_slotEntries ..), claimSet_ascending ..⟩,
    fun t n => ?_, fun n r l es hslot => ?_, fun n r hslot => sealFrame_of_other hslot, fun t n hn => ?_,
    fun r n as hn h3 h12 hu hlast hslot has => computeStep_of_waiting hn h3 h12 hu hlast hslot has,
    fun n t => ⟨produce_of_none, fun l => produce_of_layout, fun e => ⟨fun he => if_pos he, fun he => ⟨fun k hk => ?_, fun hk => ?_⟩⟩⟩,
    fun k n e r hdue => ?_, fun k cadence c s hc => fillSide_of_pos hc k cadence s,
    fun n e r => ⟨fun f => produceAlert_of_made e, fun hdue => ?_, rfl⟩,
    fun r n a c l before after y hn h3 h12 hu ha hc hslot hservice howner hbefore => ?_⟩
  · exact (computeStep_of_fresh hfresh).trans (computeAt_of_free hfree)
  · have hs := produceService_supplied e hdue
    obtain ⟨hsin, hcpr, hpvw, hftu, hofr, hple, halc, hcfl⟩ := hs.keeps
    refine ⟨hcpr.trans ?_, hsin, fun hq => hs.flags _ (audioTaken_underrun hq), hpvw, hftu, hofr, hple, halc, hcfl⟩
    simp only [audioTaken, decide_eq_true_eq]
  · simp only [← governCandidate_iff]
    refine ⟨governing_eq_none_iff t n, fun g hg => ?_, fun x hx => ?_⟩
    · obtain ⟨x, hx, rfl⟩ := Option.map_eq_some_iff.mp hg
      exact ⟨x, hx, rfl⟩
    · obtain ⟨hmem, hopen⟩ := governingRecord_mem hx
      exact ⟨hmem, hopen, fun base hbase y hy hyopen =>
        governKey_le (hbase x hmem) (hbase y hy) (governingRecord_least hx hbase y hy hyopen)⟩
  · obtain ⟨rows, otherRow, hsealed⟩ := sealOpen_eq n l es r
    intro xs t
    have ht : t = _ := (sealFrame_of_opened hslot).trans hsealed
    rw [ht]
    exact ⟨sealedDirectory n l es r, rfl, rfl, rfl, rfl, rfl, frameDirectory_length ..,
      frameDirectory_take_seven .., byteAt_frameDirectory_eleven ..,
      slice_frameDirectory_alert .., frameDirectory_check .., fun i e hi he => slice_sealedDirectory hi he,
      fun i hi hlen => slice_sealedDirectory_rest hi hlen⟩
  · obtain ⟨gone, hsplit, hsecond, hnonempty, hgone⟩ := pruneChain_split n t.ple.chain
    have hfree : takeTurn .freeSlot t = freeSlot n t := atNow_of_now hn freeSlot
    rw [hfree]
    exact ⟨atNow_of_now hn computeStep, atNow_of_now hn (fun n t => produce (plus n (leadOf t)) t),
      atNow_of_now hn (fun n t => if t.pvw.unit.computing then sealFrame (plus n 1) t else t),
      ⟨freeSlot_of_other, fun l => freeSlot_of_waiting, freeSlot_of_held⟩, gone, _, hsplit,
      atNow_of_now hn (fun n t => { t with ple.chain := pruneChain n t.ple.chain }), hsecond, hnonempty, hgone⟩
  · rw [produceEntry_service he, hk]
    rfl
  · rw [produceEntry_service he, hk]
    rfl
  · obtain ⟨-, -, -, -, -, -, -, hcfl⟩ := (fillSide_supplied k (((serviceDef r k).map (·.cadence)).getD 1) (e.side / 4)
      (audioTaken k n r)).keeps
    exact (produceService_of_due e hdue).trans (deliver_of_cfl hcfl n e.id _)
  · exact produceAlert_of_due e hdue
  · have hentry : isEntryOf a y = true := (isEntryOf_iff a y).mpr ⟨hservice, howner⟩
    have hfirst : ∀ x ∈ before, isEntryOf a x = false := fun x hx => by
      rw [← Bool.not_eq_true, isEntryOf_iff, not_and_or]
      exact hbefore x hx
    rw [arrive_of_receiving ⟨hu, hn, rfl⟩ h3 h12 ha]
    exact ⟨fun he hlen => testEntry_files hslot hentry hfirst hc he hlen,
      fun he => testEntry_duplicate hslot hentry hfirst he⟩

end Sys2Proof.Machine
end

section
/-! PROOFS. LKP's transmit side: the queue's operations, hand-ins, the arbiter and what it takes (R51 to R56). -/

namespace Sys2Proof.Machine

/-! ### The queue as a list -/

theorem dropFirst_eq_eraseP {α : Type} (p : α → Bool) (l : List α) : dropFirst p l = l.eraseP p := by
  induction l with
  | nil => rfl
  | cons x l ih =>
    rw [dropFirst, List.eraseP_cons, ih]
    cases p x <;> rfl

/-- The last entry that satisfies `p` is the one behind which none does. -/
theorem dropLast_append {α : Type} {p : α → Bool} (a : List α) {x : α} {b : List α} (hx : p x = true)
    (hb : ∀ y ∈ b, p y = false) : dropLast p (a ++ x :: b) = a ++ b := by
  have hsplit : (a ++ x :: b).reverse = b.reverse ++ x :: a.reverse := by simp
  rw [dropLast, dropFirst_eq_eraseP, hsplit, List.eraseP_append_right _ (by simpa using hb),
    List.eraseP_cons_of_pos hx]
  simp

theorem dropLast_length {α : Type} {p : α → Bool} {l : List α} (h : l.any p = true) :
    (dropLast p l).length = l.length - 1 := by
  obtain ⟨x, hx, hp⟩ := List.any_eq_true.mp h
  rw [dropLast, dropFirst_eq_eraseP, List.length_reverse, List.length_eraseP_of_mem (List.mem_reverse.mpr hx) hp,
    List.length_reverse]

/-! ### What each operation leaves in the queue and the echo list -/

theorem takePacket_queue_length (p : TxPacket) (s : State) :
    (takePacket p s).lkp.queue.length ≤ s.lkp.queue.length := by
  show (dropFirst _ s.lkp.queue).length ≤ _
  rw [dropFirst_eq_eraseP]
  exact List.length_eraseP_le

theorem takePacket_echoes_length (p : TxPacket) (s : State) : (takePacket p s).lkp.echoes.length ≤ 64 := by
  show ((s.lkp.echoes ++ [_]).drop ((s.lkp.echoes ++ [_]).length - 64)).length ≤ 64
  rw [List.length_drop]
  omega

theorem serve_queue_length (s : State) : (serve s).lkp.queue.length ≤ s.lkp.queue.length := by
  unfold serve
  split
  · obtain ⟨-, h⟩ | ⟨p, -, h⟩ := arbitrate_cases s <;> rw [h]
    exact takePacket_queue_length p s
  · exact Nat.le_refl _

theorem enqueue_queue_length (p : TxPacket) {s : State} (h : s.lkp.queue.length ≤ 64) :
    (enqueue p s).1.lkp.queue.length ≤ 64 := by
  have hq := (supersede_length s.lkp.queue p).trans h
  unfold enqueue
  dsimp only
  split_ifs with _ hroom _ hany
  · exact h
  · rw [List.length_append]
    exact hroom
  · exact h
  · show (dropLast isContrib _ ++ [p]).length ≤ 64
    rw [List.length_append, dropLast_length hany, List.length_singleton]
    omega
  · exact hq

theorem handIn_queue_length (p : TxPacket) {s : State} (h : s.lkp.queue.length ≤ 64) :
    (handIn p s).1.lkp.queue.length ≤ 64 := (serve_queue_length _).trans (enqueue_queue_length p h)

end Sys2Proof.Machine
end

section
/-! PROOFS. The bounded stores (R51, R54, R78, R113, R114, R163, R165, R180): what each operation does to them, and that
every step keeps their bounds. -/

namespace Sys2Proof.Machine

/-! ### The worst record of the alert table -/

/-- The worse of two records, `acc` the one found so far (R165). -/
def worse (now : Option FrameNo) (acc : Option AlertRecord) (r : AlertRecord) : Option AlertRecord :=
  acc.elim (some r) (fun a => if worseThan now r a then some r else some a)

theorem worstRecord_eq (now : Option FrameNo) (t : List AlertRecord) :
    worstRecord now t = t.foldl (worse now) none := by
  unfold worstRecord
  congr 1
  funext acc r
  cases acc <;> rfl

theorem foldl_worse_mem {now : Option FrameNo} {w : AlertRecord} (l : List AlertRecord) :
    ∀ {acc : Option AlertRecord}, l.foldl (worse now) acc = some w → acc = some w ∨ w ∈ l := by
  induction l with
  | nil => exact fun h => .inl h
  | cons r l ih =>
    intro acc h
    have hstep : worse now acc r = some r ∨ worse now acc r = acc := by
      cases acc with
      | none => exact .inl rfl
      | some a => exact ite_eq_or_eq _ _ _
    rcases ih h with hw | hw
    · rcases hstep with hr | ha
      · exact .inr (List.mem_cons.mpr (.inl (Option.some.inj (hw.symm.trans hr))))
      · exact .inl (ha.symm.trans hw)
    · exact .inr (List.mem_cons_of_mem _ hw)

theorem worstRecord_mem {now : Option FrameNo} {t : List AlertRecord} {w : AlertRecord}
    (h : worstRecord now t = some w) : w ∈ t := by
  rw [worstRecord_eq] at h
  exact (foldl_worse_mem t h).resolve_left nofun

theorem modifyFirst_length {α : Type} (p : α → Bool) (f : α → α) (l : List α) :
    (modifyFirst p f l).length = l.length := by
  induction l with
  | nil => rfl
  | cons x l ih =>
    unfold modifyFirst
    split
    · rfl
    · exact congrArg (· + 1) ih

theorem handFirst_table (k : Kind) (b : List Byte) (s : State) : (handFirst k b s).alc.table = s.alc.table := by
  unfold handFirst handAlert
  dsimp only
  rw [handIn_eq]
  split <;> rfl

theorem endOwn_table_length (n : FrameNo) (s : State) : (endOwn n s).alc.table.length = s.alc.table.length := by
  unfold endOwn
  split
  · rfl
  · rw [handFirst_table]
    exact modifyFirst_length _ _ _

/-- An eviction makes a place free. -/
theorem evict_table_length {s : State} {w : AlertRecord} (h : w ∈ s.alc.table) :
    (evict w s).alc.table.length < s.alc.table.length := by
  have hlt : (s.alc.table.filter (fun r => r.id != w.id)).length < s.alc.table.length :=
    List.length_filter_lt_length_iff_exists.mpr ⟨w, h, by simp⟩
  unfold evict
  dsimp only
  split
  · split
    · rw [endOwn_table_length]
      exact hlt
    · exact hlt
  · exact hlt

/-! ### The audio queues -/

/-- Production takes the oldest audio unit (R84). -/
theorem takeAudio_length (rate : Nat) (q : List (List Byte)) : (takeAudio rate q).2.2.length ≤ q.length := by
  cases q with
  | nil => exact Nat.le_refl _
  | cons u us => exact Nat.le_succ _

/-- A full queue gives up its oldest unit for the newest (R113). -/
theorem pushUnit_length (u : List Byte) {q : List (List Byte)} (h : q.length ≤ 16) : (pushUnit u q).length ≤ 16 := by
  unfold pushUnit
  split
  · rw [List.length_append, List.length_singleton]
    omega
  · rw [List.length_append, List.length_drop, List.length_singleton]
    omega

/-! ### The bounds, operation by operation -/

/-- The contents of the bounded stores; of the alert table and the audio queues, what their bounds read. -/
def boundedStores (s : State) : List TxPacket × List (Byte × BitVec 16) × (ServiceIx → List (List Byte)) ×
    List (List Byte) × List Request × Nat × List (FrameNo × BitVec 16) :=
  (s.lkp.queue, s.lkp.echoes, fun k => s.sin.services[k].queue, s.sin.alertQueue, s.sup.queue, s.alc.table.length,
    s.pvw.digests)

/-- The bounds speak of the bounded stores alone. -/
theorem StoresSound.same {s t : State} (h : StoresSound s) (e : boundedStores t = boundedStores s) : StoresSound t := by
  simp only [boundedStores, Prod.mk.injEq] at e
  obtain ⟨hq, he, ha, hx, hr, ht, hd⟩ := e
  exact ⟨hq ▸ h.queue, he ▸ h.echoes, fun k => (congrFun ha k) ▸ h.audio k, hx ▸ h.alert, hr ▸ h.request, ht ▸ h.records,
    hd ▸ h.digests⟩

theorem StoresSound.foldl {α : Type} {f : State → α → State} (hf : ∀ s a, StoresSound s → StoresSound (f s a))
    (l : List α) : ∀ {s : State}, StoresSound s → StoresSound (l.foldl f s) := by
  induction l with
  | nil => exact id
  | cons a l ih => exact fun h => ih (hf _ a h)

theorem atNow_stores {f : FrameNo → State → State} (hf : ∀ n s, StoresSound s → StoresSound (f n s)) {s : State}
    (h : StoresSound s) : StoresSound (atNow f s) := by
  unfold atNow
  split
  · exact hf _ s h
  · exact h

section
variable {s : State} (h : StoresSound s)
include h

/-! ### LKP's transmit side, and PVW's own packets -/

theorem removeByState_stores (p : TxPacket → Bool) : StoresSound (removeByState p s) :=
  { h with queue := (List.length_filter_le _ _).trans h.queue }

theorem arbitrate_stores : StoresSound (arbitrate s) := by
  obtain ⟨-, e⟩ | ⟨p, -, e⟩ := arbitrate_cases s <;> rw [e]
  · exact h
  · exact { h with
      queue := (takePacket_queue_length p s).trans h.queue
      echoes := takePacket_echoes_length p s }

theorem serve_stores : StoresSound (serve s) := by
  unfold serve
  split
  · exact arbitrate_stores h
  · exact h

theorem enqueue_stores (p : TxPacket) : StoresSound (enqueue p s).1 := by
  have hq := enqueue_queue_length p h.queue
  unfold enqueue at hq ⊢
  dsimp only at hq ⊢
  split_ifs at hq ⊢ <;> exact { h with queue := hq }

theorem handIn_stores (p : TxPacket) : StoresSound (handIn p s).1 := serve_stores (enqueue_stores h p)

theorem expireContributions_stores (n : FrameNo) : StoresSound (expireContributions n s) := by
  unfold expireContributions
  dsimp only
  split
  · exact h
  · exact { h with queue := (List.length_filter_le _ _).trans h.queue }

theorem sendPresence_stores : StoresSound (sendPresence s) := (handIn_stores h _).same rfl

theorem sendClaim_stores (c : FramedClaim) : StoresSound (sendClaim c s) := (handIn_stores h _).same rfl

theorem pendOwn_stores (c : FramedClaim) : StoresSound (pendOwn c s) := h.same rfl

theorem issueClaim_stores (n : FrameNo) : StoresSound (issueClaim n s) := by
  refine sendClaim_stores (pendOwn_stores ?_ _) _
  exact h.same rfl

/-! ### Changes of unit state -/

theorem cutFrame_stores : StoresSound (cutFrame s) := by
  rw [cutFrame_eq]
  exact h.same rfl

theorem setUnit_stores (u : UnitState) : StoresSound (setUnit u s) := h.same rfl

theorem dropLocal_stores : StoresSound (dropLocal s) := h.same rfl

theorem emptyChain_stores : StoresSound (emptyChain s) := h.same rfl

theorem clearStore_stores : StoresSound (clearStore s) := h.same rfl

theorem clearView_stores : StoresSound (clearView s) := { h with digests := Nat.zero_le 16 }

theorem emptyAlerts_stores : StoresSound (emptyAlerts s) := { h with records := Nat.zero_le 4 }

theorem clearForListen_stores : StoresSound (clearForListen s) :=
  removeByState_stores (clearStore_stores (emptyChain_stores (emptyAlerts_stores
    (dropLocal_stores (clearView_stores h))))) _

theorem enterListen_stores : StoresSound (enterListen s) :=
  sendPresence_stores (clearForListen_stores (setUnit_stores (cutFrame_stores h) _))

theorem fallSilent_stores (u : UnitState) : StoresSound (fallSilent u s) :=
  removeByState_stores (clearStore_stores (emptyChain_stores (dropLocal_stores
    (setUnit_stores (cutFrame_stores h) u)))) _

theorem enterClash_stores : StoresSound (enterClash s) := (fallSilent_stores h .clash).same rfl

theorem enterOffAir_stores : StoresSound (enterOffAir s) := (fallSilent_stores h .offAir).same rfl

theorem enterIsolated_stores : StoresSound (enterIsolated s) := sendPresence_stores (h.same rfl)

theorem enterJoining_stores (n : FrameNo) : StoresSound (enterJoining n s) :=
  sendPresence_stores (serve_stores ((issueClaim_stores h n).same rfl))

theorem enterOnAir_stores : StoresSound (enterOnAir s) := sendPresence_stores (h.same rfl)

theorem jumpEffects_stores : StoresSound (jumpEffects s) := by
  unfold jumpEffects
  split
  · exact enterListen_stores h
  · exact clearForListen_stores h

theorem linkReturn_stores : StoresSound (linkReturn s) := by
  unfold linkReturn
  split
  · exact enterListen_stores h
  · exact h

theorem breakListen_stores : StoresSound (breakListen s) := by
  unfold breakListen
  split
  · exact h.same rfl
  · exact h

/-! ### Named updates -/

theorem raiseFlag_stores (f : Flag) : StoresSound (raiseFlag f s) := h.same rfl

theorem raiseFlag_if_stores (b : Bool) (f : Flag) : StoresSound (if b then raiseFlag f s else s) := by
  split
  · exact raiseFlag_stores h f
  · exact h

theorem modifyPeer_stores (u : UnitId) (f : PeerSlot → PeerSlot) : StoresSound (modifyPeer u f s) := h.same rfl

theorem modifySender_stores (u : UnitId) (f : SenderRecord → SenderRecord) : StoresSound (modifySender u f s) :=
  h.same rfl

theorem modifySource_stores (i : SourceId) (f : Source → Source) : StoresSound (modifySource i f s) := h.same rfl

theorem modifyCarousel_stores (k : ServiceIx) (f : Carousel → Carousel) : StoresSound (modifyCarousel k f s) :=
  h.same rfl

theorem modifyPort_stores (p : PortId) (f : Port → Port) : StoresSound (modifyPort p f s) := h.same rfl

theorem countAsm_stores (f : AsmCounters → AsmCounters) : StoresSound (countAsm f s) := h.same rfl

theorem setSlot_stores (n : FrameNo) (x : FrameSlot) : StoresSound (setSlot n x s) := h.same rfl

/-- An update of a service's intake that leaves its audio queue within its bound. -/
theorem modifyIntake_stores (k : ServiceIx) (f : Intake → Intake)
    (hf : ∀ x : Intake, x.queue.length ≤ 16 → (f x).queue.length ≤ 16 := by exact fun _ hx => hx) :
    StoresSound (modifyIntake k f s) := by
  refine { h with audio := fun j => ?_ }
  rw [modifyIntake_services]
  by_cases hj : j = k
  · subst hj
    rw [modifyAt_self]
    exact hf _ (h.audio j)
  · rw [modifyAt_other _ f hj]
    exact h.audio j

/-! ### ALC: the alert table (R163, R165) -/

theorem handAlert_stores (k : Kind) (b : List Byte) : StoresSound (handAlert k b s) := by
  unfold handAlert
  dsimp only
  split
  · exact handIn_stores h _
  · exact (handIn_stores h _).same rfl

theorem handFirst_stores (k : Kind) (b : List Byte) : StoresSound (handFirst k b s) := by
  refine handAlert_stores ?_ _ _
  exact h.same rfl

theorem modifyRecord_stores (i : AlertId) (f : AlertRecord → AlertRecord) : StoresSound (modifyRecord i f s) :=
  { h with records := (modifyFirst_length _ f s.alc.table).trans_le h.records }

theorem endRecord_stores (i : AlertId) : StoresSound (endRecord i s) :=
  { h with records := (List.length_filter_le _ _).trans h.records }

theorem endOwn_stores (n : FrameNo) : StoresSound (endOwn n s) := by
  unfold endOwn
  split
  · exact h
  · refine handFirst_stores (modifyRecord_stores ?_ _ _) _ _
    exact h.same rfl

theorem evict_stores (w : AlertRecord) : StoresSound (evict w s) := by
  have hfilter : StoresSound { s with alc.table := s.alc.table.filter (fun r => r.id != w.id) } :=
    { h with records := (List.length_filter_le _ _).trans h.records }
  unfold evict
  dsimp only
  split
  · split
    · refine endOwn_stores ?_ _
      exact hfilter.same rfl
    · exact hfilter.same rfl
  · exact hfilter.same rfl

/-- A record enters where a place is free or the worst record leaves (R165). -/
theorem enterRecord_stores {x : AlertRecord} {t : State} (e : enterRecord x s = some t) : StoresSound t := by
  unfold enterRecord at e
  split at e
  · rename_i hroom
    cases e
    exact { h with records := by rw [List.length_append]; exact hroom }
  · split at e
    · cases e
    · rename_i w hw
      split at e
      · cases e
        have hlt := evict_table_length (worstRecord_mem hw)
        have hs := evict_stores h w
        have hle := h.records
        exact { hs with records := by rw [List.length_append, List.length_singleton]; omega }
      · cases e

theorem originate_stores (n : FrameNo) : StoresSound (originate n s) := by
  unfold originate
  split
  · split
    · exact h
    · dsimp only
      split
      · exact h.same rfl
      · rename_i t ht
        refine handFirst_stores (modifySource_stores ?_ _ _) _ _
        exact (enterRecord_stores h ht).same rfl
  · exact h

theorem escalate_stores (n : FrameNo) : StoresSound (escalate n s) := by
  unfold escalate
  split
  · split
    · dsimp only
      split
      · exact h
      · refine handFirst_stores ?_ _ _
        exact (modifyRecord_stores h _ _).same rfl
    · exact h
  · exact h

theorem stopTest_stores (n : FrameNo) : StoresSound (stopTest n s) := by
  unfold stopTest
  split
  · refine endOwn_stores ?_ n
    exact h.same rfl
  · exact h

theorem sampleLevel_stores (l : LineIx) : StoresSound (sampleLevel l s) := by
  unfold sampleLevel
  dsimp only
  split
  · exact h
  · exact h.same rfl

theorem sampleLine_stores (l : LineIx) : StoresSound (sampleLine l s) := by
  unfold sampleLine
  split
  · exact sampleLevel_stores h l
  · exact h.same rfl

theorem sampleLines_stores : StoresSound (sampleLines s) := sampleLine_stores (sampleLine_stores h 0) 1

theorem stopLine_stores (l : LineIx) : StoresSound (stopLine l s) := sampleLine_stores h l

theorem setRaised_stores (i : SourceId) (b : Bool) : StoresSound (setRaised i b s) := h.same rfl

theorem clearSources_stores : StoresSound (clearSources s) :=
  stopLine_stores (stopLine_stores (setRaised_stores (setRaised_stores (setRaised_stores h _ _) _ _) _ _) 0) 1

theorem changeLine_stores (l : LineIx) (high : Bool) : StoresSound (changeLine l high s) := by
  unfold changeLine
  dsimp only
  split_ifs
  · exact h.same rfl
  · refine sampleLevel_stores ?_ l
    exact h.same rfl
  · exact h.same rfl
  · exact h.same rfl

theorem durationEnd_stores (n : FrameNo) : StoresSound (durationEnd n s) := by
  refine endOwn_stores (clearSources_stores ?_) n
  exact h.same rfl

theorem sourcesTest_stores (n : FrameNo) : StoresSound (sourcesTest n s) := by
  unfold sourcesTest
  split
  · refine endOwn_stores ?_ n
    exact h.same rfl
  · exact h

theorem repeatAlert_stores : StoresSound (repeatAlert s) := by
  have hcounted : StoresSound { s with alc.repeatCount := 0, alc.counters.repeatsSent := bump s.alc.counters.repeatsSent } :=
    h.same rfl
  unfold repeatAlert
  dsimp only
  split
  · split
    · exact handAlert_stores hcounted _ _
    · exact hcounted
  · split
    · exact handAlert_stores hcounted _ _
    · exact hcounted

theorem heldAlert_stores (b : AlertBody) (x : AlertRecord) : StoresSound (heldAlert b x s) := by
  unfold heldAlert
  split
  · exact h.same rfl
  · split_ifs
    · exact h.same rfl
    · exact h.same rfl
    · exact (modifyRecord_stores h _ _).same rfl

theorem newAlert_stores (b : AlertBody) : StoresSound (newAlert b s) := by
  unfold newAlert
  split
  · exact h.same rfl
  · split
    · rename_i t ht
      exact (enterRecord_stores h ht).same rfl
    · exact h.same rfl

theorem takeAlert_stores (u : UnitId) (b : List Byte) : StoresSound (takeAlert u b s) := by
  unfold takeAlert
  dsimp only
  split_ifs
  · exact h.same rfl
  · exact h.same rfl
  · split
    · exact heldAlert_stores h _ _
    · exact newAlert_stores h _

theorem takeAlertEnd_stores (u : UnitId) (b : List Byte) : StoresSound (takeAlertEnd u b s) := by
  unfold takeAlertEnd
  dsimp only
  split_ifs
  · exact h.same rfl
  · exact h.same rfl
  · split
    · exact h.same rfl
    · split
      · exact h.same rfl
      · exact (modifyRecord_stores h _ _).same rfl

theorem noticeRemoval_stores (u : UnitId) (f : FrameNo) : StoresSound (noticeRemoval u f s) :=
  { h with records := (List.length_map _).trans_le h.records }

theorem noticeCancelled_stores (u : UnitId) : StoresSound (noticeCancelled u s) :=
  { h with records := (List.length_map _).trans_le h.records }

theorem noteAnnounced_stores (a : Option AlertId) : StoresSound (noteAnnounced a s) := by
  unfold noteAnnounced
  split
  · exact h
  · split
    · exact h
    · exact h.same rfl

theorem askSource_stores (i : SourceId) (n : Nat) (m : Byte) (x : List Byte) : StoresSound (askSource i n m x s) :=
  h.same rfl

theorem takeAlertReq_stores (b : List Byte) : StoresSound (takeAlertReq b s) := by
  unfold takeAlertReq
  split
  · exact askSource_stores h _ _ _ _
  · exact modifySource_stores h _ _

theorem clearEdge_stores (l : LineIx) : StoresSound (clearEdge l s) := by
  unfold clearEdge
  split
  · exact h
  · exact h.same rfl

theorem takeAlertClear_stores : StoresSound (takeAlertClear s) := by
  unfold takeAlertClear
  refine clearEdge_stores (clearEdge_stores ?_ 0) 1
  split <;> exact h.same rfl

theorem alertFeedLost_stores : StoresSound (alertFeedLost s) := by
  unfold alertFeedLost
  dsimp only
  split <;> exact h.same rfl

/-! ### TXC and PIC: none of the bounded stores is theirs -/

theorem countPic_stores (k : ServiceIx) (f : PicCounters → PicCounters) : StoresSound (countPic k f s) := h.same rfl

theorem removeObject_stores (k : ServiceIx) (o : ObjectId) : StoresSound (removeObject k o s) := h.same rfl

theorem refuseText_stores (k : ServiceIx) : StoresSound (refuseText k s) := h.same rfl

theorem takeTextSet_stores (k : ServiceIx) (key : Nat) (b : List Byte) : StoresSound (takeTextSet k key b s) := by
  unfold takeTextSet
  split
  · exact h.same rfl
  · split
    · exact refuseText_stores h k
    · exact modifyCarousel_stores h k _

theorem takeTextClear_stores (k : ServiceIx) (key : Nat) (b : List Byte) : StoresSound (takeTextClear k key b s) := by
  unfold takeTextClear
  split
  · exact h.same rfl
  · split_ifs
    · exact modifyCarousel_stores h k _
    · exact refuseText_stores h k
    · exact modifyCarousel_stores h k _

theorem cutIfOnAir_stores (k : ServiceIx) (x : PicRecord) : StoresSound (cutIfOnAir k x s) := by
  unfold cutIfOnAir
  split
  · exact h.same rfl
  · exact h

theorem admitObject_stores (k : ServiceIx) (p : PortId) (key : Nat) (b : List Byte) :
    StoresSound (admitObject k p key b s) := by
  unfold admitObject
  dsimp only
  split <;> exact h.same rfl

theorem refusePicture_stores (k : ServiceIx) : StoresSound (refusePicture k s) := h.same rfl

theorem takePicBegin_stores (k : ServiceIx) (p : PortId) (key : Nat) (b : List Byte) :
    StoresSound (takePicBegin k p key b s) := by
  unfold takePicBegin
  dsimp only
  split
  · exact countPic_stores h k _
  · split
    · split
      · exact refusePicture_stores h k
      · exact admitObject_stores (countPic_stores (cutIfOnAir_stores (removeObject_stores h _ _) _ _) _ _) _ _ _ _
    · exact admitObject_stores h _ _ _ _

theorem takePicData_stores (k : ServiceIx) (p : PortId) (b : List Byte) : StoresSound (takePicData k p b s) := by
  unfold takePicData
  dsimp only
  split
  · exact countPic_stores h k _
  · split_ifs <;> exact h.same rfl

theorem takePicEnd_stores (k : ServiceIx) (p : PortId) (b : List Byte) : StoresSound (takePicEnd k p b s) := by
  unfold takePicEnd
  split
  · exact countPic_stores h k _
  · split_ifs <;> exact h.same rfl

theorem takePicDelete_stores (k : ServiceIx) (key : Nat) (b : List Byte) : StoresSound (takePicDelete k key b s) := by
  unfold takePicDelete
  split
  · exact countPic_stores h k _
  · split
    · exact refusePicture_stores h k
    · exact countPic_stores (cutIfOnAir_stores (removeObject_stores h _ _) _ _) _ _

theorem loseLoads_stores (p : PortId) : StoresSound (loseLoads p s) := by
  unfold loseLoads
  dsimp only
  split
  · exact h
  · refine raiseFlag_stores (StoresSound.foldl (fun _ _ ht => countPic_stores ht _ _) _ ?_) _
    exact h.same rfl

theorem expirePicture_stores (k : ServiceIx) (o : ObjectId) : StoresSound (expirePicture k o s) := by
  unfold expirePicture
  split
  · exact h
  · dsimp only
    split <;> exact h.same rfl

/-! ### ASM, CPR and PLE -/

theorem arrive_stores (a : Arrival) : StoresSound (arrive a s) := by
  unfold arrive
  split
  · split_ifs
    · exact h.same rfl
    · exact countAsm_stores h _
    · rw [holdArrival_eq]
      exact h.same rfl
    · rw [testEntry_eq]
      exact h.same rfl
  · exact countAsm_stores h _

theorem openSlot_stores (n : FrameNo) (l : Layout) : StoresSound (openSlot n l s) :=
  StoresSound.foldl (fun t a ht => by rw [testEntry_eq]; exact ht.same rfl) _ (setSlot_stores h _ _)

theorem freeSlot_stores (n : FrameNo) : StoresSound (freeSlot n s) := by
  unfold freeSlot
  dsimp only
  split_ifs
  · exact setSlot_stores (countAsm_stores h _) _ _
  · exact h

theorem sealFrame_stores (n : FrameNo) : StoresSound (sealFrame n s) := by
  unfold sealFrame
  split
  · split <;> exact h.same rfl
  · exact h.same rfl

theorem deliver_stores (n : FrameNo) (id : ServiceId) (c : Contribution) : StoresSound (deliver n id c s) :=
  arrive_stores (handIn_stores h _) _

theorem fillSide_stores (k : ServiceIx) (cadence c : Nat) : StoresSound (fillSide k cadence c s).1 := by
  unfold fillSide
  split
  · exact h
  · dsimp only
    rw [requestPictures_eq]
    exact h.same rfl

theorem produceService_stores (k : ServiceIx) (n : FrameNo) (e : LayoutEntry) :
    StoresSound (produceService k n e s) := by
  unfold produceService
  split
  · have htaken : StoresSound (modifyIntake k (fun x =>
        { x with queue := (takeAudio e.audioRate s.sin.services[k].queue).2.2 }) s) :=
      modifyIntake_stores h k _ (fun _ _ => (takeAudio_length _ _).trans (h.audio k))
    refine deliver_stores (fillSide_stores (raiseFlag_if_stores ?_ _ _) _ _ _) _ _ _
    exact htaken.same rfl
  · exact h

theorem produceAlert_stores (n : FrameNo) (e : LayoutEntry) : StoresSound (produceAlert n e s) := by
  unfold produceAlert
  split
  · have hx : (if e.audioRate = 0 then ([], false, s.sin.alertQueue)
        else takeAudio e.audioRate s.sin.alertQueue).2.2.length ≤ 16 := by
      split
      · exact h.alert
      · exact (takeAudio_length _ _).trans h.alert
    refine deliver_stores (raiseFlag_if_stores ?_ _ _) _ _ _
    exact { h with alert := hx }
  · exact h

theorem produceEntry_stores (n : FrameNo) (e : LayoutEntry) : StoresSound (produceEntry n s e) := by
  unfold produceEntry
  split
  · exact produceAlert_stores h _ _
  · split
    · exact produceService_stores h _ _ _
    · exact h

theorem produce_stores (n : FrameNo) : StoresSound (produce n s) := by
  unfold produce
  split
  · split
    · exact StoresSound.foldl (fun _ e ht => produceEntry_stores ht n e) _ h
    · exact h
  · exact h

theorem computeStep_stores (n : FrameNo) : StoresSound (computeStep n s) := by
  unfold computeStep
  dsimp only
  split
  · refine openSlot_stores ?_ _ _
    split <;> exact h.same rfl
  · exact h

/-! ### PVW's table, and the digest history (R78) -/

theorem schedule_stores (u : UnitId) (f : FrameNo) : StoresSound (schedule u f s) := by
  unfold schedule
  split
  · exact noticeRemoval_stores (modifyPeer_stores h _ _) _ _
  · exact h

theorem goSilent_stores (u : UnitId) (n : FrameNo) : StoresSound (goSilent u n s) := by
  unfold goSilent
  split
  · exact h
  · exact schedule_stores (raiseFlag_stores (modifyPeer_stores h _ _) _) _ _

theorem withdraw_stores (u : UnitId) (x : Option FrameNo) : StoresSound (withdraw u x s) := by
  unfold withdraw
  dsimp only
  split
  · exact schedule_stores (modifyPeer_stores h _ _) _ _
  · exact schedule_stores (modifyPeer_stores h _ _) _ _
  · exact modifyPeer_stores h _ _

theorem compareDigest_stores (u : UnitId) (d : Option (FrameNo × BitVec 16)) : StoresSound (compareDigest u d s) := by
  unfold compareDigest
  split
  · exact h
  · exact modifyPeer_stores h _ _
  · exact raiseFlag_stores (modifyPeer_stores h _ _) _

theorem rejoinTest_stores (u : UnitId) (x : UnitState) (b : PresenceBody) : StoresSound (rejoinTest u x b s) := by
  unfold rejoinTest
  split
  · exact h
  · split
    · refine issueClaim_stores ?_ _
      exact h.same rfl
    · exact h

theorem meetPresence_stores (u : UnitId) (x : UnitState) (b : PresenceBody) :
    StoresSound (meetPresence u x b s) := by
  unfold meetPresence
  dsimp only
  split
  · exact h
  · refine rejoinTest_stores (compareDigest_stores ?_ _ _) _ _ _
    split
    · exact withdraw_stores (modifyPeer_stores h _ _) _ _
    · exact modifyPeer_stores h _ _

theorem takePresence_stores (u : UnitId) (b : List Byte) : StoresSound (takePresence u b s) := by
  unfold takePresence
  dsimp only
  split
  · exact h.same rfl
  · split
    · exact h.same rfl
    · exact noteAnnounced_stores (meetPresence_stores h _ _ _) _

theorem tellCancelled_stores (u : UnitId) (c : Bool) : StoresSound (tellCancelled u c s) := by
  unfold tellCancelled
  split
  · exact noticeCancelled_stores h u
  · exact h

theorem takeClaim_stores (u : UnitId) (b : List Byte) : StoresSound (takeClaim u b s) := by
  unfold takeClaim
  dsimp only
  split_ifs
  · exact h.same rfl
  · exact h.same rfl
  · exact modifyPeer_stores h _ _
  · unfold newVersion
    dsimp only
    split_ifs
    · exact tellCancelled_stores (modifyPeer_stores h _ _) _ _
    · exact tellCancelled_stores (modifyPeer_stores h _ _) _ _
    · exact raiseFlag_stores (modifyPeer_stores h _ _) _

theorem startFrame_stores : StoresSound (startFrame s) := by
  unfold startFrame
  split
  · split
    · have hle := h.digests
      refine { h with digests := ?_ }
      show ((s.pvw.digests ++ [_]).drop (s.pvw.digests.length + 1 - 16)).length ≤ 16
      rw [List.length_drop, List.length_append, List.length_singleton]
      omega
    · exact h.same rfl
  · exact h.same rfl

/-! ### LKP's receive side -/

theorem huntPacket_stores (l : List Byte) : StoresSound (huntPacket l s) := by
  unfold huntPacket
  dsimp only
  split <;> exact h.same rfl

theorem huntBroken_stores : StoresSound (huntBroken s) := h.same rfl

theorem loseSync_stores : StoresSound (loseSync s) := by
  refine raiseFlag_stores (breakListen_stores ?_) _
  exact h.same rfl

theorem headerFailure_stores : StoresSound (headerFailure s) := by
  unfold headerFailure
  dsimp only
  split
  · refine loseSync_stores ?_
    exact h.same rfl
  · exact h.same rfl

theorem malformedFrom_stores (x : Byte) : StoresSound (malformedFrom x s) := by
  unfold malformedFrom
  split
  · exact modifySender_stores h _ _
  · exact h

theorem takeEcho_stores (p : LinkPacket) : StoresSound (takeEcho p s) := by
  refine linkReturn_stores ?_
  unfold markEcho
  split <;> exact h.same rfl

theorem takeClash_stores : StoresSound (takeClash s) := by
  have hraised : StoresSound (raiseFlag .idClash { s with lkp.counters.clashes := bump s.lkp.counters.clashes }) :=
    h.same rfl
  unfold takeClash
  dsimp only
  split
  · exact enterClash_stores hraised
  · exact hraised

theorem noteValid_stores (u : UnitId) : StoresSound (noteValid u s) := by
  refine linkReturn_stores ?_
  unfold markPeer
  split <;> exact h.same rfl

theorem handOn_stores (k : Kind) (u : UnitId) (p : LinkPacket) (g : Bool) : StoresSound (handOn k u p g s) := by
  cases k with
  | presence => exact takePresence_stores h _ _
  | claim => exact takeClaim_stores h _ _
  | contrib => exact arrive_stores h _
  | alert => exact takeAlert_stores h _ _
  | alertEnd => exact takeAlertEnd_stores h _ _

theorem peerPacket_stores (k : Kind) (u : UnitId) (p : LinkPacket) : StoresSound (peerPacket k u p s) := by
  have htested := modifySender_stores h u (testSequence p.seq)
  unfold peerPacket
  dsimp only
  split_ifs
  · exact handOn_stores (noteValid_stores htested u) _ _ _ _
  · exact handOn_stores (noteValid_stores (modifySender_stores htested _ _) u) _ _ _ _
  · exact modifySender_stores htested _ _

theorem sortPacket_stores (k : Kind) (c : BitVec 16) (p : LinkPacket) : StoresSound (sortPacket k c p s) := by
  unfold sortPacket
  split_ifs
  · exact h.same rfl
  · exact takeEcho_stores h p
  · exact takeClash_stores h
  · exact peerPacket_stores h _ _ _

theorem headerGood_stores : StoresSound (headerGood s) := h.same rfl

theorem linkHuntAt_stores (f : List Byte) : StoresSound (linkHuntAt f s).state := by
  unfold linkHuntAt
  split_ifs
  · exact h
  · exact huntPacket_stores h _
  · exact huntBroken_stores h

theorem linkLockedAt_stores (f : List Byte) : StoresSound (linkLockedAt f s).state := by
  unfold linkLockedAt
  split_ifs
  · exact h
  · exact headerFailure_stores h
  · exact headerFailure_stores (malformedFrom_stores h _)
  · show StoresSound (sortAt f s)
    unfold sortAt
    split
    · exact sortPacket_stores (headerGood_stores h) _ _ _
    · exact h

theorem linkTurn_stores (bs : List Byte) : StoresSound (linkTurn bs s).state := by
  unfold linkTurn
  split
  · unfold linkHuntTurn
    dsimp only
    split_ifs
    · exact linkHuntAt_stores h _
    · exact h.same rfl
    · exact linkHuntAt_stores h _
    · exact huntBroken_stores h
  · unfold linkLockedTurn
    dsimp only
    split_ifs
    · exact linkLockedAt_stores h _
    · exact h
    · exact linkLockedAt_stores h _
    · exact loseSync_stores h

theorem readLine_stores (bs : List Byte) : StoresSound (readLine bs s) :=
  runTurns_keeps (R := fun s t => StoresSound s → StoresSound t) (fun _ => id) (fun hst htu => htu ∘ hst)
    (fun bs _ hs => linkTurn_stores hs bs) _ bs s h

theorem receiveBytes_stores (bs : List Byte) : StoresSound (receiveBytes bs s) := by
  unfold receiveBytes
  split
  · exact readLine_stores h bs
  · exact h

theorem receive_stores (k : Kind) (p : LinkPacket) : StoresSound (receive k p s) := by
  unfold receive
  split
  · exact h
  · split
    · exact huntPacket_stores h _
    · split
      · exact sortPacket_stores (headerGood_stores h) _ _ _
      · exact readLine_stores (headerFailure_stores (malformedFrom_stores h _)) _

theorem transmitterFree_stores : StoresSound (transmitterFree s) := by
  refine arbitrate_stores ?_
  exact h.same rfl

/-! ### SIN: the audio queues (R112 to R114) -/

theorem onIntake_stores (k : Nat) (f : Intake → Intake)
    (hf : ∀ x : Intake, x.queue.length ≤ 16 → (f x).queue.length ≤ 16 := by exact fun _ hx => hx) :
    StoresSound (onIntake k f s) := by
  unfold onIntake
  split
  · exact modifyIntake_stores h _ f hf
  · exact h

theorem lockSeen_stores (p : PortId) : StoresSound (lockSeen p s) := by
  unfold lockSeen
  split
  · exact onIntake_stores h _ _
  · exact onIntake_stores h _ _
  · exact h

theorem unlockSeen_stores (p : PortId) : StoresSound (unlockSeen p s) := by
  unfold unlockSeen
  split
  · exact onIntake_stores h _ _
  · exact h

theorem feedHuntGood_stores (p : PortId) (l : List Byte) : StoresSound (feedHuntGood p l s) := by
  unfold feedHuntGood
  dsimp only
  split
  · exact modifyPort_stores (modifyPort_stores h p _) p _
  · exact lockSeen_stores (modifyPort_stores (modifyPort_stores h p _) p _) p

theorem feedFailure_stores (p : PortId) : StoresSound (feedFailure p s) := by
  unfold feedFailure
  dsimp only
  split
  · exact modifyPort_stores (modifyPort_stores h p _) p _
  · exact unlockSeen_stores (modifyPort_stores (modifyPort_stores h p _) p _) p

theorem markActive_stores (p : PortId) (bs : List Byte) : StoresSound (markActive p bs s) := by
  unfold markActive
  split
  · exact modifyPort_stores h p _
  · exact h

theorem takeAudioFor_stores (k : ServiceIx) (b : List Byte) : StoresSound (takeAudioFor k b s) := by
  unfold takeAudioFor
  split
  · exact h
  · dsimp only
    split_ifs
    · exact modifyIntake_stores h k _
    · exact raiseFlag_stores (modifyIntake_stores h k _ (fun _ hx => pushUnit_length b hx)) _
    · exact modifyIntake_stores h k _ (fun _ hx => pushUnit_length b hx)

theorem takeAlertAudio_stores (b : List Byte) : StoresSound (takeAlertAudio b s) := by
  have hpush := pushUnit_length b h.alert
  unfold takeAlertAudio
  dsimp only
  split_ifs
  · exact h.same rfl
  · exact { h with alert := hpush }
  · exact { h with alert := hpush }

theorem countPort_stores (p : PortId) (f : PortCounters → PortCounters) : StoresSound (countPort p f s) :=
  modifyPort_stores h p _

theorem misplaced_stores (p : PortId) (k : FeedKind) : StoresSound (misplaced p k s) := h.same rfl

theorem fillPacket_stores (p : PortId) : StoresSound (fillPacket p s) := h.same rfl

theorem forService_stores (i : ServiceIx) (p : PortId) (k : FeedKind) (b : List Byte) :
    StoresSound (forService i p k b s) := by
  cases k with
  | audio => exact takeAudioFor_stores h _ _
  | textSet => exact takeTextSet_stores h _ _ _
  | textClear => exact takeTextClear_stores h _ _ _
  | picBegin => exact takePicBegin_stores h _ _ _ _
  | picData => exact takePicData_stores h _ _ _
  | picEnd => exact takePicEnd_stores h _ _ _
  | picDelete => exact takePicDelete_stores h _ _ _
  | alertReq => exact misplaced_stores h _ _
  | alertClear => exact misplaced_stores h _ _
  | fill => exact fillPacket_stores h _

theorem forAlert_stores (p : PortId) (k : FeedKind) (b : List Byte) : StoresSound (forAlert p k b s) := by
  cases k with
  | audio => exact takeAlertAudio_stores h _
  | alertReq => exact takeAlertReq_stores h _
  | alertClear => exact takeAlertClear_stores h
  | fill => exact fillPacket_stores h _
  | textSet | textClear | picBegin | picData | picEnd | picDelete => exact misplaced_stores h _ _

theorem dispatchFeed_stores (p : PortId) (k : FeedKind) (b : List Byte) : StoresSound (dispatchFeed p k b s) := by
  unfold dispatchFeed
  split
  · exact forAlert_stores h _ _ _
  · split
    · exact forService_stores h _ _ _ _
    · exact h
  · split
    · exact forService_stores h _ _ _ _
    · exact h
  · exact h

theorem goodFeed_stores (p : PortId) (c : Byte) (b : List Byte) : StoresSound (goodFeed p c b s) := by
  have hgood := modifyPort_stores h p (fun x => { x with failures := 0, nextKnown := true })
  unfold goodFeed
  dsimp only
  split
  · exact countPort_stores hgood _ _
  · split
    · unfold wellFormedFeed
      split
      · exact dispatchFeed_stores (countPort_stores hgood _ _) _ _ _
      · exact countPort_stores hgood _ _
    · exact countPort_stores hgood _ _

theorem feedHuntAt_stores (p : PortId) (f : List Byte) : StoresSound (feedHuntAt p f s).state := by
  unfold feedHuntAt
  split_ifs
  · exact h
  · exact feedHuntGood_stores h p _
  · exact modifyPort_stores h p _

theorem feedLockedAt_stores (p : PortId) (f : List Byte) : StoresSound (feedLockedAt p f s).state := by
  unfold feedLockedAt
  split_ifs
  · exact h
  · exact goodFeed_stores h p _ _
  · exact feedFailure_stores h p

theorem feedTurn_stores (p : PortId) (bs : List Byte) : StoresSound (feedTurn p bs s).state := by
  unfold feedTurn
  split
  · exact h
  · unfold feedHuntTurn
    dsimp only
    split_ifs
    · exact feedHuntAt_stores h p _
    · exact modifyPort_stores h p _
    · exact feedHuntAt_stores h p _
    · exact modifyPort_stores h p _
  · unfold feedLostTurn
    split
    · exact h
    · exact feedHuntAt_stores (modifyPort_stores h p _) p _
  · unfold feedLockedTurn
    dsimp only
    split_ifs
    · exact feedLockedAt_stores h p _
    · exact h
    · exact feedLockedAt_stores h p _
    · exact feedFailure_stores h p

theorem feedBytes_stores (p : PortId) (bs : List Byte) : StoresSound (feedBytes p bs s) := by
  unfold feedBytes
  split
  · exact runTurns_keeps (R := fun s t => StoresSound s → StoresSound t) (fun _ => id) (fun hst htu => htu ∘ hst)
      (fun bs _ hs => feedTurn_stores hs p bs) _ bs _ (markActive_stores h p bs)
  · exact h

theorem feedPacket_stores (p : PortId) (c : Byte) (b : List Byte) : StoresSound (feedPacket p c b s) := by
  have hactive := modifyPort_stores h p (fun x => { x with active := true })
  unfold feedPacket
  dsimp only
  split_ifs
  · exact h
  · exact feedBytes_stores h p _
  · split
    · exact feedHuntGood_stores hactive p _
    · exact feedHuntGood_stores (modifyPort_stores hactive p _) p _
    · exact goodFeed_stores hactive p _ _
    · exact h

theorem losePort_stores (p : PortId) : StoresSound (losePort p s) := by
  have hlost := loseLoads_stores (raiseFlag_stores (unlockSeen_stores (modifyPort_stores h p (fun x =>
    { x with state := .lost, huntCount := 0, held := [], failures := 0, nextKnown := false,
             counters.losts := bump x.counters.losts })) p) .feedLost) p
  unfold losePort
  dsimp only
  split
  · exact alertFeedLost_stores hlost
  · exact hlost

theorem countSelection_stores (k : ServiceIx) : StoresSound (countSelection k s) := by
  unfold countSelection
  dsimp only
  split
  · exact modifyIntake_stores h k _
  · exact h

theorem selectPort_stores (k : ServiceIx) (x : Selection) : StoresSound (selectPort k x s) :=
  raiseFlag_stores (modifyIntake_stores h k _) _

/-- Audio queues emptied. -/
theorem emptyQueues_stores (f : Intake → Intake) (hf : ∀ x, (f x).queue = []) :
    StoresSound { s with sin.services := mapAll f s.sin.services, sin.alertQueue := [] } := by
  refine { h with audio := fun k => ?_, alert := Nat.zero_le 16 }
  rw [mapAll_get, hf]
  exact Nat.zero_le 16

theorem takeRoles_stores : StoresSound (takeRoles s) :=
  emptyQueues_stores (StoresSound.foldl (fun _ p ht => modifyPort_stores ht p _) _ h) _ (fun _ => rfl)

/-! ### CFL and the boundary -/

theorem acceptImage_stores (i : Image) : StoresSound (acceptImage i s) := by
  refine enterListen_stores (sampleLines_stores (takeRoles_stores ?_))
  exact h.same rfl

theorem refuseImage_stores (c : FaultCause) (f : Option Nat) : StoresSound (refuseImage c f s) := h.same rfl

theorem judgeImage_stores (c : ImageCheck) : StoresSound (judgeImage c s) := by
  cases c with
  | good i => exact acceptImage_stores h i
  | bad c f => exact refuseImage_stores h c f

theorem frameJump_stores : StoresSound (frameJump s) := by
  refine jumpEffects_stores ?_
  exact h.same rfl

theorem holdoverExpired_stores : StoresSound (holdoverExpired s) := by
  have hraised : StoresSound (raiseFlag .holdoverExpired
      { s with sup.lifetime.expiries := bump s.sup.lifetime.expiries }) := h.same rfl
  unfold holdoverExpired
  dsimp only
  split
  · exact enterOffAir_stores hraised
  · exact hraised

theorem relocked_stores : StoresSound (relocked s) := by
  unfold relocked
  split
  · exact enterListen_stores h
  · exact h

theorem countListen_stores : StoresSound (countListen s) := by
  unfold countListen
  split_ifs <;> exact h.same rfl

theorem ageRead_stores : StoresSound (ageRead s) := by
  unfold ageRead
  split
  · exact h.same rfl
  · exact h

theorem resendClaim_stores : StoresSound (resendClaim s) := by
  unfold resendClaim
  split
  · exact sendClaim_stores h _
  · exact h

theorem testActivity_stores (p : PortId) : StoresSound (testActivity p s) := by
  unfold testActivity
  split
  · exact modifyPort_stores h p _
  · exact h

theorem timeOutLoad_stores (k : ServiceIx) (o : ObjectId) : StoresSound (timeOutLoad k o s) := h.same rfl

theorem endFrame_stores : StoresSound (endFrame s) := h.same rfl

theorem ageLink_stores : StoresSound (ageLink s) := h.same rfl

theorem removeSlot_stores (u : UnitId) : StoresSound (removeSlot u s) := h.same rfl

theorem ageHold_stores : StoresSound (ageHold s) := h.same rfl

theorem noticePictureSide_stores (k : ServiceIx) : StoresSound (noticePictureSide k s) := h.same rfl

theorem agePictures_stores (k : ServiceIx) : StoresSound (agePictures k s) := h.same rfl

theorem clearLocal_stores : StoresSound (clearLocal s) := h.same rfl

theorem pruneAt_stores (n : FrameNo) : StoresSound { s with ple.chain := pruneChain n s.ple.chain } := h.same rfl

theorem localAlertOn_stores : StoresSound { s with alc.localAlert.state := .on } := h.same rfl

theorem sealStep_stores (n : FrameNo) :
    StoresSound (if s.pvw.unit.computing then sealFrame (plus n 1) s else s) := by
  split
  · exact sealFrame_stores h _
  · exact h

theorem produceStep_stores (n : FrameNo) : StoresSound (produce (plus n (leadOf s)) s) := produce_stores h _

theorem fire_stores (a : Act) : StoresSound (fire a s) := by
  cases a with
  | frameJump => exact frameJump_stores h
  | holdoverExpired => exact holdoverExpired_stores h
  | relocked => exact relocked_stores h
  | readAge => exact ageRead_stores h
  | readFailed => exact refuseImage_stores h _ _
  | portActivity p => exact testActivity_stores h p
  | feedLost p => exact losePort_stores h p
  | feedCounts k => exact countSelection_stores h k
  | feedSwitch k => exact selectPort_stores h k _
  | feedRevert k => exact selectPort_stores h k _
  | claimInForce u => exact modifyPeer_stores h u _
  | peerSilent u => exact atNow_stores (fun n _ ht => goSilent_stores ht u n) h
  | listenCount => exact countListen_stores h
  | enterJoining => exact atNow_stores (fun n _ ht => enterJoining_stores ht n) h
  | enterOnAir => exact enterOnAir_stores h
  | startFrame => exact startFrame_stores h
  | freeSlot => exact atNow_stores (fun n _ ht => freeSlot_stores ht n) h
  | computeLayout => exact atNow_stores (fun n _ ht => computeStep_stores ht n) h
  | pruneChain => exact atNow_stores (fun n _ ht => pruneAt_stores ht n) h
  | sealFrame => exact atNow_stores (fun n _ ht => sealStep_stores ht n) h
  | expireContributions => exact atNow_stores (fun n _ ht => expireContributions_stores ht n) h
  | textExpiry k i => exact modifyCarousel_stores h k _
  | textHold k => exact modifyCarousel_stores h k _
  | pictureLoadTimeout k o => exact timeOutLoad_stores h k o
  | pictureExpiry k o => exact expirePicture_stores h k o
  | produce => exact atNow_stores (fun n _ ht => produceStep_stores ht n) h
  | presenceSend => exact sendPresence_stores h
  | claimResend => exact resendClaim_stores h
  | enterIsolated => exact enterIsolated_stores h
  | alertRecordStart i => exact modifyRecord_stores h i _
  | alertRecordEnded i => exact endRecord_stores h i
  | alertStopTest => exact atNow_stores (fun n _ ht => stopTest_stores ht n) h
  | alertDurationLimit => exact atNow_stores (fun n _ ht => durationEnd_stores ht n) h
  | alertSourcesTest => exact atNow_stores (fun n _ ht => sourcesTest_stores ht n) h
  | escalate => exact atNow_stores (fun n _ ht => escalate_stores ht n) h
  | originate => exact atNow_stores (fun n _ ht => originate_stores ht n) h
  | alertRepeat => exact repeatAlert_stores h
  | endFrame => exact endFrame_stores h
  | linkAges => exact ageLink_stores h
  | slotRemoval u => exact removeSlot_stores h u
  | rejoinHold => exact ageHold_stores h
  | textSide k => exact modifyCarousel_stores h k _
  | pictureSide k => exact noticePictureSide_stores h k
  | pictureLife k => exact agePictures_stores h k
  | localAlertOn => exact localAlertOn_stores h
  | localAlertIdle => exact clearLocal_stores h

theorem pass_stores (a : Act) : StoresSound (pass a s) := by
  unfold pass
  split
  · split <;> exact h.same rfl
  · split <;> exact h.same rfl
  · split <;> exact h.same rfl
  · exact h

theorem takeTurn_stores (a : Act) : StoresSound (takeTurn a s) := by
  obtain ⟨-, e⟩ | ⟨-, e⟩ := takeTurn_cases a s <;> rw [e]
  · exact fire_stores h a
  · exact pass_stores h a

theorem settle_stores : StoresSound (settle s) :=
  settle_keeps (P := StoresSound) (fun a _ ht => takeTurn_stores ht a) (fun _ _ ht => ht.same rfl) h

theorem runEvent_stores (a : Act) : StoresSound (runEvent a s) :=
  runEvent_keeps (P := StoresSound) (fun a _ ht => takeTurn_stores ht a) (fun _ _ ht => ht.same rfl) a h

/-! ### FTU -/

theorem raiseBoundary_stores (src : BoundarySource) (o : BoundaryOrder) : StoresSound (raiseBoundary src o s) := by
  refine advance_keeps (P := StoresSound) (fun a _ ht => takeTurn_stores ht a) (fun _ _ ht => ht.same rfl) _ _ ?_
  exact h.same rfl

theorem takePulse_stores (d : Nat) (o : BoundaryOrder) : StoresSound (takePulse d o s) := by
  unfold takePulse
  split
  · exact h.same rfl
  · unfold matchPulse
    dsimp only
    split
    · refine relocked_stores ?_
      exact h.same rfl
    · exact h.same rfl
  · exact raiseBoundary_stores h _ o

theorem missPulse_stores : StoresSound (missPulse s) := by
  unfold missPulse
  split
  · dsimp only
    split
    · refine enterListen_stores ?_
      exact h.same rfl
    · refine breakListen_stores ?_
      exact h.same rfl
  · exact h

theorem takeTime_stores (bs : List Byte) : StoresSound (takeTime bs s) := by
  unfold takeTime
  split <;> exact h.same rfl

/-! ### SUP: the request queue (R180) -/

/-- SUP goes on through a queue of at most four requests. -/
theorem serveBad_stores {rs : List Request} (hrs : rs.length ≤ 4) : StoresSound (serveBad rs s) := by
  induction rs generalizing s with
  | nil => exact { h with request := hrs }
  | cons r rs ih =>
    have hlt : rs.length ≤ 4 := (Nat.le_succ _).trans hrs
    unfold serveBad
    split_ifs
    · exact ih (h.same rfl) hlt
    · exact ih (h.same rfl) hlt
    · exact { h with request := hrs }

theorem takeFrame_stores (r : RequestFrame) : StoresSound (takeFrame r s) := by
  unfold takeFrame
  split
  · rename_i hroom
    exact serveBad_stores h (by rw [List.length_append]; exact hroom)
  · exact h.same rfl

/-- A request's row keeps the bounds where its action does. -/
theorem takeRequest_stores (k : RequestKind) {f : List Byte → State → Acted}
    (hf : ∀ b t, StoresSound t → StoresSound (f b t).state) : StoresSound (takeRequest k f s) := by
  unfold takeRequest
  split
  · exact h
  · rename_i r rs hq
    have hrs : rs.length ≤ 4 := by
      have hle := h.request
      rw [hq, List.length_cons] at hle
      omega
    have hhand : StoresSound { s with sup.queue := rs, sup.inHand := some r } := { h with request := hrs }
    split
    · refine serveBad_stores ?_ hrs
      refine StoresSound.same (s := (actOn k f r.body { s with sup.queue := rs, sup.inHand := some r }).state) ?_ rfl
      unfold actOn
      split_ifs
      · exact hhand
      · exact hhand
      · exact hf _ _ hhand
    · exact h

theorem switchService_stores (on : Bool) (b : List Byte) : StoresSound (switchService on b s).state := by
  unfold switchService
  split
  · exact h
  · dsimp only
    split_ifs
    · exact h
    · refine atNow_stores (fun n _ ht => issueClaim_stores ht n) ?_
      exact h.same rfl
    · exact h.same rfl

theorem alertStop_stores (b : List Byte) : StoresSound (alertStop b s).state := by
  show StoresSound (if _ then _ else _)
  split
  · exact (clearSources_stores h).same rfl
  · exact clearSources_stores h

theorem rejoin_stores (b : List Byte) : StoresSound (rejoin b s).state := (enterListen_stores h).same rfl

theorem clearOrdinary_stores : StoresSound (clearOrdinary s) := by
  refine { h with audio := fun k => ?_ }
  exact (congrArg (fun x : Intake => x.queue.length) (mapAll_get _ _ k)).trans_le (h.audio k)

theorem softClear_stores : StoresSound (softClear s) := by
  refine StoresSound.same (s := { s with
    lkp.queue := [], sin.services := mapAll (fun x : Intake => { x with queue := [] }) s.sin.services
    sin.alertQueue := [] }) ?_ rfl
  exact { emptyQueues_stores h (fun x => { x with queue := [] }) (fun _ => rfl) with queue := Nat.zero_le 64 }

theorem clearFlagSet_stores (m : BitVec 24) : StoresSound (clearFlagSet m s) := h.same rfl

theorem softReset_stores (b : List Byte) : StoresSound (softReset b s).state := by
  have hcleared := clearOrdinary_stores (clearFlagSet_stores (enterListen_stores (sampleLines_stores
    (softClear_stores h))) (BitVec.allOnes 24))
  unfold softReset done
  dsimp only
  generalize clearOrdinary _ = t at hcleared ⊢
  exact hcleared.same rfl

theorem loadConfig_stores (b : List Byte) : StoresSound (loadConfig b s).state := by
  unfold loadConfig
  split
  · exact acceptImage_stores h _
  · exact refuseImage_stores h _ _

theorem readLayout_stores (b : List Byte) : StoresSound (readLayout b s).state := by
  unfold readLayout
  split <;> exact h

theorem readText_stores (b : List Byte) : StoresSound (readText b s).state := by
  unfold readText
  split
  · exact h
  · split <;> exact h

theorem readPictures_stores (b : List Byte) : StoresSound (readPictures b s).state := by
  unfold readPictures
  split <;> exact h

theorem clearFlags_stores (b : List Byte) : StoresSound (clearFlags b s).state := h.same rfl

theorem clearCounters_stores (b : List Byte) : StoresSound (clearCounters b s).state :=
  (clearOrdinary_stores h).same rfl

theorem alertStart_stores (b : List Byte) : StoresSound (alertStart b s).state := by
  unfold alertStart
  split
  · exact askSource_stores h _ _ _ _
  · exact h

theorem alertTest_stores (b : List Byte) : StoresSound (alertTest b s).state := by
  unfold alertTest
  split
  · exact askSource_stores h _ _ _ _
  · exact h

theorem textFlush_stores (b : List Byte) : StoresSound (textFlush b s).state := by
  unfold textFlush
  split
  · exact modifyCarousel_stores h _ _
  · exact h

theorem pictureFlush_stores (b : List Byte) : StoresSound (pictureFlush b s).state := by
  unfold pictureFlush
  split
  · exact h.same rfl
  · exact h

theorem readComplete_stores (flash : List Byte) : StoresSound (readComplete flash s) := by
  unfold readComplete
  split
  · exact judgeImage_stores h _
  · exact h

end

/-! ### Every command and every step -/

theorem reset_stores : StoresSound State.reset :=
  ⟨Nat.zero_le _, Nat.zero_le _, fun k => by rw [reset_intake]; exact Nat.zero_le _, Nat.zero_le _, Nat.zero_le _,
    Nat.zero_le _, Nat.zero_le _⟩

/-- Every command keeps the bounds. -/
theorem exec_stores (c : Instr) {s : State} (h : StoresSound s) : ∃ t, exec c s = .next t ∧ StoresSound t := by
  have hr := settle_stores h
  cases c with
  | powerOn => exact ⟨_, rfl, reset_stores.same rfl⟩
  | lineReset => exact ⟨_, rfl, reset_stores.same rfl⟩
  | configReadComplete flash => exact ⟨_, rfl, readComplete_stores hr flash⟩
  | timeMessage bytes => exact ⟨_, rfl, takeTime_stores hr bytes⟩
  | framePulse d o => exact ⟨_, rfl, takePulse_stores hr d o⟩
  | localTimerExpiry o => exact ⟨_, rfl, raiseBoundary_stores hr _ o⟩
  | missedPulse => exact ⟨_, rfl, missPulse_stores hr⟩
  | linkHuntPacket bytes => exact ⟨_, rfl, receiveBytes_stores hr bytes⟩
  | linkHeaderFailed bytes => exact ⟨_, rfl, receiveBytes_stores hr bytes⟩
  | presence p => exact ⟨_, rfl, receive_stores hr _ p⟩
  | claim p => exact ⟨_, rfl, receive_stores hr _ p⟩
  | contrib p => exact ⟨_, rfl, receive_stores hr _ p⟩
  | alert p => exact ⟨_, rfl, receive_stores hr _ p⟩
  | alertEnd p => exact ⟨_, rfl, receive_stores hr _ p⟩
  | transmitDone => exact ⟨_, rfl, transmitterFree_stores hr⟩
  | feedHuntPacket p bytes => exact ⟨_, rfl, feedBytes_stores hr p bytes⟩
  | feedPacketFailed p bytes => exact ⟨_, rfl, feedBytes_stores hr p bytes⟩
  | feedPacketMalformed p code body => exact ⟨_, rfl, feedPacket_stores hr p code body⟩
  | audio p body => exact ⟨_, rfl, feedPacket_stores hr p _ body⟩
  | textSet p body => exact ⟨_, rfl, feedPacket_stores hr p _ body⟩
  | textClear p body => exact ⟨_, rfl, feedPacket_stores hr p _ body⟩
  | picBegin p body => exact ⟨_, rfl, feedPacket_stores hr p _ body⟩
  | picData p body => exact ⟨_, rfl, feedPacket_stores hr p _ body⟩
  | picEnd p body => exact ⟨_, rfl, feedPacket_stores hr p _ body⟩
  | picDelete p body => exact ⟨_, rfl, feedPacket_stores hr p _ body⟩
  | alertReq p body => exact ⟨_, rfl, feedPacket_stores hr p _ body⟩
  | alertClear p body => exact ⟨_, rfl, feedPacket_stores hr p _ body⟩
  | fill p body => exact ⟨_, rfl, feedPacket_stores hr p _ body⟩
  | alertLineChange l high => exact ⟨_, rfl, changeLine_stores hr l high⟩
  | requestReceived r => exact ⟨_, rfl, takeFrame_stores hr r⟩
  | readStatus => exact ⟨_, rfl, takeRequest_stores hr _ (fun _ _ ht => ht)⟩
  | readCounters => exact ⟨_, rfl, takeRequest_stores hr _ (fun _ _ ht => ht)⟩
  | readView => exact ⟨_, rfl, takeRequest_stores hr _ (fun _ _ ht => ht)⟩
  | readAlerts => exact ⟨_, rfl, takeRequest_stores hr _ (fun _ _ ht => ht)⟩
  | readLayout => exact ⟨_, rfl, takeRequest_stores hr _ (fun b _ ht => readLayout_stores ht b)⟩
  | readText => exact ⟨_, rfl, takeRequest_stores hr _ (fun b _ ht => readText_stores ht b)⟩
  | readPictures => exact ⟨_, rfl, takeRequest_stores hr _ (fun b _ ht => readPictures_stores ht b)⟩
  | clearFlags => exact ⟨_, rfl, takeRequest_stores hr _ (fun b _ ht => clearFlags_stores ht b)⟩
  | clearCounters => exact ⟨_, rfl, takeRequest_stores hr _ (fun b _ ht => clearCounters_stores ht b)⟩
  | serviceOff => exact ⟨_, rfl, takeRequest_stores hr _ (fun b _ ht => switchService_stores ht _ b)⟩
  | serviceOn => exact ⟨_, rfl, takeRequest_stores hr _ (fun b _ ht => switchService_stores ht _ b)⟩
  | alertStart => exact ⟨_, rfl, takeRequest_stores hr _ (fun b _ ht => alertStart_stores ht b)⟩
  | alertTest => exact ⟨_, rfl, takeRequest_stores hr _ (fun b _ ht => alertTest_stores ht b)⟩
  | alertStop => exact ⟨_, rfl, takeRequest_stores hr _ (fun b _ ht => alertStop_stores ht b)⟩
  | textFlush => exact ⟨_, rfl, takeRequest_stores hr _ (fun b _ ht => textFlush_stores ht b)⟩
  | pictureFlush => exact ⟨_, rfl, takeRequest_stores hr _ (fun b _ ht => pictureFlush_stores ht b)⟩
  | rejoin => exact ⟨_, rfl, takeRequest_stores hr _ (fun b _ ht => rejoin_stores ht b)⟩
  | softReset => exact ⟨_, rfl, takeRequest_stores hr _ (fun b _ ht => softReset_stores ht b)⟩
  | loadConfig => exact ⟨_, rfl, takeRequest_stores hr _ (fun b _ ht => loadConfig_stores ht b)⟩
  | readFailed | holdoverExpired | frameJump | enterJoining | enterOnAir | enterIsolated | presenceSend | claimResend
  | peerSilent | slotRemoval | claimInForce | feedLost | feedSwitch | feedRevert | textExpiry | pictureLoadTimeout
  | pictureExpiry | alertDurationLimit | localAlertOn | localAlertIdle | alertRepeat | alertRecordStart
  | alertRecordEnded => exact ⟨_, rfl, runEvent_stores h _⟩

/-- Settles O10: an idle step runs the boundary (`settle_stores`), any other runs its command (`exec_stores`). -/
theorem boundedStoresInvariant : Obligations.BoundedStoresInvariant := by
  unfold Obligations.BoundedStoresInvariant
  intro s t h hstep
  unfold step at hstep
  split at hstep
  · obtain rfl := Host.Outcome.next.inj hstep
    exact settle_stores h
  · rename_i c cs _
    obtain ⟨u, hexec, hu⟩ := exec_stores c (s := { s with pending := cs }) (h.same rfl)
    rw [hexec] at hstep
    obtain rfl := Host.Outcome.next.inj hstep
    exact hu

end Sys2Proof.Machine
end

section
/-! PROOFS. Admission to the transmit queue, and what a free transmitter takes of it (R40, R51 to R55). -/

namespace Sys2Proof.Machine

/-! ### A free transmitter's take -/

theorem pickNext_of_closed {u : UnitState} (h : u.viewing = false) (q : List TxPacket) : pickNext u q = none := by
  cases u with
  | loading | halted | clash | offAir => rfl
  | listen | joining | onAir | isolated => cases h

theorem serve_of_none {s : State} (h : pickNext s.pvw.unit s.lkp.queue = none) : serve s = s := by
  unfold serve arbitrate
  rw [h]
  exact ite_self s

theorem serve_of_some {s : State} {p : TxPacket} (hb : s.lkp.transmitting = none)
    (h : pickNext s.pvw.unit s.lkp.queue = some p) : serve s = takePacket p s := by
  rw [serve_of_free hb, arbitrate, h]

/-- A free transmitter finds nothing, or takes a packet. -/
theorem serve_cases (s : State) :
    ((s.lkp.transmitting.isSome = true ∨ pickNext s.pvw.unit s.lkp.queue = none) ∧ serve s = s) ∨
    ∃ p, s.lkp.transmitting = none ∧ pickNext s.pvw.unit s.lkp.queue = some p ∧ serve s = takePacket p s := by
  cases hb : s.lkp.transmitting with
  | some x => exact .inl ⟨.inl rfl, serve_of_busy (by rw [hb]; rfl)⟩
  | none =>
    cases h : pickNext s.pvw.unit s.lkp.queue with
    | none => exact .inl ⟨.inr rfl, serve_of_none h⟩
    | some p => exact .inr ⟨p, rfl, rfl, serve_of_some hb h⟩

theorem serve_eq_servedLkp (r : State) (l : Lkp) : serve { r with lkp := l } = { r with lkp := servedLkp r l } :=
  serve_eq _

theorem servedLkp_of_idle {r : State} {l : Lkp}
    (h : l.transmitting.isSome = true ∨ pickNext r.pvw.unit l.queue = none) : servedLkp r l = l := by
  obtain hbusy | hnone := h
  · exact congrArg State.lkp (serve_of_busy (s := { r with lkp := l }) hbusy)
  · exact congrArg State.lkp (serve_of_none (s := { r with lkp := l }) hnone)

/-- What it takes does not depend on the flags. -/
theorem serve_raiseFlag (f : Flag) (s : State) : serve (raiseFlag f s) = raiseFlag f (serve s) := by
  obtain ⟨hb | h, e⟩ | ⟨p, hb, h, e⟩ := serve_cases s <;> rw [e]
  · exact serve_of_busy hb
  · exact serve_of_none h
  · exact serve_of_some hb h

/-! ### Handing in -/

section
variable {p : TxPacket} {r : State}

theorem enqueue_of_closed (hv : r.pvw.unit.viewing = false) : enqueue p r =
    ({ r with lkp.counters.refusedByState := bump r.lkp.counters.refusedByState }, false) :=
  if_pos (by simp [queueOpen, hv])

/-- A full queue refuses a contribution. -/
theorem enqueue_of_contrib (hv : r.pvw.unit.viewing = true) (hfull : Config.queueSize ≤ (supersede r.lkp.queue p).length)
    (hp : p.kind = .contrib) : enqueue p r =
    (raiseFlag .txOverflow { r with lkp.counters.contribRefused := bump r.lkp.counters.contribRefused }, false) := by
  unfold enqueue
  dsimp only
  rw [if_neg (by simp [queueOpen, hv]), if_neg (Nat.not_lt.mpr hfull), if_pos (by simp [isContrib, hp])]

/-- At a full queue any other packet displaces the newest contribution. -/
theorem enqueue_of_displaced {a b : List TxPacket} {x : TxPacket} (hv : r.pvw.unit.viewing = true)
    (hfull : Config.queueSize ≤ (supersede r.lkp.queue p).length) (hp : p.kind ≠ .contrib)
    (hq : supersede r.lkp.queue p = a ++ x :: b) (hx : x.kind = .contrib) (hb : ∀ y ∈ b, y.kind ≠ .contrib) :
    enqueue p r = (raiseFlag .txOverflow { r with
      lkp.queue := a ++ b ++ [p], lkp.counters.contribDisplaced := bump r.lkp.counters.contribDisplaced }, true) := by
  have hdrop : dropLast isContrib (a ++ x :: b) = a ++ b :=
    dropLast_append a (decide_eq_true hx) (fun y hy => decide_eq_false (hb y hy))
  unfold enqueue
  dsimp only
  rw [if_neg (by simp [queueOpen, hv]), if_neg (Nat.not_lt.mpr hfull), if_neg (by simp [isContrib, hp]), hq,
    if_pos (by simp [isContrib, hx]), hdrop]

/-- At a full queue without contributions it is refused. -/
theorem enqueue_of_full (hv : r.pvw.unit.viewing = true) (hfull : Config.queueSize ≤ (supersede r.lkp.queue p).length)
    (hp : p.kind ≠ .contrib) (hq : ∀ x ∈ supersede r.lkp.queue p, x.kind ≠ .contrib) :
    enqueue p r = (raiseFlag .txOverflow { r with
      lkp.queue := supersede r.lkp.queue p, lkp.counters.controlRefused := bump r.lkp.counters.controlRefused },
      false) := by
  unfold enqueue
  dsimp only
  rw [if_neg (by simp [queueOpen, hv]), if_neg (Nat.not_lt.mpr hfull), if_neg (by simp [isContrib, hp]),
    if_neg (by simpa [isContrib] using hq)]

theorem handIn_of_enqueue {l : Lkp} {taken : Bool} (h : enqueue p r = ({ r with lkp := l }, taken)) :
    handIn p r = ({ r with lkp := servedLkp r l }, taken) := by
  rw [handIn, h, serve_eq_servedLkp]

/-- The same where the queue is full. -/
theorem handIn_of_overflow {l : Lkp} {taken : Bool}
    (h : enqueue p r = (raiseFlag .txOverflow { r with lkp := l }, taken)) :
    handIn p r = ({ r with lkp := servedLkp r l, sup := supWith .txOverflow r }, taken) := by
  rw [handIn, h, serve_raiseFlag, serve_eq_servedLkp]
  rfl

/-- In a state that takes no packets a packet is counted and nothing is taken. -/
theorem handIn_of_closed (hv : r.pvw.unit.viewing = false) : handIn p r =
    ({ r with lkp.counters.refusedByState := bump r.lkp.counters.refusedByState }, false) := by
  rw [handIn_of_enqueue (enqueue_of_closed hv), servedLkp_of_idle (.inr (pickNext_of_closed hv _))]

/-- Once a packet has been handed in, no transmitter is free while the queue holds one it may serve. -/
theorem handIn_busy (h : (handIn p r).1.lkp.transmitting = none) :
    pickNext r.pvw.unit (handIn p r).1.lkp.queue = none := by
  have hunit : (handIn p r).1.pvw.unit = r.pvw.unit := by rw [handIn_eq]
  exact hunit ▸ serve_busy _ h

end

/-! ### Expiry (R55) -/

theorem expireContributions_of_none {n : FrameNo} {t : State}
    (h : t.lkp.queue.filter (fun p => isContrib p && !later p.frameTag (plus n 1)) = []) :
    expireContributions n t = t := if_pos (by rw [h]; rfl)

theorem expireContributions_of_some {n : FrameNo} {t : State}
    (h : t.lkp.queue.filter (fun p => isContrib p && !later p.frameTag (plus n 1)) ≠ []) :
    expireContributions n t = raiseFlag .txExpired { t with
      lkp.queue := t.lkp.queue.filter (fun p => !(isContrib p && !later p.frameTag (plus n 1)))
      lkp.counters.contribExpired := bumpBy t.lkp.counters.contribExpired
        (t.lkp.queue.filter (fun p => isContrib p && !later p.frameTag (plus n 1))).length } :=
  if_neg (by simpa using h)

/-- Settles O23: the hand-in is `handIn_of_closed`, or `enqueue` case by case and the take behind it; the expiry of R55
finds contributions (`expireContributions_of_some`) or none. -/
theorem transmitQueueAdmission : Obligations.TransmitQueueAdmission := by
  unfold Obligations.TransmitQueueAdmission
  refine ⟨fun p r => ⟨handIn_of_closed, fun hv hroom => handIn_of_enqueue (enqueue_of_room hv hroom),
    fun hv hfull hp => handIn_of_overflow (enqueue_of_contrib hv hfull hp),
    fun hv hfull hp hq => handIn_of_overflow (enqueue_of_full hv hfull hp hq),
    fun a b x hv hfull hp hq hx hb => handIn_of_overflow (enqueue_of_displaced hv hfull hp hq hx hb),
    handIn_queue_length p, handIn_busy⟩, fun t n hn => ?_⟩
  have hturn : takeTurn .expireContributions t = expireContributions n t := atNow_of_now hn expireContributions
  dsimp only
  rw [hturn]
  split
  · rename_i hnone
    exact expireContributions_of_none hnone
  · rename_i hsome
    exact expireContributions_of_some hsome

end Sys2Proof.Machine
end

section
/-! PROOFS. The arbiter's choice by class and age, and TRANSMIT_DONE (R53, R54). -/

namespace Sys2Proof.Machine

/-! ### The oldest contribution -/

/-- The older of two contributions, `acc` the one found so far. -/
def older (acc : Option TxPacket) (p : TxPacket) : Option TxPacket :=
  acc.elim (some p) (fun a => if later a.frameTag p.frameTag then some p else some a)

theorem oldestContrib_eq (q : List TxPacket) : oldestContrib q = (q.filter isContrib).foldl older none := by
  unfold oldestContrib
  congr 1
  funext acc p
  cases acc <;> rfl

/-- `p` is the earliest entry of `l` with the oldest frame. -/
def EarliestOldest (p : TxPacket) (l : List TxPacket) : Prop :=
  (∀ x ∈ l, later p.frameTag x.frameTag = false) ∧
    ∃ a b, l = a ++ p :: b ∧ ∀ x ∈ a, later x.frameTag p.frameTag = true

/-- The fold finds an entry. -/
theorem foldl_older_mem (l : List TxPacket) : ∀ a, ∃ p ∈ a :: l, l.foldl older (some a) = some p := by
  induction l with
  | nil => exact fun a => ⟨a, List.mem_cons_self, rfl⟩
  | cons x l ih =>
    intro a
    rw [List.foldl_cons, older, Option.elim_some]
    split
    · obtain ⟨p, hp, hfold⟩ := ih x
      exact ⟨p, List.mem_cons_of_mem _ hp, hfold⟩
    · obtain ⟨p, hp, hfold⟩ := ih a
      exact ⟨p, List.cons_subset_cons a (List.subset_cons_self x l) hp, hfold⟩

/-- Of frames within half the number range the fold finds the oldest, and the earliest entry with it. -/
theorem foldl_older_oldest {base : FrameNo} {p : TxPacket} (l : List TxPacket) : ∀ (done : List TxPacket) (a : TxPacket),
    (∀ x ∈ done ++ l, (x.frameTag - base).toNat < 8388608) → EarliestOldest a done →
    l.foldl older (some a) = some p → EarliestOldest p (done ++ l) := by
  induction l with
  | nil =>
    intro done a _ ha h
    obtain rfl := Option.some.inj h
    rwa [List.append_nil]
  | cons x l ih =>
    intro done a hbase ha h
    obtain ⟨hleast, before, behind, hdone, hbefore⟩ := ha
    have hsplit : done ++ x :: l = (done ++ [x]) ++ l := by simp
    have hold : ∀ y ∈ done, (y.frameTag - base).toNat < 8388608 := fun y hy => hbase y (List.mem_append_left _ hy)
    have hx : (x.frameTag - base).toNat < 8388608 := hbase x (by simp)
    have ha : (a.frameTag - base).toNat < 8388608 := hold a (by rw [hdone]; simp)
    rw [List.foldl_cons, older, Option.elim_some] at h
    rw [hsplit] at hbase ⊢
    by_cases hlater : later a.frameTag x.frameTag = true
    · rw [if_pos hlater] at h
      rw [later_iff_of_within hx ha] at hlater
      have hall : ∀ y ∈ done, later y.frameTag x.frameTag = true := by
        intro y hy
        have hya := hleast y hy
        rw [← Bool.not_eq_true, later_iff_of_within (hold y hy) ha] at hya
        rw [later_iff_of_within hx (hold y hy)]
        omega
      refine ih (done ++ [x]) x hbase ⟨fun y hy => ?_, done, [], rfl, hall⟩ h
      obtain hy | hy := List.mem_append.mp hy
      · have hxy := hall y hy
        rw [later_iff_of_within hx (hold y hy)] at hxy
        rw [← Bool.not_eq_true, later_iff_of_within (hold y hy) hx]
        omega
      · rw [List.mem_singleton.mp hy]
        exact later_self _
    · rw [if_neg hlater] at h
      refine ih (done ++ [x]) a hbase ⟨fun y hy => ?_, before, behind ++ [x], by simp [hdone], hbefore⟩ h
      obtain hy | hy := List.mem_append.mp hy
      · exact hleast y hy
      · rw [List.mem_singleton.mp hy]
        exact Bool.not_eq_true _ ▸ hlater

theorem oldestContrib_mem {q : List TxPacket} {p : TxPacket} (h : oldestContrib q = some p) : p ∈ q.filter isContrib := by
  rw [oldestContrib_eq] at h
  cases hq : q.filter isContrib with
  | nil => rw [hq] at h; cases h
  | cons a l =>
    obtain ⟨x, hx, hfold⟩ := foldl_older_mem l a
    rw [hq, List.foldl_cons] at h
    obtain rfl := Option.some.inj (hfold.symm.trans h)
    exact hx

theorem oldestContrib_oldest {q : List TxPacket} {p : TxPacket} {base : FrameNo} (h : oldestContrib q = some p)
    (hbase : ∀ x ∈ q.filter isContrib, (x.frameTag - base).toNat < 8388608) : EarliestOldest p (q.filter isContrib) := by
  rw [oldestContrib_eq] at h
  cases hq : q.filter isContrib with
  | nil => rw [hq] at h; cases h
  | cons a l =>
    rw [hq] at h hbase
    refine foldl_older_oldest l [a] a hbase ⟨fun x hx => ?_, [], [], rfl, nofun⟩ h
    rw [List.mem_singleton.mp hx]
    exact later_self _

theorem oldestContrib_isSome {q : List TxPacket} (h : q.filter isContrib ≠ []) : ∃ p, oldestContrib q = some p := by
  rw [oldestContrib_eq]
  cases hq : q.filter isContrib with
  | nil => exact absurd hq h
  | cons a l =>
    obtain ⟨p, -, hfold⟩ := foldl_older_mem l a
    exact ⟨p, hfold⟩

/-! ### The choice by class -/

theorem isContrib_iff (p : TxPacket) : isContrib p = true ↔ p.kind.cls = .contribution := by
  cases h : p.kind <;> simp [isContrib, Kind.cls, h]

/-- The earliest packet of a class. -/
def firstOf (c : TxClass) (q : List TxPacket) : Option TxPacket := q.find? (fun p => p.kind.cls = c)

theorem firstOf_some {c : TxClass} {q : List TxPacket} {p : TxPacket} (h : firstOf c q = some p) :
    p.kind.cls = c ∧ ∃ a b, q = a ++ p :: b ∧ ∀ x ∈ a, x.kind.cls ≠ c := by
  obtain ⟨hp, a, b, hq, ha⟩ := List.find?_eq_some_iff_append.mp h
  exact ⟨of_decide_eq_true hp, a, b, hq, fun x hx => by simpa using ha x hx⟩

theorem firstOf_none {c : TxClass} {q : List TxPacket} : firstOf c q = none ↔ ∀ x ∈ q, x.kind.cls ≠ c := by
  simp [firstOf]

theorem pickNext_listen (q : List TxPacket) : pickNext .listen q = q.find? (fun p => p.kind = .presence) := by
  show q.find? _ = _
  congr 1
  funext p
  cases h : p.kind <;> rfl

/-- What the arbiter picks where every class is served: of the first class that is queued, the earliest; of
contributions, the oldest. -/
theorem pickNext_cases {u : UnitState} (h : u = .joining ∨ u = .onAir ∨ u = .isolated) (q : List TxPacket) :
    (pickNext u q = firstOf .alert q ∧ firstOf .alert q ≠ none) ∨
    (firstOf .alert q = none ∧ pickNext u q = firstOf .claim q ∧ firstOf .claim q ≠ none) ∨
    (firstOf .alert q = none ∧ firstOf .claim q = none ∧ pickNext u q = firstOf .presence q ∧
      firstOf .presence q ≠ none) ∨
    (firstOf .alert q = none ∧ firstOf .claim q = none ∧ firstOf .presence q = none ∧
      pickNext u q = oldestContrib q) := by
  have e : pickNext u q = ((firstOf .alert q).or (firstOf .claim q)).or ((firstOf .presence q).or (oldestContrib q)) := by
    obtain rfl | rfl | rfl := h <;> rfl
  rw [e]
  cases firstOf .alert q with
  | some p => exact .inl ⟨rfl, nofun⟩
  | none =>
    cases firstOf .claim q with
    | some p => exact .inr (.inl ⟨rfl, rfl, nofun⟩)
    | none =>
      cases firstOf .presence q with
      | some p => exact .inr (.inr (.inl ⟨rfl, rfl, rfl, nofun⟩))
      | none => exact .inr (.inr (.inr ⟨rfl, rfl, rfl, rfl⟩))

/-- Where no other class is queued, all that is queued is contributions. -/
theorem all_contributions {q : List TxPacket} (ha : firstOf .alert q = none) (hc : firstOf .claim q = none)
    (hp : firstOf .presence q = none) : (∀ x ∈ q, x.kind.cls = .contribution) ∧ q.filter isContrib = q := by
  have hall : ∀ x ∈ q, x.kind.cls = .contribution := by
    intro x hx
    have hxa := firstOf_none.mp ha x hx
    have hxc := firstOf_none.mp hc x hx
    have hxp := firstOf_none.mp hp x hx
    cases h : x.kind.cls
    · exact absurd h hxa
    · exact absurd h hxc
    · exact absurd h hxp
    · rfl
  exact ⟨hall, List.filter_eq_self.mpr (fun x hx => (isContrib_iff x).mpr (hall x hx))⟩

/-- The packet `p` of `q` is the one that the classes and ages of R53 pick. -/
structure PickedByClass (p : TxPacket) (q : List TxPacket) : Prop where
  queued   : p ∈ q
  claim    : p.kind.cls = .claim → ∀ x ∈ q, x.kind.cls ≠ .alert
  presence : p.kind.cls = .presence → ∀ x ∈ q, x.kind.cls ≠ .alert ∧ x.kind.cls ≠ .claim
  last     : p.kind.cls = .contribution → ∀ x ∈ q, x.kind.cls = .contribution
  age      : ∀ base : FrameNo, (∀ x ∈ q, x.kind.cls = .contribution → (x.frameTag - base).toNat < 8388608) →
    (p.kind.cls = .contribution → ∀ x ∈ q, later p.frameTag x.frameTag = false) ∧
    ∃ a b, q = a ++ p :: b ∧ ∀ x ∈ a, x.kind.cls = p.kind.cls →
      p.kind.cls = .contribution ∧ later x.frameTag p.frameTag = true

/-- The earliest packet of a class other than CONTRIB, with none queued of the classes before it. -/
theorem pickedByClass_of_first {c : TxClass} {p : TxPacket} {q : List TxPacket} (h : firstOf c q = some p)
    (hc : c ≠ .contribution) (hclaim : c = .claim → firstOf .alert q = none)
    (hpresence : c = .presence → firstOf .alert q = none ∧ firstOf .claim q = none) : PickedByClass p q := by
  obtain ⟨rfl, a, b, rfl, ha⟩ := firstOf_some h
  exact {
    queued := by simp
    claim := fun e => firstOf_none.mp (hclaim e)
    presence := fun e x hx => ⟨firstOf_none.mp (hpresence e).1 x hx, firstOf_none.mp (hpresence e).2 x hx⟩
    last := fun e => absurd e hc
    age := fun _ _ => ⟨fun e => absurd e hc, a, b, rfl, fun x hx e => absurd e (ha x hx)⟩ }

/-- The oldest contribution, where nothing else is queued. -/
theorem pickedByClass_of_oldest {p : TxPacket} {q : List TxPacket} (ha : firstOf .alert q = none)
    (hc : firstOf .claim q = none) (hp : firstOf .presence q = none) (h : oldestContrib q = some p) :
    PickedByClass p q := by
  obtain ⟨hall, hq⟩ := all_contributions ha hc hp
  have hmem : p ∈ q := hq ▸ oldestContrib_mem h
  have hcls := hall p hmem
  refine ⟨hmem, fun _ => firstOf_none.mp ha, fun _ x hx => ⟨firstOf_none.mp ha x hx, firstOf_none.mp hc x hx⟩,
    fun _ => hall, fun base hbase => ?_⟩
  obtain ⟨hleast, a, b, hsplit, hearlier⟩ := hq ▸ oldestContrib_oldest h (fun x hx => hbase x (hq ▸ hx)
    (hall x (hq ▸ hx)))
  exact ⟨fun _ => hleast, a, b, hsplit, fun x hx _ => ⟨hcls, hearlier x hx⟩⟩

theorem pickNext_picked {u : UnitState} {q : List TxPacket} {p : TxPacket} (hu : u = .joining ∨ u = .onAir ∨ u = .isolated)
    (h : pickNext u q = some p) : PickedByClass p q := by
  obtain ⟨e, -⟩ | ⟨ha, e, -⟩ | ⟨ha, hc, e, -⟩ | ⟨ha, hc, hp, e⟩ := pickNext_cases hu q <;> rw [e] at h
  · exact pickedByClass_of_first h nofun nofun nofun
  · exact pickedByClass_of_first h nofun (fun _ => ha) nofun
  · exact pickedByClass_of_first h nofun nofun (fun _ => ⟨ha, hc⟩)
  · exact pickedByClass_of_oldest ha hc hp h

/-- Where every class is served, a queue that holds a packet gives one. -/
theorem pickNext_of_queued {u : UnitState} {q : List TxPacket} (hu : u = .joining ∨ u = .onAir ∨ u = .isolated)
    (hq : q ≠ []) : ∃ p, pickNext u q = some p := by
  obtain ⟨e, h⟩ | ⟨-, e, h⟩ | ⟨-, -, e, h⟩ | ⟨ha, hc, hp, e⟩ := pickNext_cases hu q <;> rw [e]
  · exact Option.ne_none_iff_exists'.mp h
  · exact Option.ne_none_iff_exists'.mp h
  · exact Option.ne_none_iff_exists'.mp h
  · refine oldestContrib_isSome ?_
    rwa [(all_contributions ha hc hp).2]

/-! ### The packet as it leaves -/

/-- The echo list keeps its newest 64. -/
theorem takePacket_echoes (p : TxPacket) (s : State) :
    let list := s.lkp.echoes ++ [(s.lkp.seq, crc16 (sentHeader s p))]
    (takePacket p s).lkp.echoes = if list.length ≤ 64 then list else list.drop (list.length - 64) := by
  intro list
  split
  · rename_i hle
    show list.drop (list.length - 64) = list
    rw [Nat.sub_eq_zero_of_le hle, List.drop_zero]
  · rfl

theorem takePacket_queue (p : TxPacket) (s : State) : (takePacket p s).lkp.queue = s.lkp.queue.erase p := by
  show dropFirst _ s.lkp.queue = _
  rw [dropFirst_eq_eraseP, List.erase_eq_eraseP]
  congr 1
  funext x
  rw [Bool.beq_eq_decide_eq, decide_eq_decide]
  exact eq_comm

theorem takePacket_lkp (p : TxPacket) (s : State) : (takePacket p s).lkp = { s.lkp with
    queue := (takePacket p s).lkp.queue, seq := s.lkp.seq + 1
    transmitting := some ⟨p.kind, s.lkp.seq, crc16 (sentHeader s p),
      [0x6E, 0x93] ++ sentHeader s p ++ be16 (crc16 (sentHeader s p)) ++ sentBody s p ++ be32 (crc32 (sentBody s p))⟩
    echoes := (takePacket p s).lkp.echoes
    counters := countSent p.kind s.lkp.counters } := by
  unfold takePacket
  rfl

/-- Settles O24: what is taken is `takePacket`; what is picked is `pickNext_picked`. -/
theorem transmitDoneOutcome : Obligations.TransmitDoneOutcome := by
  unfold Obligations.TransmitDoneOutcome
  refine ⟨fun u l p hfree hpick => ?_, fun u l => servedLkp_of_idle, fun s r hr => ?_, fun u q hu =>
    pickNext_of_closed hu q, pickNext_listen, fun u q p hu hpick => ?_, fun u q hu => pickNext_of_queued hu⟩
  · have e : serve { u with lkp := l } = takePacket p { u with lkp := l } := serve_of_some hfree hpick
    show (serve { u with lkp := l }).lkp = _
    rw [e, takePacket_lkp, takePacket_queue, takePacket_echoes]
    rfl
  · have e : transmitterFree r = serve { r with lkp := { r.lkp with transmitting := none } } := (serve_of_free rfl).symm
    subst hr
    exact congrArg Host.Outcome.next (e.trans (serve_eq_servedLkp _ _))
  · obtain ⟨hqueued, hclaim, hpresence, hlast, hage⟩ := pickNext_picked hu hpick
    exact ⟨hqueued, hclaim, hpresence, hlast, hage⟩

end Sys2Proof.Machine
end

section
/-! PROOFS. LKP's sorting of a link packet (R44 to R48): foreign, echo, clash, peer; the sender's sequence number. -/

namespace Sys2Proof.Machine

/-! ### What keeps the sender records -/

@[simp] theorem arbitrate_senders (s : State) : (arbitrate s).lkp.senders = s.lkp.senders := by
  obtain ⟨-, h⟩ | ⟨p, -, h⟩ := arbitrate_cases s <;> rw [h]
  rfl

@[simp] theorem serve_senders (s : State) : (serve s).lkp.senders = s.lkp.senders := by
  unfold serve
  split
  · exact arbitrate_senders s
  · rfl

@[simp] theorem handIn_senders (p : TxPacket) (s : State) : (handIn p s).1.lkp.senders = s.lkp.senders := by
  show (serve (enqueue p s).1).lkp.senders = _
  rw [serve_senders, enqueue_eq]

@[simp] theorem sendPresence_senders (s : State) : (sendPresence s).lkp.senders = s.lkp.senders := handIn_senders _ s

@[simp] theorem sendClaim_senders (c : FramedClaim) (s : State) : (sendClaim c s).lkp.senders = s.lkp.senders :=
  handIn_senders _ s

@[simp] theorem issueClaim_senders (n : FrameNo) (s : State) : (issueClaim n s).lkp.senders = s.lkp.senders := by
  unfold issueClaim
  dsimp only
  rw [sendClaim_senders]
  rfl

@[simp] theorem enterListen_senders (s : State) : (enterListen s).lkp.senders = s.lkp.senders := by
  unfold enterListen
  rw [sendPresence_senders]
  show (cutFrame s).lkp.senders = _
  rw [cutFrame_eq]

@[simp] theorem linkReturn_senders (s : State) : (linkReturn s).lkp.senders = s.lkp.senders := by
  unfold linkReturn
  split
  · exact enterListen_senders s
  · rfl

@[simp] theorem markPeer_lkp (s : State) : (markPeer s).lkp = s.lkp := by
  unfold markPeer
  split <;> rfl

/-! ### What PVW and ALC make of a packet keeps them too -/

@[simp] theorem schedule_lkp (u : UnitId) (f : FrameNo) (s : State) : (schedule u f s).lkp = s.lkp := by
  unfold schedule
  split <;> rfl

@[simp] theorem withdraw_lkp (u : UnitId) (f : Option FrameNo) (s : State) : (withdraw u f s).lkp = s.lkp := by
  unfold withdraw
  dsimp only
  split
  · exact schedule_lkp _ _ _
  · exact schedule_lkp _ _ _
  · rfl

@[simp] theorem compareDigest_lkp (u : UnitId) (d : Option (FrameNo × BitVec 16)) (s : State) :
    (compareDigest u d s).lkp = s.lkp := by
  unfold compareDigest
  split <;> rfl

@[simp] theorem noteAnnounced_lkp (a : Option AlertId) (s : State) : (noteAnnounced a s).lkp = s.lkp := by
  unfold noteAnnounced
  split
  · rfl
  · split <;> rfl

@[simp] theorem rejoinTest_senders (u : UnitId) (x : UnitState) (b : PresenceBody) (s : State) :
    (rejoinTest u x b s).lkp.senders = s.lkp.senders := by
  unfold rejoinTest
  split
  · rfl
  · split
    · exact issueClaim_senders _ _
    · rfl

theorem takePresence_senders (u : UnitId) (b : List Byte) (s : State) :
    (takePresence u b s).lkp.senders = s.lkp.senders := by
  unfold takePresence
  dsimp only
  split
  · rfl
  · split
    · rfl
    · rw [noteAnnounced_lkp]
      unfold meetPresence
      dsimp only
      split
      · rfl
      · rw [rejoinTest_senders, compareDigest_lkp]
        split
        · rw [withdraw_lkp]
          rfl
        · rfl

@[simp] theorem tellCancelled_lkp (u : UnitId) (c : Bool) (s : State) : (tellCancelled u c s).lkp = s.lkp := by
  unfold tellCancelled
  split <;> rfl

theorem takeClaim_lkp (u : UnitId) (b : List Byte) (s : State) : (takeClaim u b s).lkp = s.lkp := by
  unfold takeClaim
  dsimp only
  split_ifs
  · rfl
  · rfl
  · rfl
  · unfold newVersion
    dsimp only
    split_ifs
    · exact tellCancelled_lkp _ _ _
    · exact tellCancelled_lkp _ _ _
    · rfl

theorem handFirst_senders (k : Kind) (b : List Byte) (s : State) : (handFirst k b s).lkp.senders = s.lkp.senders := by
  unfold handFirst handAlert
  dsimp only
  split <;> exact handIn_senders _ _

theorem endOwn_senders (n : FrameNo) (s : State) : (endOwn n s).lkp.senders = s.lkp.senders := by
  unfold endOwn
  split
  · rfl
  · exact handFirst_senders _ _ _

theorem evict_senders (w : AlertRecord) (s : State) : (evict w s).lkp.senders = s.lkp.senders := by
  unfold evict
  dsimp only
  split
  · split
    · exact endOwn_senders _ _
    · rfl
  · rfl

theorem enterRecord_senders {x : AlertRecord} {s t : State} (h : enterRecord x s = some t) :
    t.lkp.senders = s.lkp.senders := by
  unfold enterRecord at h
  split at h
  · cases h
    rfl
  · split at h
    · cases h
    · split at h
      · cases h
        exact evict_senders _ s
      · cases h

theorem takeAlert_senders (u : UnitId) (b : List Byte) (s : State) :
    (takeAlert u b s).lkp.senders = s.lkp.senders := by
  unfold takeAlert
  dsimp only
  split_ifs
  · rfl
  · rfl
  · split
    · unfold heldAlert
      split
      · rfl
      · split_ifs <;> rfl
    · unfold newAlert
      split_ifs
      · rfl
      · split
        · rename_i t ht
          have hkept := enterRecord_senders ht
          exact hkept
        · rfl

theorem takeAlertEnd_senders (u : UnitId) (b : List Byte) (s : State) :
    (takeAlertEnd u b s).lkp.senders = s.lkp.senders := by
  unfold takeAlertEnd
  dsimp only
  split_ifs
  · rfl
  · rfl
  · split
    · rfl
    · split_ifs <;> rfl

/-! ### The sequence numbers -/

/-- What LKP remembers of a sender's sequence numbers: the last one, and the count of the gaps (R46). -/
def sequenceOf (s : State) (u : UnitId) : Option Byte × Nat := (s.lkp.senders[u].last, s.lkp.senders[u].gaps)

theorem sequenceOf_of_senders {s t : State} (h : t.lkp.senders = s.lkp.senders) : sequenceOf t = sequenceOf s := by
  funext u
  unfold sequenceOf
  rw [h]

/-- An update of one sender's record that leaves its sequence numbers. -/
theorem modifySender_sequenceOf (u : UnitId) {f : SenderRecord → SenderRecord}
    (hf : ∀ r, (f r).last = r.last ∧ (f r).gaps = r.gaps) (s : State) :
    sequenceOf (modifySender u f s) = sequenceOf s := by
  funext v
  unfold sequenceOf
  rw [modifySender_senders]
  by_cases hv : v = u
  · subst hv
    rw [modifyAt_self, (hf _).1, (hf _).2]
  · rw [modifyAt_other _ f hv]

theorem testEntry_lkp (a : Arrival) (s : State) : (testEntry a s).lkp = s.lkp := by
  unfold testEntry
  split
  · split_ifs
    · split <;> rfl
    · rfl
  · rfl

theorem holdArrival_lkp (a : Arrival) (s : State) : (holdArrival a s).lkp = s.lkp := by
  unfold holdArrival
  split
  · rfl
  · split_ifs <;> rfl
  · rfl

/-- A late contribution is counted in its sender's record, and nothing else of it changes (R90). -/
theorem arrive_sequenceOf (a : Arrival) (s : State) : sequenceOf (arrive a s) = sequenceOf s := by
  unfold arrive
  split
  · split_ifs
    · exact modifySender_sequenceOf a.sender (f := fun r => { r with late := bump r.late }) (fun _ => ⟨rfl, rfl⟩)
        (countAsm (fun c => { c with late := bump c.late }) s)
    · rfl
    · exact sequenceOf_of_senders (congrArg (·.senders) (holdArrival_lkp a s))
    · exact sequenceOf_of_senders (congrArg (·.senders) (testEntry_lkp a s))
  · rfl

theorem handOn_sequenceOf (k : Kind) (u : UnitId) (p : LinkPacket) (good : Bool) (s : State) :
    sequenceOf (handOn k u p good s) = sequenceOf s := by
  cases k with
  | presence => exact sequenceOf_of_senders (takePresence_senders u p.body s)
  | claim => exact sequenceOf_of_senders (congrArg (·.senders) (takeClaim_lkp u p.body s))
  | contrib => exact arrive_sequenceOf _ s
  | alert => exact sequenceOf_of_senders (takeAlert_senders u p.body s)
  | alertEnd => exact sequenceOf_of_senders (takeAlertEnd_senders u p.body s)

theorem noteValid_sequenceOf (u : UnitId) (s : State) : sequenceOf (noteValid u s) = sequenceOf s := by
  unfold noteValid
  dsimp only
  rw [sequenceOf_of_senders (linkReturn_senders _), sequenceOf_of_senders (congrArg (·.senders) (markPeer_lkp _))]
  exact modifySender_sequenceOf u (f := fun r => { r with packets := bump r.packets }) (fun _ => ⟨rfl, rfl⟩) s

theorem bodyError_sequenceOf (u : UnitId) (s : State) : sequenceOf (bodyError u s) = sequenceOf s :=
  modifySender_sequenceOf u (f := fun r => { r with bodyErrors := bump r.bodyErrors }) (fun _ => ⟨rfl, rfl⟩) s

/-- Whatever becomes of a peer's packet, the sequence numbers are those of the sequence test (R46). -/
theorem peerPacket_sequenceOf (k : Kind) (u : UnitId) (p : LinkPacket) (s : State) :
    sequenceOf (peerPacket k u p s) = sequenceOf (modifySender u (testSequence p.seq) s) := by
  unfold peerPacket
  dsimp only
  split_ifs
  · rw [handOn_sequenceOf, noteValid_sequenceOf]
  · rw [handOn_sequenceOf, noteValid_sequenceOf, bodyError_sequenceOf]
  · exact bodyError_sequenceOf _ _

/-- The sequence test: the number received is held, and a gap is counted where it is no successor (R46). -/
theorem testSequence_eq (q : Byte) (r : SenderRecord) :
    testSequence q r = { r with
      last := some q, gaps := if r.last.any (fun l => q != l + 1) then bump r.gaps else r.gaps } := by
  unfold testSequence
  rw [bumpBy_bit]

/-! ### The receive commands and the sorting -/

theorem exec_packetCommand {s r : State} (h : settle s = r) (k : Kind) (p : LinkPacket) :
    exec (packetCommand k p) s = .next (receive k p r) := by
  subst h
  cases k <;> rfl

/-- A LOCKED receiver of a unit that takes bytes sorts a well-formed packet (R42, R43). -/
theorem exec_sorted {s r : State} {k : Kind} {p : LinkPacket} (h : settle s = r) (hs : Sorted k p r) :
    exec (packetCommand k p) s = .next (sortPacket k (headerCheck k p) p (headerGood r)) := by
  rw [exec_packetCommand h]
  unfold receive
  rw [if_neg (by rw [hs.running]; decide), hs.locked]
  exact congrArg _ (if_pos hs.form)

section
variable {k : Kind} {check : BitVec 16} {p : LinkPacket} {s : State}

theorem isForeign_iff : isForeign p s = true ↔ p.ensemble ≠ ensembleOf s ∨ p.lead ≠ byteOf (leadOf s) := by
  simp [isForeign]

theorem isForeign_of_ours (he : p.ensemble = ensembleOf s) (hl : p.lead = byteOf (leadOf s)) :
    isForeign p s = false := by simp [isForeign, he, hl]

theorem sortPacket_foreign (h : p.ensemble ≠ ensembleOf s ∨ p.lead ≠ byteOf (leadOf s)) :
    sortPacket k check p s = foreignPacket s := if_pos (isForeign_iff.mpr h)

theorem isEcho_iff : isEcho check p s = true ↔ (p.seq, check) ∈ s.lkp.echoes := by
  simp [isEcho]

theorem sortPacket_echo (he : p.ensemble = ensembleOf s) (hl : p.lead = byteOf (leadOf s))
    (h : p.sender.toNat = (selfOf s).val) (hin : (p.seq, check) ∈ s.lkp.echoes) :
    sortPacket k check p s = takeEcho p s := by
  unfold sortPacket
  rw [isForeign_of_ours he hl, if_neg Bool.false_ne_true, if_pos h, if_pos (isEcho_iff.mpr hin)]

theorem sortPacket_clash (he : p.ensemble = ensembleOf s) (hl : p.lead = byteOf (leadOf s))
    (h : p.sender.toNat = (selfOf s).val) (hin : (p.seq, check) ∉ s.lkp.echoes) :
    sortPacket k check p s = takeClash s := by
  unfold sortPacket
  rw [isForeign_of_ours he hl, if_neg Bool.false_ne_true, if_pos h, if_neg (mt isEcho_iff.mp hin)]

theorem sortPacket_peer {u : UnitId} (he : p.ensemble = ensembleOf s) (hl : p.lead = byteOf (leadOf s))
    (hu : p.sender.toNat = u.val) (hn : u ≠ selfOf s) : sortPacket k check p s = peerPacket k u p s := by
  unfold sortPacket
  rw [isForeign_of_ours he hl, if_neg Bool.false_ne_true, if_neg (by rw [hu]; exact fun e => hn (Fin.ext e))]
  have hfin : Fin.ofNat 8 p.sender.toNat = u := Fin.ext (by rw [hu]; exact Nat.mod_eq_of_lt u.isLt)
  rw [hfin]

end

theorem exec_peer {s r : State} {k : Kind} {p : LinkPacket} {u : UnitId} (h : settle s = r) (hp : PeerPacket k p u r) :
    exec (packetCommand k p) s = .next (peerPacket k u p (headerGood r)) := by
  rw [exec_sorted h hp.sorted]
  exact congrArg _ (sortPacket_peer (s := headerGood r) hp.ours.1 hp.ours.2 hp.sender hp.other)

/-! ### The own packet: echo and clash (R45, R64, R65) -/

theorem bodyCheckGood_iff {p : LinkPacket} : bodyCheckGood p = true ↔ p.bodyCheck = crc32 p.body := by
  simp [bodyCheckGood]

/-- LKP once an echo has been heard: its age, its count, and a failed body check in the own record (R45). -/
def heardEcho (p : LinkPacket) (l : Lkp) (self : UnitId) : Lkp :=
  { l with
    echoAge := 0, counters.echoes := bump l.counters.echoes
    senders := if p.bodyCheck = crc32 p.body then l.senders
      else l.senders.set self { l.senders[self] with bodyErrors := bump l.senders[self].bodyErrors } }

theorem takeEcho_eq (p : LinkPacket) (s : State) :
    takeEcho p s = linkReturn (markEcho { s with lkp := heardEcho p s.lkp (selfOf s) }) := by
  unfold takeEcho heardEcho
  dsimp only
  by_cases h : p.bodyCheck = crc32 p.body
  · rw [if_pos h, bodyCheckGood_iff.mpr h]
    have hkeep : ∀ r : SenderRecord, { r with bodyErrors := bumpBy r.bodyErrors (bit (!true) 1) } = r := fun r =>
      congrArg (fun n => { r with bodyErrors := n }) (bumpBy_zero _)
    simp only [modifySender, hkeep, modifyAt_id]
  · rw [if_neg h, Bool.eq_false_iff.mpr (mt bodyCheckGood_iff.mp h)]
    rfl

/-- Outside ISOLATED an echo sets no mark, and the link is not waited for (R64). -/
theorem linkReturn_markEcho_of_ne {s : State} (h : s.pvw.unit ≠ .isolated) : linkReturn (markEcho s) = s := by
  have hmark : markEcho s = s := if_neg h
  rw [hmark]
  exact if_neg (by simp [h])

/-- In ISOLATED an echo with the peer mark or the waiver brings the link back (R64). -/
theorem linkReturn_markEcho_of_isolated {s : State} (h : s.pvw.unit = .isolated) :
    linkReturn (markEcho s) =
      let t : State := { s with pvw := { s.pvw with echoMark := true } }
      if s.pvw.peerMark || s.pvw.peerWaiver then enterListen t else t := by
  have hmark : markEcho s = { s with pvw.echoMark := true } := if_pos h
  rw [hmark]
  unfold linkReturn
  simp [h]

/-! ### A peer's packet whose body is not good (R47) -/

theorem bodyGood_false {k : Kind} {p : LinkPacket} (h : p.bodyCheck ≠ crc32 p.body ∨ bodyHolds k p.body = false) :
    bodyGood k p = false := by
  unfold bodyGood
  rcases h with h | h
  · rw [Bool.eq_false_iff.mpr (mt bodyCheckGood_iff.mp h), Bool.false_and]
  · rw [h, Bool.and_false]

/-- Such a packet changes its sender's record alone. -/
theorem peerPacket_bad {k : Kind} {p : LinkPacket} (u : UnitId) (s : State) (h : bodyGood k p = false)
    (hk : k ≠ .contrib) :
    peerPacket k u p s = modifySender u (fun x => { testSequence p.seq x with bodyErrors := bump x.bodyErrors }) s := by
  unfold peerPacket
  dsimp only
  rw [h, if_neg Bool.false_ne_true, if_neg hk]
  exact modifySender_modifySender _ _ _ _

/-- Settles O26, branch by branch of the sorting; a peer's sequence number is carried forward because nothing behind the
sequence test touches it (`peerPacket_sequenceOf`). -/
theorem linkPacketSorting : Obligations.LinkPacketSorting := by
  refine ⟨?foreign, ?echo, ?clash, ?sequence, ?body⟩
  case foreign =>
    intro s r k p hr hs h
    rw [exec_sorted hr hs]
    exact congrArg _ (sortPacket_foreign (s := headerGood r) h)
  case echo =>
    intro s r k p hr hs he hl hown hin x heard
    have hecho : exec (packetCommand k p) s = .next (linkReturn (markEcho { r with lkp := heard })) := by
      rw [exec_sorted hr hs, sortPacket_echo (s := headerGood r) he hl hown hin, takeEcho_eq]
      rfl
    constructor
    · intro hu
      rw [hecho, linkReturn_markEcho_of_ne (s := { r with lkp := heard }) hu]
    · intro hu
      rw [hecho, linkReturn_markEcho_of_isolated (s := { r with lkp := heard }) hu]
  case clash =>
    intro s r k p hr hs he hl hown hin
    rw [exec_sorted hr hs, sortPacket_clash (s := headerGood r) he hl hown hin]
    rfl
  case sequence =>
    intro s r k p u hr hp
    have hseq : sequenceOf (peerPacket k u p (headerGood r)) u = (some p.seq,
        if r.lkp.senders[u].last.any (fun l => p.seq != l + 1) then bump r.lkp.senders[u].gaps
        else r.lkp.senders[u].gaps) := by
      rw [peerPacket_sequenceOf]
      unfold sequenceOf
      rw [modifySender_senders, modifyAt_self, testSequence_eq]
      rfl
    obtain ⟨hlast, hgaps⟩ := Prod.mk.inj hseq
    refine ⟨_, exec_peer hr hp, hlast, ?_, ?_⟩
    · rintro (h | h) <;> rw [hgaps, h] <;> simp
    · intro l h hne
      rw [hgaps, h]
      exact if_pos (bne_iff_ne.mpr hne)
  case body =>
    intro s r k p u hr hp hbad hk x
    rw [exec_peer hr hp, peerPacket_bad u _ (bodyGood_false hbad) hk]
    simp only [testSequence_eq]
    rfl

end Sys2Proof.Machine
end

section
/-! PROOFS. LKP's receive line: hunting, keeping lock, losing sync (R41 to R43). -/

namespace Sys2Proof.Machine

/-! ### The two commands, and turns that leave bytes -/

/-- Both commands that bring bytes read them in the state the receiver is in (log 51). -/
theorem exec_bytes {s r : State} {c : List Byte → Instr} (hr : settle s = r)
    (hc : c = .linkHuntPacket ∨ c = .linkHeaderFailed) (bs : List Byte) :
    exec (c bs) s = .next (receiveBytes bs r) := by
  subst hr
  obtain rfl | rfl := hc <;> rfl

/-- No boundary is under way behind a settled state's receive line. -/
theorem settle_of_quiet {s r t : State} (hr : settle s = r) (h : Quiet false r t) : settle t = t := by
  subst hr
  exact settle_of_empty (h.agenda.trans (settle_agenda s))

/-- Wherever the next packet may start, the receiver scans for a sync pair. -/
def Scanning (l : Lkp) : Prop := (l.receiver = .hunt → l.huntCount = 0) ∧ (l.receiver = .locked → l.nextKnown = false)

theorem Scanning.lead {l : Lkp} {bs : List Byte} (h : Scanning l) (hn : NoPair 0x6E 0x93 bs) : linkLead l bs := by
  unfold linkLead
  cases hr : l.receiver with
  | hunt => exact (if_pos (h.1 hr)).mpr hn
  | locked => exact (if_neg (by rw [h.2 hr]; nofun)).mpr hn

theorem receiveBytes_scanning {s : State} {bs : List Byte} (h : Scanning s.lkp) (hn : NoPair 0x6E 0x93 bs) :
    receiveBytes bs s = s := by
  by_cases hrun : s.pvw.unit.running = true
  · have hturn := linkTurn_idle (h.lead hn)
    rw [if_neg (fun g => g.2 (h.1 g.1))] at hturn
    rw [receiveBytes_end hrun (by rw [hturn]), hturn]
  · exact if_neg hrun

/-- Reading `bs` in `s` is reading `rest` in `t`, which stays as it is where `rest` holds no sync pair. -/
def ReadsOn (c : List Byte → Instr) (bs rest : List Byte) (s t : State) : Prop :=
  exec (c bs) s = exec (c rest) t ∧ (NoPair 0x6E 0x93 rest → exec (c bs) s = .next t)

section
variable {s r t : State} {c : List Byte → Instr} {bs rest : List Byte}
variable (hr : settle s = r) (hrun : r.pvw.unit.running = true) (hc : c = .linkHuntPacket ∨ c = .linkHeaderFailed)
include hr hrun hc

theorem exec_turn (hturn : linkTurn bs r = ⟨t, some rest⟩) : exec (c bs) s = exec (c rest) t := by
  have hquiet : Quiet false r t := by
    have h := linkTurn_quiet bs r
    rwa [hturn] at h
  rw [exec_bytes hr hc, exec_bytes (settle_of_quiet hr hquiet) hc, receiveBytes_rest hrun (by rw [hturn]), hturn]

/-- A turn after which the receiver scans: bytes without a sync pair leave the state there. -/
theorem readsOn_of_turn (hturn : linkTurn bs r = ⟨t, some rest⟩) (ht : Scanning t.lkp) : ReadsOn c bs rest s t := by
  have hquiet : Quiet false r t := by
    have h := linkTurn_quiet bs r
    rwa [hturn] at h
  have hgoes := exec_turn hr hrun hc hturn
  refine ⟨hgoes, fun hn => ?_⟩
  rw [hgoes, exec_bytes (settle_of_quiet hr hquiet) hc, receiveBytes_scanning ht hn]

end

/-! ### Losing sync (R42, R43) -/

/-- `r` after a loss of sync, with `l` LKP's state but for what the loss sets and `n` its failures (R42, R62). -/
def syncLost (n : Nat) (l : Lkp) (r : State) : State :=
  { r with
    lkp := { l with receiver := .hunt, huntCount := 0, held := [], nextKnown := false, failures := n,
                    counters.syncLosses := bump l.counters.syncLosses }
    pvw := { r.pvw with listenCount := if r.pvw.unit = .listen then 0 else r.pvw.listenCount }
    sup := supWith .linkSyncLost r }

theorem loseSync_eq (l : Lkp) (r : State) : loseSync { r with lkp := l } = syncLost l.failures l r := by
  unfold loseSync breakListen syncLost
  dsimp only
  split <;> rfl

theorem syncLost_scanning (n : Nat) (l : Lkp) (r : State) : Scanning (syncLost n l r).lkp := ⟨fun _ => rfl, nofun⟩

/-- LKP's state once a header failure is counted: the next start is unknown (R42). -/
def headerMissed (l : Lkp) : Lkp :=
  { l with nextKnown := false, counters.headerFailures := bump l.counters.headerFailures }

theorem headerFailure_of_lt {l : Lkp} (r : State) (h : l.failures < 2) :
    headerFailure { r with lkp := l } = { r with lkp := { headerMissed l with failures := l.failures + 1 } } := by
  have hn : upTo 3 l.failures = l.failures + 1 := by unfold upTo; omega
  unfold headerFailure
  dsimp only
  rw [hn, if_neg (by omega)]
  rfl

/-- The third header failure in a row loses sync (R42). -/
theorem headerFailure_of_le {l : Lkp} (r : State) (h : 2 ≤ l.failures) :
    headerFailure { r with lkp := l } = syncLost 3 (headerMissed l) r := by
  have hn : upTo 3 l.failures = 3 := by unfold upTo; omega
  unfold headerFailure
  dsimp only
  rw [hn, if_pos rfl]
  exact loseSync_eq { headerMissed l with failures := 3 } r

theorem malformedFrom_unit {x : Byte} {u : UnitId} (r : State) (h : x.toNat = u.val) :
    malformedFrom x r = { r with lkp := { r.lkp with
      senders := r.lkp.senders.set u
        { r.lkp.senders[u] with headerErrors := bump r.lkp.senders[u].headerErrors } } } := by
  have hlt : x.toNat < 8 := h ▸ u.isLt
  have hfin : (⟨x.toNat, hlt⟩ : UnitId) = u := Fin.ext h
  unfold malformedFrom
  rw [dif_pos hlt, hfin]
  rfl

theorem malformedFrom_none {x : Byte} (r : State) (h : 7 < x.toNat) : malformedFrom x r = r :=
  dif_neg (by omega)

/-- A header failure in LOCKED, with `l` LKP's state before it. -/
theorem exec_headerFailure {s r : State} {c : List Byte → Instr} {bs rest : List Byte} {l : Lkp} (hr : settle s = r)
    (hrun : r.pvw.unit.running = true) (hc : c = .linkHuntPacket ∨ c = .linkHeaderFailed) (hl : l.receiver = .locked)
    (hturn : linkTurn bs r = ⟨headerFailure { r with lkp := l }, some rest⟩) :
    (l.failures < 2 → ReadsOn c bs rest s { r with lkp := { headerMissed l with failures := l.failures + 1 } }) ∧
    (2 ≤ l.failures → ReadsOn c bs rest s (syncLost 3 (headerMissed l) r)) := by
  constructor
  · intro h
    rw [headerFailure_of_lt r h] at hturn
    exact readsOn_of_turn hr hrun hc hturn ⟨fun g => (nomatch hl.symm.trans g), fun _ => rfl⟩
  · intro h
    rw [headerFailure_of_le r h] at hturn
    exact readsOn_of_turn hr hrun hc hturn (syncLost_scanning _ _ _)

/-! ### The receiver at a sync pair -/

theorem linkHeaderGood_false {f : List Byte} (h : f.length < 17 ∨ half f 15 ≠ crc16 (slice f 2 13)) :
    linkHeaderGood f = false := by
  unfold linkHeaderGood
  rcases h with h | h
  · rw [decide_eq_false (by omega), Bool.false_and]
  · rw [decide_eq_false h, Bool.and_false]

section
variable {r : State} {lead : List Byte} (hlead : linkLead r.lkp lead)
include hlead

/-- A failed header check breaks a hunt, and scanning goes on behind the pair (R41). -/
theorem linkTurn_hunt_failed {rest : List Byte} (hh : r.lkp.receiver = .hunt)
    (hf : linkHeaderGood (0x6E :: 0x93 :: rest) = false) :
    linkTurn (lead ++ 0x6E :: 0x93 :: rest) r = ⟨huntBroken r, some rest⟩ := by
  rw [linkTurn_found hlead, hh]
  dsimp only
  unfold linkHuntAt
  rw [if_neg nofun, hf, if_neg Bool.false_ne_true]
  rfl

/-- A hunting receiver at a good header takes the packet as far as it is there, its length as the header gives it. -/
theorem linkTurn_hunt_good {core : List Byte} (v : List Byte) (hh : r.lkp.receiver = .hunt)
    (hcore : core.length = 13) :
    let f := core ++ be16 (crc16 core) ++ v
    let n := 19 + beNat (slice core 6 2)
    linkTurn (lead ++ 0x6E :: 0x93 :: f) r = ⟨huntPacket (f.take n) r, some (f.drop n)⟩ := by
  obtain ⟨hgood, hlength⟩ := linkHeaderAt v hcore
  dsimp only
  rw [linkTurn_found hlead, hh]
  dsimp only
  unfold linkHuntAt
  rw [if_neg nofun, if_pos hgood, hlength,
    show 21 + beNat (slice core 6 2) = 19 + beNat (slice core 6 2) + 2 by omega]
  rfl

/-- Where no byte follows the packet, what of it is there is taken (log 23). -/
theorem linkTurn_hunt_last {core body : List Byte} (hh : r.lkp.receiver = .hunt) (hcore : core.length = 13)
    (hn : body.length ≤ beNat (slice core 6 2) + 4) :
    linkTurn (lead ++ 0x6E :: 0x93 :: (core ++ be16 (crc16 core) ++ body)) r =
      ⟨huntPacket (core ++ be16 (crc16 core) ++ body) r, some []⟩ := by
  have hlen : (core ++ be16 (crc16 core) ++ body).length = 15 + body.length := by simp [hcore, be16]; omega
  rw [linkTurn_hunt_good hlead body hh hcore, List.take_of_length_le (by omega), List.drop_of_length_le (by omega)]

/-- Behind a whole packet the bytes that follow are left. -/
theorem linkTurn_hunt_whole {core body : List Byte} (tail : List Byte) (hh : r.lkp.receiver = .hunt)
    (hcore : core.length = 13) (hn : body.length = beNat (slice core 6 2) + 4) :
    linkTurn (lead ++ 0x6E :: 0x93 :: (core ++ be16 (crc16 core) ++ body ++ tail)) r =
      ⟨huntPacket (core ++ be16 (crc16 core) ++ body) r, some tail⟩ := by
  have hlen : (core ++ be16 (crc16 core) ++ body).length = 15 + body.length := by simp [hcore, be16]; omega
  have hgood := linkTurn_hunt_good hlead (body ++ tail) hh hcore
  rw [← List.append_assoc (core ++ be16 (crc16 core))] at hgood
  dsimp only at hgood
  rw [hgood, List.take_left' (by omega), List.drop_left' (by omega)]

theorem linkTurn_locked_failed {rest : List Byte} (hl : r.lkp.receiver = .locked)
    (hf : linkHeaderGood (0x6E :: 0x93 :: rest) = false) :
    linkTurn (lead ++ 0x6E :: 0x93 :: rest) r = ⟨headerFailure r, some rest⟩ := by
  rw [linkTurn_found hlead, hl]
  dsimp only
  unfold linkLockedAt
  rw [if_neg nofun, hf]
  rfl

/-- A good header that is malformed is counted in its sender's record too (R43). -/
theorem linkTurn_locked_malformed {core rest : List Byte} (hl : r.lkp.receiver = .locked) (hcore : core.length = 13)
    (hf : linkHeaderForm (0x6E :: 0x93 :: (core ++ be16 (crc16 core) ++ rest)) = false) :
    linkTurn (lead ++ 0x6E :: 0x93 :: (core ++ be16 (crc16 core) ++ rest)) r =
      ⟨headerFailure (malformedFrom (byteAt core 4) r), some (core ++ be16 (crc16 core) ++ rest)⟩ := by
  have hsender : byteAt (0x6E :: 0x93 :: (core ++ be16 (crc16 core) ++ rest)) 6 = byteAt core 4 := by
    show (core ++ be16 (crc16 core) ++ rest).getD 4 0 = core.getD 4 0
    rw [List.append_assoc, List.getD_append _ _ _ _ (by omega)]
  rw [linkTurn_found hlead, hl]
  dsimp only
  unfold linkLockedAt
  rw [if_neg nofun, (linkHeaderAt rest hcore).1, hf, hsender]
  rfl

end

theorem huntPacket_eq (inner : List Byte) (r : State) :
    huntPacket inner r = { r with lkp := { r.lkp with
      receiver := if r.lkp.huntCount = 0 then r.lkp.receiver else .locked
      huntCount := if r.lkp.huntCount = 0 then 1 else 0
      held := if r.lkp.huntCount = 0 then inner else []
      failures := if r.lkp.huntCount = 0 then r.lkp.failures else 0
      nextKnown := if r.lkp.huntCount = 0 then r.lkp.nextKnown else true
      counters.huntDiscards := bump r.lkp.counters.huntDiscards } } := by
  unfold huntPacket
  dsimp only
  by_cases h : r.lkp.huntCount = 0
  · rw [if_pos (by omega)]
    simp only [h, if_true]
  · rw [if_neg (by omega)]
    simp only [h, if_false]

/-- Settles O25: one turn at a time, by what the turn finds (`linkTurn_idle`, `linkTurn_found`, `linkTurn_missing`); the
bytes a turn leaves are read in the state it leaves (`exec_turn`). -/
theorem linkReceiverLock : Obligations.LinkReceiverLock := by
  refine ⟨?takes, fun s r bs hr hrun => ?still⟩
  case still =>
    have hkeep : receiveBytes bs r = r := if_neg (by rw [hrun]; nofun)
    rw [exec_bytes hr (.inl rfl), exec_bytes hr (.inr rfl), hkeep]
    exact ⟨rfl, rfl⟩
  intro s r c hr hrun hc goesOn fails broken lost failed
  refine ⟨?idle, ?good, ?huntFailed, ?huntMissing, ?lockMissing, ?lockFailed, ?malformed, ?packet⟩
  case idle =>
    intro bs hlead
    have hturn := linkTurn_idle hlead
    rw [exec_bytes hr hc, receiveBytes_end hrun (by rw [hturn]), hturn]
    simp only [Nat.one_le_iff_ne_zero]
    split <;> rfl
  case good =>
    intro lead core body hh hlead hcore inner bs t
    have ht : huntPacket inner r = t := by rw [huntPacket_eq, hh]
    have hbs : bs = lead ++ 0x6E :: 0x93 :: inner := List.append_assoc ..
    constructor
    · intro hn
      have hturn : linkTurn bs r = ⟨t, some []⟩ := by
        rw [hbs, linkTurn_hunt_last hlead hh hcore hn, ht]
      rw [exec_bytes hr hc, receiveBytes_rest hrun (by rw [hturn]), hturn, receiveBytes_nil]
    · intro hn tail
      have hturn : linkTurn (bs ++ tail) r = ⟨t, some tail⟩ := by
        rw [hbs, List.append_assoc]
        exact (linkTurn_hunt_whole hlead tail hh hcore hn).trans (by rw [ht])
      exact exec_turn hr hrun hc hturn
  case huntFailed =>
    intro lead rest hh hlead hf
    have hturn := linkTurn_hunt_failed hlead hh (linkHeaderGood_false hf)
    rw [List.append_assoc]
    exact readsOn_of_turn hr hrun hc hturn ⟨fun _ => rfl, fun g => (nomatch hh.symm.trans g)⟩
  case huntMissing =>
    intro lead b l hh hcount hlead hb hf
    have hturn := (linkTurn_missing hlead hb hf).1 hh (Nat.one_le_iff_ne_zero.mp hcount)
    rw [List.append_assoc]
    exact readsOn_of_turn hr hrun hc hturn ⟨fun _ => rfl, fun g => (nomatch hh.symm.trans g)⟩
  case lockMissing =>
    intro lead b l hl hknown hlead hb hf
    have hturn := (linkTurn_missing hlead hb hf).2 hl hknown
    rw [loseSync_eq r.lkp r] at hturn
    exact readsOn_of_turn hr hrun hc hturn (syncLost_scanning _ _ _)
  case lockFailed =>
    intro lead rest hl hlead hf
    have hturn := linkTurn_locked_failed hlead hl (linkHeaderGood_false hf)
    have hfails := exec_headerFailure (l := r.lkp) hr hrun hc hl hturn
    rw [List.append_assoc]
    exact hfails
  case malformed =>
    intro lead core rest hl hlead hcore f hform
    have hturn := linkTurn_locked_malformed hlead hl hcore hform
    constructor
    · intro u hu
      rw [malformedFrom_unit r hu] at hturn
      exact exec_headerFailure hr hrun hc hl hturn
    · intro hu
      rw [malformedFrom_none r hu] at hturn
      exact exec_headerFailure (l := r.lkp) hr hrun hc hl hturn
  case packet =>
    intro k p lead t hn hlead ht bs
    rw [exec_packetCommand hr] at ht
    obtain rfl := Host.Outcome.next.inj ht
    have hbs : ∀ tail, bs ++ tail = lead ++ 0x6E :: 0x93 :: (linkInner k p ++ tail) := fun tail => by
      simp [bs, linkInner]
    constructor
    · rw [exec_bytes hr hc, ← List.append_nil bs, hbs, List.append_nil, receiveBytes_one hrun hlead hn]
    · intro hform tail
      rw [exec_bytes hr hc, hbs, receiveBytes_packet tail hrun hlead hn hform,
        exec_bytes (settle_of_quiet hr (receive_quiet k p r)) hc]

end Sys2Proof.Machine
end

section
/-! PROOFS. What works aside of the unit state: the operations that leave the unit state, the held image and the read,
the layout chain, and the queue of a unit that takes no packets, as they stand (R35, R40, R60). -/

namespace Sys2Proof.Machine

/-- From `s` to `t` nothing changes of what `ModeSound` ties together: neither CFL's state nor the unit state nor PLE's,
and an empty queue of a unit that takes no packets stays empty (R40). -/
structure Aside (s t : State) : Prop where
  cfl   : t.cfl = s.cfl
  unit  : t.pvw.unit = s.pvw.unit
  ple   : t.ple = s.ple
  queue : s.pvw.unit.viewing = false → s.lkp.queue = [] → t.lkp.queue = []

namespace Aside

/-- The state's parts that the relation speaks of. -/
def parts (s : State) : Cfl × UnitState × Ple × List TxPacket := (s.cfl, s.pvw.unit, s.ple, s.lkp.queue)

theorem refl (s : State) : Aside s s := ⟨rfl, rfl, rfl, fun _ => id⟩

theorem trans {s t u : State} (h : Aside s t) (g : Aside t u) : Aside s u :=
  ⟨g.cfl.trans h.cfl, g.unit.trans h.unit, g.ple.trans h.ple,
    fun hv hq => g.queue (by rw [h.unit]; exact hv) (h.queue hv hq)⟩

/-- An update that touches none of those parts. -/
theorem same {s t : State} (h : parts t = parts s) : Aside s t := by
  simp only [parts, Prod.mk.injEq] at h
  obtain ⟨hc, hu, hp, hq⟩ := h
  exact ⟨hc, hu, hp, fun _ => hq.trans⟩

theorem ite {c : Prop} [Decidable c] {s t u : State} (h : c → Aside s t) (g : ¬c → Aside s u) :
    Aside s (if c then t else u) := by
  split
  · exact h ‹_›
  · exact g ‹_›

theorem foldl {α : Type} {f : State → α → State} (h : ∀ s a, Aside s (f s a)) (l : List α) :
    ∀ s, Aside s (l.foldl f s) := by
  induction l with
  | nil => exact refl
  | cons a l ih => exact fun s => (h s a).trans (ih _)

/-- The same at a numbered boundary. -/
theorem atNow {f : FrameNo → State → State} (h : ∀ n s, Aside s (f n s)) (s : State) : Aside s (Machine.atNow f s) := by
  unfold Machine.atNow
  split
  · exact h _ s
  · exact refl s

end Aside

/-! ### Named updates -/

theorem raiseFlag_aside (f : Flag) (s : State) : Aside s (raiseFlag f s) := Aside.same rfl

theorem modifyPort_aside (p : PortId) (f : Port → Port) (s : State) : Aside s (modifyPort p f s) := Aside.same rfl

theorem modifyCarousel_aside (k : ServiceIx) (f : Carousel → Carousel) (s : State) : Aside s (modifyCarousel k f s) :=
  Aside.same rfl

theorem countPic_aside (k : ServiceIx) (f : PicCounters → PicCounters) (s : State) : Aside s (countPic k f s) :=
  Aside.same rfl

theorem removeObject_aside (k : ServiceIx) (o : ObjectId) (s : State) : Aside s (removeObject k o s) := Aside.same rfl

/-! ### LKP's transmit side, and PVW's own packets -/

theorem handIn_aside (p : TxPacket) (s : State) : Aside s (handIn p s).1 := by
  refine ⟨?_, ?_, ?_, fun hv hq => ?_⟩
  · rw [handIn_eq]
  · rw [handIn_eq]
  · rw [handIn_eq]
  · rw [handIn_of_closed hv]
    exact hq

theorem transmitterFree_aside (s : State) : Aside s (transmitterFree s) := by
  unfold transmitterFree
  refine ⟨?_, ?_, ?_, fun hv hq => ?_⟩
  · rw [arbitrate_eq]
  · rw [arbitrate_eq]
  · rw [arbitrate_eq]
  · unfold arbitrate
    rw [pickNext_of_closed hv]
    exact hq

theorem expireContributions_aside (n : FrameNo) (s : State) : Aside s (expireContributions n s) :=
  Aside.ite (fun _ => Aside.refl s) (fun _ => ⟨rfl, rfl, rfl, fun _ hq => by
    show s.lkp.queue.filter _ = []
    rw [hq]
    rfl⟩)

theorem sendPresence_aside (s : State) : Aside s (sendPresence s) := (handIn_aside _ s).trans (Aside.same rfl)

theorem sendClaim_aside (c : FramedClaim) (s : State) : Aside s (sendClaim c s) :=
  (handIn_aside _ s).trans (Aside.same rfl)

theorem resendClaim_aside (s : State) : Aside s (resendClaim s) := by
  unfold resendClaim
  split
  · exact sendClaim_aside _ s
  · exact Aside.refl s

theorem issueClaim_aside (n : FrameNo) (s : State) : Aside s (issueClaim n s) := by
  unfold issueClaim
  refine Aside.trans ?_ (sendClaim_aside _ _)
  exact Aside.same rfl

theorem cutFrame_aside (s : State) : Aside s (cutFrame s) := by
  rw [cutFrame_eq]
  exact Aside.same rfl

theorem breakListen_aside (s : State) : Aside s (breakListen s) :=
  Aside.ite (fun _ => Aside.same rfl) (fun _ => Aside.refl s)

/-! ### ALC -/

theorem handAlert_aside (k : Kind) (b : List Byte) (s : State) : Aside s (handAlert k b s) :=
  Aside.ite (fun _ => handIn_aside _ s) (fun _ => (handIn_aside _ s).trans (Aside.same rfl))

theorem handFirst_aside (k : Kind) (b : List Byte) (s : State) : Aside s (handFirst k b s) :=
  Aside.trans (t := { s with alc.repeatCount := 0, progress.alertSent := true }) (Aside.same rfl)
    (handAlert_aside _ _ _)

theorem endOwn_aside (n : FrameNo) (s : State) : Aside s (endOwn n s) := by
  unfold endOwn
  split
  · exact Aside.refl s
  · refine Aside.trans ?_ (handFirst_aside _ _ _)
    exact Aside.same rfl

theorem evict_aside (w : AlertRecord) (s : State) : Aside s (evict w s) := by
  unfold evict
  dsimp only
  refine Aside.ite (fun _ => ?_) (fun _ => Aside.same rfl)
  split
  · refine Aside.trans ?_ (endOwn_aside _ _)
    exact Aside.same rfl
  · exact Aside.same rfl

theorem enterRecord_aside {x : AlertRecord} {s t : State} (h : enterRecord x s = some t) : Aside s t := by
  unfold enterRecord at h
  split at h
  · cases h
    exact Aside.same rfl
  · split at h
    · cases h
    · split at h
      · cases h
        exact (evict_aside _ s).trans (Aside.same rfl)
      · cases h

theorem originate_aside (n : FrameNo) (s : State) : Aside s (originate n s) := by
  refine Aside.ite (fun _ => ?_) (fun _ => Aside.refl s)
  split
  · exact Aside.refl s
  · dsimp only
    split
    · exact Aside.same rfl
    · rename_i t ht
      refine (enterRecord_aside ht).trans (Aside.trans ?_ (handFirst_aside _ _ _))
      exact Aside.same rfl

theorem escalate_aside (n : FrameNo) (s : State) : Aside s (escalate n s) := by
  unfold escalate
  split
  · refine Aside.ite (fun _ => ?_) (fun _ => Aside.refl s)
    dsimp only
    split
    · exact Aside.refl s
    · refine Aside.trans ?_ (handFirst_aside _ _ _)
      exact Aside.same rfl
  · exact Aside.refl s

theorem stopTest_aside (n : FrameNo) (s : State) : Aside s (stopTest n s) := by
  refine Aside.ite (fun _ => Aside.trans ?_ (endOwn_aside _ _)) (fun _ => Aside.refl s)
  exact Aside.same rfl

theorem sourcesTest_aside (n : FrameNo) (s : State) : Aside s (sourcesTest n s) := by
  refine Aside.ite (fun _ => Aside.trans ?_ (endOwn_aside _ _)) (fun _ => Aside.refl s)
  exact Aside.same rfl

theorem sampleLevel_aside (l : LineIx) (s : State) : Aside s (sampleLevel l s) :=
  Aside.ite (fun _ => Aside.refl s) (fun _ => Aside.same rfl)

theorem sampleLine_aside (l : LineIx) (s : State) : Aside s (sampleLine l s) :=
  Aside.ite (fun _ => sampleLevel_aside l s) (fun _ => Aside.same rfl)

theorem sampleLines_aside (s : State) : Aside s (sampleLines s) :=
  (sampleLine_aside 0 s).trans (sampleLine_aside 1 _)

theorem stopLine_aside (l : LineIx) (s : State) : Aside s (stopLine l s) := sampleLine_aside l s

theorem clearSources_aside (s : State) : Aside s (clearSources s) :=
  Aside.trans (t := setRaised .feed false (setRaised .test false (setRaised .supv false s))) (Aside.same rfl)
    ((stopLine_aside 0 _).trans (stopLine_aside 1 _))

theorem durationEnd_aside (n : FrameNo) (s : State) : Aside s (durationEnd n s) := by
  refine Aside.trans (Aside.trans ?_ (clearSources_aside _)) (endOwn_aside _ _)
  exact Aside.same rfl

theorem changeLine_aside (l : LineIx) (high : Bool) (s : State) : Aside s (changeLine l high s) := by
  have hline : Aside s { s with lines := s.lines.set l high } := Aside.same rfl
  unfold changeLine
  dsimp only
  split_ifs
  · exact hline
  · exact hline.trans (sampleLevel_aside l _)
  · exact Aside.same rfl
  · exact hline

theorem repeatAlert_aside (s : State) : Aside s (repeatAlert s) := by
  have hcounted : Aside s { s with
      alc.repeatCount := 0, alc.counters.repeatsSent := bump s.alc.counters.repeatsSent } :=
    Aside.same rfl
  refine Aside.ite (fun _ => ?_) (fun _ => ?_)
  · split
    · exact hcounted.trans (handAlert_aside _ _ _)
    · exact hcounted
  · split
    · exact hcounted.trans (handAlert_aside _ _ _)
    · exact hcounted

theorem heldAlert_aside (b : AlertBody) (r : AlertRecord) (s : State) : Aside s (heldAlert b r s) := by
  unfold heldAlert
  split
  · exact Aside.same rfl
  · exact Aside.ite (fun _ => Aside.same rfl) (fun _ => Aside.ite (fun _ => Aside.same rfl) (fun _ => Aside.same rfl))

theorem newAlert_aside (b : AlertBody) (s : State) : Aside s (newAlert b s) := by
  refine Aside.ite (fun _ => Aside.same rfl) (fun _ => ?_)
  split
  · rename_i t ht
    exact (enterRecord_aside ht).trans (Aside.same rfl)
  · exact Aside.same rfl

theorem takeAlert_aside (u : UnitId) (b : List Byte) (s : State) : Aside s (takeAlert u b s) := by
  refine Aside.ite (fun _ => Aside.same rfl) (fun _ => Aside.ite (fun _ => Aside.same rfl) (fun _ => ?_))
  split
  · exact heldAlert_aside _ _ s
  · exact newAlert_aside _ s

theorem takeAlertEnd_aside (u : UnitId) (b : List Byte) (s : State) : Aside s (takeAlertEnd u b s) := by
  refine Aside.ite (fun _ => Aside.same rfl) (fun _ => Aside.ite (fun _ => Aside.same rfl) (fun _ => ?_))
  split
  · exact Aside.same rfl
  · exact Aside.ite (fun _ => Aside.same rfl) (fun _ => Aside.same rfl)

theorem noteAnnounced_aside (a : Option AlertId) (s : State) : Aside s (noteAnnounced a s) := by
  unfold noteAnnounced
  split
  · exact Aside.refl s
  · exact Aside.ite (fun _ => Aside.refl s) (fun _ => Aside.same rfl)

theorem takeAlertReq_aside (b : List Byte) (s : State) : Aside s (takeAlertReq b s) :=
  Aside.ite (fun _ => Aside.same rfl) (fun _ => Aside.same rfl)

theorem clearEdge_aside (l : LineIx) (s : State) : Aside s (clearEdge l s) :=
  Aside.ite (fun _ => Aside.refl s) (fun _ => Aside.same rfl)

theorem takeAlertClear_aside (s : State) : Aside s (takeAlertClear s) := by
  refine Aside.trans (Aside.trans ?_ (clearEdge_aside 0 _)) (clearEdge_aside 1 _)
  split <;> exact Aside.same rfl

theorem alertFeedLost_aside (s : State) : Aside s (alertFeedLost s) :=
  Aside.ite (fun _ => Aside.same rfl) (fun _ => Aside.same rfl)

/-! ### TXC and PIC -/

theorem takeTextSet_aside (k : ServiceIx) (key : Nat) (b : List Byte) (s : State) :
    Aside s (takeTextSet k key b s) := by
  unfold takeTextSet
  split
  · exact Aside.same rfl
  · exact Aside.ite (fun _ => Aside.same rfl) (fun _ => Aside.same rfl)

theorem takeTextClear_aside (k : ServiceIx) (key : Nat) (b : List Byte) (s : State) :
    Aside s (takeTextClear k key b s) := by
  unfold takeTextClear
  split
  · exact Aside.same rfl
  · exact Aside.ite (fun _ => Aside.same rfl) (fun _ => Aside.ite (fun _ => Aside.same rfl) (fun _ => Aside.same rfl))

theorem cutIfOnAir_aside (k : ServiceIx) (x : PicRecord) (s : State) : Aside s (cutIfOnAir k x s) :=
  Aside.ite (fun _ => Aside.same rfl) (fun _ => Aside.refl s)

theorem admitObject_aside (k : ServiceIx) (p : PortId) (key : Nat) (b : List Byte) (s : State) :
    Aside s (admitObject k p key b s) := Aside.ite (fun _ => Aside.same rfl) (fun _ => Aside.same rfl)

theorem takePicBegin_aside (k : ServiceIx) (p : PortId) (key : Nat) (b : List Byte) (s : State) :
    Aside s (takePicBegin k p key b s) := by
  refine Aside.ite (fun _ => Aside.same rfl) (fun _ => ?_)
  split
  · refine Aside.ite (fun _ => Aside.same rfl) (fun _ => Aside.trans ?_ (admitObject_aside _ _ _ _ _))
    exact (removeObject_aside k _ s).trans ((cutIfOnAir_aside _ _ _).trans (countPic_aside _ _ _))
  · exact admitObject_aside _ _ _ _ s

theorem takePicData_aside (k : ServiceIx) (p : PortId) (b : List Byte) (s : State) : Aside s (takePicData k p b s) := by
  unfold takePicData
  dsimp only
  split
  · exact Aside.same rfl
  · split_ifs <;> exact Aside.same rfl

theorem takePicEnd_aside (k : ServiceIx) (p : PortId) (b : List Byte) (s : State) : Aside s (takePicEnd k p b s) := by
  unfold takePicEnd
  split
  · exact Aside.same rfl
  · split_ifs <;> exact Aside.same rfl

theorem takePicDelete_aside (k : ServiceIx) (key : Nat) (b : List Byte) (s : State) :
    Aside s (takePicDelete k key b s) := by
  unfold takePicDelete
  split
  · exact Aside.same rfl
  · refine Aside.ite (fun _ => Aside.same rfl) (fun _ => ?_)
    exact (removeObject_aside k _ s).trans ((cutIfOnAir_aside _ _ _).trans (countPic_aside _ _ _))

theorem loseLoads_aside (p : PortId) (s : State) : Aside s (loseLoads p s) := by
  refine Aside.ite (fun _ => Aside.refl s) (fun _ => Aside.trans (Aside.trans ?_
    (Aside.foldl (fun t _ => countPic_aside _ _ t) _ _)) (raiseFlag_aside _ _))
  exact Aside.same rfl

theorem expirePicture_aside (k : ServiceIx) (o : ObjectId) (s : State) : Aside s (expirePicture k o s) := by
  unfold expirePicture
  split
  · exact Aside.refl s
  · exact Aside.ite (fun _ => Aside.same rfl) (fun _ => Aside.same rfl)

/-! ### ASM and CPR -/

theorem testEntry_aside (a : Arrival) (s : State) : Aside s (testEntry a s) := by
  rw [testEntry_eq]
  exact Aside.same rfl

theorem arrive_aside (a : Arrival) (s : State) : Aside s (arrive a s) := by
  unfold arrive
  split
  · split_ifs
    · exact Aside.same rfl
    · exact Aside.same rfl
    · rw [holdArrival_eq]
      exact Aside.same rfl
    · exact testEntry_aside a s
  · exact Aside.same rfl

theorem openSlot_aside (n : FrameNo) (l : Layout) (s : State) : Aside s (openSlot n l s) :=
  Aside.trans (t := setSlot n _ s) (Aside.same rfl) (Aside.foldl (fun t a => testEntry_aside a t) _ _)

theorem freeSlot_aside (n : FrameNo) (s : State) : Aside s (freeSlot n s) :=
  Aside.ite (fun _ => Aside.same rfl) (fun _ => Aside.refl s)

theorem sealFrame_aside (n : FrameNo) (s : State) : Aside s (sealFrame n s) := by
  unfold sealFrame
  split
  · exact Aside.ite (fun _ => Aside.same rfl) (fun _ => Aside.same rfl)
  · exact Aside.same rfl

theorem deliver_aside (n : FrameNo) (id : ServiceId) (c : Contribution) (s : State) : Aside s (deliver n id c s) :=
  (handIn_aside _ s).trans (arrive_aside _ _)

theorem fillSide_aside (k : ServiceIx) (cadence c : Nat) (s : State) : Aside s (fillSide k cadence c s).1 := by
  unfold fillSide
  split
  · exact Aside.refl s
  · dsimp only
    rw [requestPictures_eq]
    exact Aside.same rfl

theorem produceService_aside (k : ServiceIx) (n : FrameNo) (e : LayoutEntry) (s : State) :
    Aside s (produceService k n e s) := by
  refine Aside.ite (fun _ => Aside.trans (Aside.trans ?_ (fillSide_aside _ _ _ _)) (deliver_aside _ _ _ _))
    (fun _ => Aside.refl s)
  exact Aside.ite (fun _ => Aside.same rfl) (fun _ => Aside.same rfl)

theorem produceAlert_aside (n : FrameNo) (e : LayoutEntry) (s : State) : Aside s (produceAlert n e s) := by
  refine Aside.ite (fun _ => Aside.trans ?_ (deliver_aside _ _ _ _)) (fun _ => Aside.refl s)
  exact Aside.ite (fun _ => Aside.same rfl) (fun _ => Aside.same rfl)

theorem produceEntry_aside (n : FrameNo) (s : State) (e : LayoutEntry) : Aside s (produceEntry n s e) := by
  refine Aside.ite (fun _ => produceAlert_aside _ _ s) (fun _ => ?_)
  split
  · exact produceService_aside _ _ _ s
  · exact Aside.refl s

theorem produce_aside (n : FrameNo) (s : State) : Aside s (produce n s) := by
  unfold produce
  split
  · exact Aside.ite (fun _ => Aside.foldl (produceEntry_aside n) _ s) (fun _ => Aside.refl s)
  · exact Aside.refl s

/-! ### PVW's table, and OFR -/

theorem schedule_aside (u : UnitId) (f : FrameNo) (s : State) : Aside s (schedule u f s) :=
  Aside.ite (fun _ => Aside.same rfl) (fun _ => Aside.refl s)

theorem goSilent_aside (u : UnitId) (n : FrameNo) (s : State) : Aside s (goSilent u n s) := by
  unfold goSilent
  split
  · exact Aside.refl s
  · refine Aside.trans ?_ (schedule_aside _ _ _)
    exact Aside.same rfl

theorem withdraw_aside (u : UnitId) (f : Option FrameNo) (s : State) : Aside s (withdraw u f s) := by
  have hheard : Aside s (modifyPeer u (fun p =>
      { p with state := .heard, counters.withdrawals := bump p.counters.withdrawals }) s) := Aside.same rfl
  unfold withdraw
  dsimp only
  split
  · exact hheard.trans (schedule_aside _ _ _)
  · exact hheard.trans (schedule_aside _ _ _)
  · exact hheard

theorem compareDigest_aside (u : UnitId) (d : Option (FrameNo × BitVec 16)) (s : State) :
    Aside s (compareDigest u d s) := by
  unfold compareDigest
  split
  · exact Aside.refl s
  · exact Aside.same rfl
  · exact Aside.same rfl

theorem rejoinTest_aside (u : UnitId) (st : UnitState) (b : PresenceBody) (s : State) :
    Aside s (rejoinTest u st b s) := by
  unfold rejoinTest
  split
  · exact Aside.refl s
  · refine Aside.ite (fun _ => Aside.trans ?_ (issueClaim_aside _ _)) (fun _ => Aside.refl s)
    exact Aside.same rfl

theorem meetPresence_aside (u : UnitId) (st : UnitState) (b : PresenceBody) (s : State) :
    Aside s (meetPresence u st b s) := by
  have hstored : Aside s (modifyPeer u (storePresence st b) s) := Aside.same rfl
  refine Aside.ite (fun _ => Aside.refl s) (fun _ => Aside.trans (Aside.trans ?_ (compareDigest_aside _ _ _))
    (rejoinTest_aside _ _ _ _))
  exact Aside.ite (fun _ => hstored.trans (withdraw_aside _ _ _)) (fun _ => hstored)

theorem takePresence_aside (u : UnitId) (b : List Byte) (s : State) : Aside s (takePresence u b s) := by
  refine Aside.ite (fun _ => Aside.same rfl) (fun _ => ?_)
  split
  · exact Aside.same rfl
  · exact (meetPresence_aside _ _ _ s).trans (noteAnnounced_aside _ _)

theorem tellCancelled_aside (u : UnitId) (c : Bool) (s : State) : Aside s (tellCancelled u c s) :=
  Aside.ite (fun _ => Aside.same rfl) (fun _ => Aside.refl s)

theorem newVersion_aside (u : UnitId) (c : FramedClaim) (s : State) : Aside s (newVersion u c s) := by
  refine Aside.ite (fun _ => Aside.trans ?_ (tellCancelled_aside _ _ _))
    (fun _ => Aside.ite (fun _ => Aside.trans ?_ (tellCancelled_aside _ _ _)) (fun _ => Aside.same rfl))
  · exact Aside.same rfl
  · exact Aside.same rfl

theorem takeClaim_aside (u : UnitId) (b : List Byte) (s : State) : Aside s (takeClaim u b s) :=
  Aside.ite (fun _ => Aside.same rfl) (fun _ => Aside.ite (fun _ => Aside.same rfl)
    (fun _ => Aside.ite (fun _ => Aside.same rfl) (fun _ => newVersion_aside _ _ s)))

theorem countListen_aside (s : State) : Aside s (countListen s) := by
  unfold countListen
  split_ifs <;> exact Aside.same rfl

theorem startFrame_aside (s : State) : Aside s (startFrame s) := by
  unfold startFrame
  split
  · exact Aside.ite (fun _ => Aside.same rfl) (fun _ => Aside.same rfl)
  · exact Aside.same rfl

/-! ### LKP's receive side -/

theorem handOn_aside (k : Kind) (u : UnitId) (p : LinkPacket) (good : Bool) (s : State) :
    Aside s (handOn k u p good s) := by
  cases k with
  | presence => exact takePresence_aside _ _ s
  | claim => exact takeClaim_aside _ _ s
  | contrib => exact arrive_aside _ s
  | alert => exact takeAlert_aside _ _ s
  | alertEnd => exact takeAlertEnd_aside _ _ s

theorem huntPacket_aside (inner : List Byte) (s : State) : Aside s (huntPacket inner s) :=
  Aside.ite (fun _ => Aside.same rfl) (fun _ => Aside.same rfl)

theorem loseSync_aside (s : State) : Aside s (loseSync s) := by
  refine Aside.trans (Aside.trans ?_ (breakListen_aside _)) (Aside.same rfl)
  exact Aside.same rfl

theorem headerFailure_aside (s : State) : Aside s (headerFailure s) := by
  refine Aside.ite (fun _ => Aside.trans ?_ (loseSync_aside _)) (fun _ => Aside.same rfl)
  exact Aside.same rfl

theorem malformedFrom_aside (x : Byte) (s : State) : Aside s (malformedFrom x s) := by
  unfold malformedFrom
  split
  · exact Aside.same rfl
  · exact Aside.refl s

theorem markEcho_aside (s : State) : Aside s (markEcho s) := Aside.ite (fun _ => Aside.same rfl) (fun _ => Aside.refl s)

theorem markPeer_aside (s : State) : Aside s (markPeer s) := Aside.ite (fun _ => Aside.same rfl) (fun _ => Aside.refl s)

/-! ### SIN -/

theorem onIntake_aside (k : Nat) (f : Intake → Intake) (s : State) : Aside s (onIntake k f s) := by
  unfold onIntake
  split
  · exact Aside.same rfl
  · exact Aside.refl s

theorem lockSeen_aside (p : PortId) (s : State) : Aside s (lockSeen p s) := by
  unfold lockSeen
  split
  · exact onIntake_aside _ _ s
  · exact onIntake_aside _ _ s
  · exact Aside.refl s

theorem unlockSeen_aside (p : PortId) (s : State) : Aside s (unlockSeen p s) := by
  unfold unlockSeen
  split
  · exact onIntake_aside _ _ s
  · exact Aside.refl s

theorem feedHuntGood_aside (p : PortId) (l : List Byte) (s : State) : Aside s (feedHuntGood p l s) := by
  refine Aside.ite (fun _ => Aside.same rfl) (fun _ => Aside.trans ?_ (lockSeen_aside _ _))
  exact Aside.same rfl

theorem feedFailure_aside (p : PortId) (s : State) : Aside s (feedFailure p s) := by
  refine Aside.ite (fun _ => Aside.same rfl) (fun _ => Aside.trans ?_ (unlockSeen_aside _ _))
  exact Aside.same rfl

theorem takeAudioFor_aside (k : ServiceIx) (b : List Byte) (s : State) : Aside s (takeAudioFor k b s) := by
  unfold takeAudioFor
  split
  · exact Aside.refl s
  · exact Aside.ite (fun _ => Aside.same rfl) (fun _ => Aside.ite (fun _ => Aside.same rfl) (fun _ => Aside.same rfl))

theorem takeAlertAudio_aside (b : List Byte) (s : State) : Aside s (takeAlertAudio b s) :=
  Aside.ite (fun _ => Aside.same rfl) (fun _ => Aside.ite (fun _ => Aside.same rfl) (fun _ => Aside.same rfl))

theorem forService_aside (i : ServiceIx) (p : PortId) (k : FeedKind) (b : List Byte) (s : State) :
    Aside s (forService i p k b s) := by
  cases k with
  | audio => exact takeAudioFor_aside _ _ s
  | textSet => exact takeTextSet_aside _ _ _ s
  | textClear => exact takeTextClear_aside _ _ _ s
  | picBegin => exact takePicBegin_aside _ _ _ _ s
  | picData => exact takePicData_aside _ _ _ s
  | picEnd => exact takePicEnd_aside _ _ _ s
  | picDelete => exact takePicDelete_aside _ _ _ s
  | alertReq | alertClear | fill => exact Aside.same rfl

theorem forAlert_aside (p : PortId) (k : FeedKind) (b : List Byte) (s : State) : Aside s (forAlert p k b s) := by
  cases k with
  | audio => exact takeAlertAudio_aside _ s
  | alertReq => exact takeAlertReq_aside _ s
  | alertClear => exact takeAlertClear_aside s
  | textSet | textClear | picBegin | picData | picEnd | picDelete | fill => exact Aside.same rfl

theorem dispatchFeed_aside (p : PortId) (k : FeedKind) (b : List Byte) (s : State) :
    Aside s (dispatchFeed p k b s) := by
  unfold dispatchFeed
  split
  · exact forAlert_aside _ _ _ s
  · split
    · exact forService_aside _ _ _ _ s
    · exact Aside.refl s
  · split
    · exact forService_aside _ _ _ _ s
    · exact Aside.refl s
  · exact Aside.refl s

theorem goodFeed_aside (p : PortId) (c : Byte) (b : List Byte) (s : State) : Aside s (goodFeed p c b s) := by
  unfold goodFeed
  dsimp only
  split
  · exact Aside.same rfl
  · refine Aside.ite
      (fun _ => Aside.ite (fun _ => Aside.trans ?_ (dispatchFeed_aside _ _ _ _)) (fun _ => Aside.same rfl))
      (fun _ => Aside.same rfl)
    exact Aside.same rfl

theorem feedHuntAt_aside (p : PortId) (f : List Byte) (s : State) : Aside s (feedHuntAt p f s).state := by
  unfold feedHuntAt
  split_ifs
  · exact Aside.refl s
  · exact feedHuntGood_aside p _ s
  · exact Aside.same rfl

theorem feedLockedAt_aside (p : PortId) (f : List Byte) (s : State) : Aside s (feedLockedAt p f s).state := by
  unfold feedLockedAt
  split_ifs
  · exact Aside.refl s
  · exact goodFeed_aside p _ _ s
  · exact feedFailure_aside p s

theorem feedTurn_aside (p : PortId) (bs : List Byte) (s : State) : Aside s (feedTurn p bs s).state := by
  unfold feedTurn
  split
  · exact Aside.refl s
  · unfold feedHuntTurn
    dsimp only
    split_ifs
    · exact feedHuntAt_aside p _ s
    · exact Aside.same rfl
    · exact feedHuntAt_aside p _ s
    · exact Aside.same rfl
  · unfold feedLostTurn
    split_ifs
    · exact Aside.refl s
    · exact Aside.trans (t := feedFound p s) (Aside.same rfl) (feedHuntAt_aside p _ _)
  · unfold feedLockedTurn
    dsimp only
    split_ifs
    · exact feedLockedAt_aside p _ s
    · exact Aside.refl s
    · exact feedLockedAt_aside p _ s
    · exact feedFailure_aside p s

theorem feedBytes_aside (p : PortId) (bs : List Byte) (s : State) : Aside s (feedBytes p bs s) := by
  have hactive : Aside s (markActive p bs s) := Aside.ite (fun _ => Aside.same rfl) (fun _ => Aside.refl s)
  exact Aside.ite (fun _ => hactive.trans (runTurns_keeps Aside.refl Aside.trans (feedTurn_aside p) _ _ _))
    (fun _ => Aside.refl s)

theorem feedPacket_aside (p : PortId) (c : Byte) (b : List Byte) (s : State) : Aside s (feedPacket p c b s) := by
  have hactive : Aside s (modifyPort p (fun x => { x with active := true }) s) := Aside.same rfl
  refine Aside.ite (fun _ => Aside.refl s) (fun _ => Aside.ite (fun _ => feedBytes_aside p _ s) (fun _ => ?_))
  dsimp only
  split
  · exact hactive.trans (feedHuntGood_aside p _ _)
  · refine Aside.trans ?_ (feedHuntGood_aside p _ _)
    exact Aside.same rfl
  · exact hactive.trans (goodFeed_aside _ _ _ _)
  · exact Aside.refl s

theorem losePort_aside (p : PortId) (s : State) : Aside s (losePort p s) := by
  have hlost := (((modifyPort_aside p (fun x =>
    { x with state := .lost, huntCount := 0, held := [], failures := 0, nextKnown := false,
             counters.losts := bump x.counters.losts }) s).trans (unlockSeen_aside p _)).trans
    (raiseFlag_aside .feedLost _)).trans (loseLoads_aside p _)
  exact Aside.ite (fun _ => hlost.trans (alertFeedLost_aside _)) (fun _ => hlost)

theorem takeRoles_aside (s : State) : Aside s (takeRoles s) :=
  (Aside.foldl (fun t p => modifyPort_aside p _ t) _ s).trans (Aside.same rfl)

end Sys2Proof.Machine
end

section
/-! PROOFS. The entries to the unit states: the state entered, and what each entry leaves of the chain and the queue
(R61 to R66). -/

namespace Sys2Proof.Machine

/-! ### The unit state entered -/

theorem sendPresence_unit (s : State) : (sendPresence s).pvw.unit = s.pvw.unit := (sendPresence_aside s).unit

theorem sendPresence_ple (s : State) : (sendPresence s).ple = s.ple := (sendPresence_aside s).ple

theorem enterListen_unit (s : State) : (enterListen s).pvw.unit = .listen := sendPresence_unit _

theorem enterIsolated_unit (s : State) : (enterIsolated s).pvw.unit = .isolated := sendPresence_unit _

theorem enterJoining_unit (n : FrameNo) (s : State) : (enterJoining n s).pvw.unit = .joining := by
  unfold enterJoining
  dsimp only
  rw [sendPresence_unit, serve_eq]

theorem enterOnAir_unit (s : State) : (enterOnAir s).pvw.unit = .onAir := sendPresence_unit _

/-! ### The layout chain -/

theorem enterListen_ple (s : State) : (enterListen s).ple = { s.ple with chain := [], last := none } := by
  unfold enterListen
  rw [sendPresence_ple]
  show { (cutFrame s).ple with chain := [], last := none } = _
  rw [(cutFrame_aside s).ple]

theorem fallSilent_ple (u : UnitState) (s : State) :
    (fallSilent u s).ple = { s.ple with chain := [], last := none } := by
  show { (cutFrame s).ple with chain := [], last := none } = _
  rw [(cutFrame_aside s).ple]

end Sys2Proof.Machine
end

section
/-! PROOFS. The unit state in accord with the read, the held image, the chain and the queue: each operation that changes
one of them, and every step (R35, R40, R56, R60, R175, R178). -/

namespace Sys2Proof.Machine

theorem Aside.mode {s t : State} (h : Aside s t) (hs : ModeSound s) : ModeSound t where
  reading := by rw [h.cfl, h.unit]; exact hs.reading
  running := by rw [h.cfl, h.unit]; exact hs.running
  halted  := by rw [h.cfl, h.unit]; exact hs.halted
  chain   := by rw [h.ple, h.unit]; exact hs.chain
  queue   := by rw [h.unit]; exact fun hv => h.queue hv (hs.queue hv)

/-- An update that touches none of those parts. -/
theorem ModeSound.same {s t : State} (h : ModeSound s) (e : Aside.parts t = Aside.parts s) : ModeSound t :=
  (Aside.same e).mode h

/-- CFL's state as a running unit has it: an image held, no read in progress (R60, R178). -/
def Configured (s : State) : Prop := s.cfl.image.isSome = true ∧ s.cfl.reading = false

theorem Configured.of_cfl {s t : State} (h : Configured s) (e : t.cfl = s.cfl) : Configured t := by
  unfold Configured
  rw [e]
  exact h

theorem ModeSound.configured {s : State} (h : ModeSound s) (hu : s.pvw.unit.running = true) : Configured s := by
  refine ⟨h.running hu, h.reading.trans (decide_eq_false ?_)⟩
  intro hl
  rw [hl] at hu
  cases hu

theorem UnitState.running_of_viewing {u : UnitState} (h : u.viewing = true) : u.running = true := by
  cases u with
  | listen | joining | onAir | isolated | clash | offAir => rfl
  | loading | halted => cases h

/-- A running state is entered soundly where an image is held, if its chain and queue are as the state wants them. -/
theorem mode_of_running {t : State} (hc : Configured t) (hu : t.pvw.unit.running = true)
    (hp : t.pvw.unit.computing = false → t.ple.chain = [] ∧ t.ple.last = none)
    (hq : t.pvw.unit.viewing = false → t.lkp.queue = []) : ModeSound t where
  reading := hc.2.trans (decide_eq_false (by rintro h; rw [h] at hu; cases hu)).symm
  running := fun _ => hc.1
  halted  := fun h => by rw [h] at hu; cases hu
  chain   := hp
  queue   := hq

/-! ### Changes of unit state -/

section
variable {s : State}

theorem enterListen_mode (h : Configured s) : ModeSound (enterListen s) := by
  have hu := enterListen_unit s
  refine mode_of_running (h.of_cfl (enterListen_quiet (r := false) s).cfl) (by rw [hu]; rfl) (fun _ => ?_)
    (by rw [hu]; nofun)
  rw [enterListen_ple]
  exact ⟨rfl, rfl⟩

theorem fallSilent_queue (u : UnitState) (s : State) : (fallSilent u s).lkp.queue = [] :=
  List.filter_eq_nil_iff.mpr (fun _ _ => Bool.false_ne_true)

theorem fallSilent_mode {u : UnitState} (h : Configured s) (hu : u.running = true) : ModeSound (fallSilent u s) := by
  refine mode_of_running (h.of_cfl (fallSilent_quiet (r := false) u s hu).cfl) hu (fun _ => ?_)
    (fun _ => fallSilent_queue u s)
  rw [fallSilent_ple]
  exact ⟨rfl, rfl⟩

theorem enterClash_mode (h : Configured s) : ModeSound (enterClash s) :=
  (Aside.same rfl : Aside (fallSilent .clash s) (enterClash s)).mode (fallSilent_mode h rfl)

theorem enterOffAir_mode (h : Configured s) : ModeSound (enterOffAir s) :=
  (Aside.same rfl : Aside (fallSilent .offAir s) (enterOffAir s)).mode (fallSilent_mode h rfl)

/-- In JOINING, ON_AIR and ISOLATED the chain and the queue may be as they are. -/
theorem mode_of_computing {t : State} (hc : Configured t) (hu : t.pvw.unit.computing = true) : ModeSound t := by
  rcases (computing_iff _).mp hu with h | h | h <;> exact mode_of_running hc (by rw [h]; rfl) (by rw [h]; nofun)
    (by rw [h]; nofun)

theorem enterIsolated_mode (h : Configured s) : ModeSound (enterIsolated s) :=
  mode_of_computing (h.of_cfl (enterIsolated_quiet (r := false) s).cfl) (by rw [enterIsolated_unit]; rfl)

theorem enterJoining_mode (n : FrameNo) (h : Configured s) : ModeSound (enterJoining n s) :=
  mode_of_computing (h.of_cfl (enterJoining_quiet (r := false) n s).cfl) (by rw [enterJoining_unit]; rfl)

theorem enterOnAir_mode (h : Configured s) : ModeSound (enterOnAir s) :=
  mode_of_computing (h.of_cfl (enterOnAir_quiet (r := false) s).cfl) (by rw [enterOnAir_unit]; rfl)

end

section
variable {s : State} (h : ModeSound s)
include h

theorem clearForListen_mode : ModeSound (clearForListen s) :=
  { h with
    chain := fun _ => ⟨rfl, rfl⟩
    queue := fun hv => by rw [clearForListen, removeByState_queue]; exact (congrArg _ (h.queue hv)).trans rfl }

theorem jumpEffects_mode : ModeSound (jumpEffects s) := by
  unfold jumpEffects
  split
  · rename_i hj
    refine enterListen_mode (h.configured ?_)
    cases hu : s.pvw.unit with
    | listen | joining | onAir | isolated | offAir | clash => rfl
    | loading | halted => rw [hu] at hj; cases hj
  · exact clearForListen_mode h

theorem frameJump_mode : ModeSound (frameJump s) := by
  refine jumpEffects_mode (Aside.mode ?_ h)
  exact Aside.same rfl

theorem linkReturn_mode : ModeSound (linkReturn s) := by
  unfold linkReturn
  split
  · rename_i hl
    simp only [Bool.and_eq_true, decide_eq_true_eq] at hl
    obtain ⟨⟨hu, -⟩, -⟩ := hl
    exact enterListen_mode (h.configured (by rw [hu]; rfl))
  · exact h

theorem relocked_mode : ModeSound (relocked s) := by
  unfold relocked
  split
  · rename_i hu
    exact enterListen_mode (h.configured (by rw [hu]; rfl))
  · exact h

theorem holdoverExpired_mode : ModeSound (holdoverExpired s) := by
  unfold holdoverExpired
  dsimp only
  split
  · rename_i hu
    simp only [Bool.or_eq_true, decide_eq_true_eq] at hu
    refine enterOffAir_mode (h.configured ?_)
    rcases hu with (hu | hu) | hu <;> exact (congrArg UnitState.running hu).trans rfl
  · refine Aside.mode ?_ h
    exact Aside.same rfl

/-! ### CFL (R175, R178, R179) -/

/-- A refused image leaves a unit without an image in HALTED; before that it takes no packets and computes no
layouts. -/
theorem refuseImage_mode (c : FaultCause) (f : Option Nat) (hu : s.pvw.unit = .loading ∨ s.pvw.unit = .halted) :
    ModeSound (refuseImage c f s) where
  reading := rfl
  running := nofun
  halted  := fun _ => rfl
  chain   := fun _ => h.chain (by rcases hu with hu | hu <;> rw [hu] <;> rfl)
  queue   := fun _ => h.queue (by rcases hu with hu | hu <;> rw [hu] <;> rfl)

omit h in
theorem acceptImage_mode (i : Image) (s : State) : ModeSound (acceptImage i s) := by
  refine enterListen_mode (Configured.of_cfl (s := takeImage i s) ⟨rfl, rfl⟩ ?_)
  exact ((takeRoles_aside (takeImage i s)).trans (sampleLines_aside _)).cfl

theorem judgeImage_mode (c : ImageCheck) (hu : s.pvw.unit = .loading ∨ s.pvw.unit = .halted) :
    ModeSound (judgeImage c s) := by
  cases c with
  | good i => exact acceptImage_mode i s
  | bad c f => exact refuseImage_mode h c f hu

theorem ModeSound.loading (hr : s.cfl.reading = true) : s.pvw.unit = .loading :=
  of_decide_eq_true (h.reading.symm.trans hr)

theorem readComplete_mode (flash : List Byte) : ModeSound (readComplete flash s) := by
  unfold readComplete
  split
  · rename_i hr
    exact judgeImage_mode h _ (.inl (h.loading (Bool.and_eq_true_iff.mp hr).1))
  · exact h

theorem ageRead_mode : ModeSound (ageRead s) := by
  unfold ageRead
  split
  · exact { h with }
  · exact h

/-! ### LKP's receive side -/

theorem takeEcho_mode (p : LinkPacket) : ModeSound (takeEcho p s) := by
  refine linkReturn_mode (Aside.mode (Aside.trans ?_ (markEcho_aside _)) h)
  exact Aside.same rfl

theorem takeClash_mode : ModeSound (takeClash s) := by
  have hraised : ModeSound (raiseFlag .idClash { s with lkp.counters.clashes := bump s.lkp.counters.clashes }) :=
    h.same rfl
  unfold takeClash
  dsimp only
  split
  · rename_i hv
    exact enterClash_mode (hraised.configured (UnitState.running_of_viewing hv))
  · exact hraised

theorem noteValid_mode (u : UnitId) : ModeSound (noteValid u s) := by
  refine linkReturn_mode (Aside.mode (Aside.trans ?_ (markPeer_aside _)) h)
  exact Aside.same rfl

theorem modifySender_mode (u : UnitId) (f : SenderRecord → SenderRecord) : ModeSound (modifySender u f s) :=
  h.same rfl

theorem peerPacket_mode (k : Kind) (u : UnitId) (p : LinkPacket) : ModeSound (peerPacket k u p s) := by
  have htested := modifySender_mode h u (testSequence p.seq)
  unfold peerPacket
  dsimp only
  split_ifs
  · exact (handOn_aside _ _ _ _ _).mode (noteValid_mode htested u)
  · exact (handOn_aside _ _ _ _ _).mode (noteValid_mode (modifySender_mode htested _ _) u)
  · exact modifySender_mode htested _ _

theorem sortPacket_mode (k : Kind) (c : BitVec 16) (p : LinkPacket) : ModeSound (sortPacket k c p s) := by
  unfold sortPacket
  split_ifs
  · exact h.same rfl
  · exact takeEcho_mode h p
  · exact takeClash_mode h
  · exact peerPacket_mode h _ _ _

theorem headerGood_mode : ModeSound (headerGood s) := h.same rfl

theorem linkHuntAt_mode (f : List Byte) : ModeSound (linkHuntAt f s).state := by
  unfold linkHuntAt
  split_ifs
  · exact h
  · exact (huntPacket_aside _ s).mode h
  · exact h.same rfl

theorem linkLockedAt_mode (f : List Byte) : ModeSound (linkLockedAt f s).state := by
  unfold linkLockedAt
  split_ifs
  · exact h
  · exact (headerFailure_aside s).mode h
  · exact ((malformedFrom_aside _ s).trans (headerFailure_aside _)).mode h
  · show ModeSound (sortAt f s)
    unfold sortAt
    split
    · exact sortPacket_mode (headerGood_mode h) _ _ _
    · exact h

theorem linkTurn_mode (bs : List Byte) : ModeSound (linkTurn bs s).state := by
  unfold linkTurn
  split
  · unfold linkHuntTurn
    dsimp only
    split_ifs
    · exact linkHuntAt_mode h _
    · exact h.same rfl
    · exact linkHuntAt_mode h _
    · exact h.same rfl
  · unfold linkLockedTurn
    dsimp only
    split_ifs
    · exact linkLockedAt_mode h _
    · exact h
    · exact linkLockedAt_mode h _
    · exact (loseSync_aside s).mode h

theorem readLine_mode (bs : List Byte) : ModeSound (readLine bs s) :=
  runTurns_keeps (R := fun s t => ModeSound s → ModeSound t) (fun _ => id) (fun hst htu => htu ∘ hst)
    (fun bs _ hs => linkTurn_mode hs bs) _ bs s h

theorem receiveBytes_mode (bs : List Byte) : ModeSound (receiveBytes bs s) := by
  unfold receiveBytes
  split
  · exact readLine_mode h bs
  · exact h

theorem receive_mode (k : Kind) (p : LinkPacket) : ModeSound (receive k p s) := by
  unfold receive
  split
  · exact h
  · split
    · exact (huntPacket_aside _ s).mode h
    · split
      · exact sortPacket_mode (headerGood_mode h) _ _ _
      · exact readLine_mode (((malformedFrom_aside _ s).trans (headerFailure_aside _)).mode h) _

/-! ### The turns of a boundary -/

/-- A layout joins the chain in the states that compute (R30). -/
theorem computeStep_mode (n : FrameNo) : ModeSound (computeStep n s) := by
  unfold computeStep
  dsimp only
  split
  · rename_i hc
    have hcomputing := (Bool.and_eq_true_iff.mp hc).1
    refine (openSlot_aside _ _ _).mode ?_
    split <;> exact { h with chain := fun hu => absurd hcomputing (by rw [Bool.not_eq_true]; exact hu) }
  · exact h

theorem pruneChain_mode (n : FrameNo) : ModeSound { s with ple.chain := pruneChain n s.ple.chain } :=
  { h with chain := fun hu => ⟨by rw [(h.chain hu).1]; rfl, (h.chain hu).2⟩ }

theorem atNow_mode {f : FrameNo → State → State} (hf : ∀ n, ModeSound (f n s)) : ModeSound (atNow f s) := by
  unfold atNow
  split
  · exact hf _
  · exact h

theorem sealStep_mode (n : FrameNo) : ModeSound (if s.pvw.unit.computing then sealFrame (plus n 1) s else s) :=
  (Aside.ite (fun _ => sealFrame_aside _ s) (fun _ => Aside.refl s)).mode h

/-- An event that is due, or another part of the boundary, keeps the accord: an entry is due in a running unit alone,
and a read fails in LOADING. -/
theorem fire_mode (a : Act) (hd : due a s = true) : ModeSound (fire a s) := by
  cases a with
  | frameJump => exact frameJump_mode h
  | holdoverExpired => exact holdoverExpired_mode h
  | relocked => exact relocked_mode h
  | readAge => exact ageRead_mode h
  | readFailed => exact refuseImage_mode h _ _ (.inl (h.loading ((due_readFailed_iff s).mp hd).1))
  | enterJoining =>
    have hu := ((due_enterJoining_iff s).mp hd).1
    exact atNow_mode h (fun n => enterJoining_mode n (h.configured (by rw [hu]; rfl)))
  | enterOnAir =>
    have hu := ((due_enterOnAir_iff s).mp hd).1
    exact enterOnAir_mode (h.configured (by rw [hu]; rfl))
  | enterIsolated =>
    refine enterIsolated_mode (h.configured ?_)
    rcases ((due_enterIsolated_iff s).mp hd).1 with hu | hu <;> rw [hu] <;> rfl
  | computeLayout => exact atNow_mode h (computeStep_mode h)
  | pruneChain =>
    exact atNow_mode h (f := fun n t => { t with ple.chain := pruneChain n t.ple.chain }) (pruneChain_mode h)
  | sealFrame =>
    exact atNow_mode h (f := fun n t => if t.pvw.unit.computing then sealFrame (plus n 1) t else t) (sealStep_mode h)
  | portActivity p => exact Aside.mode (by exact Aside.ite (fun _ => Aside.same rfl) (fun _ => Aside.refl s)) h
  | feedLost p => exact (losePort_aside p s).mode h
  | feedCounts k => exact Aside.mode (by exact Aside.ite (fun _ => Aside.same rfl) (fun _ => Aside.refl s)) h
  | peerSilent u => exact (Aside.atNow (goSilent_aside u) s).mode h
  | listenCount => exact (countListen_aside s).mode h
  | startFrame => exact (startFrame_aside s).mode h
  | freeSlot => exact (Aside.atNow freeSlot_aside s).mode h
  | expireContributions => exact (Aside.atNow expireContributions_aside s).mode h
  | pictureExpiry k o => exact (expirePicture_aside k o s).mode h
  | produce => exact (Aside.atNow (fun n s => produce_aside (plus n (leadOf s)) s) s).mode h
  | presenceSend => exact (sendPresence_aside s).mode h
  | claimResend => exact (resendClaim_aside s).mode h
  | alertStopTest => exact (Aside.atNow stopTest_aside s).mode h
  | alertDurationLimit => exact (Aside.atNow durationEnd_aside s).mode h
  | alertSourcesTest => exact (Aside.atNow sourcesTest_aside s).mode h
  | escalate => exact (Aside.atNow escalate_aside s).mode h
  | originate => exact (Aside.atNow originate_aside s).mode h
  | alertRepeat => exact (repeatAlert_aside s).mode h
  | endFrame | linkAges | feedSwitch | feedRevert | slotRemoval | claimInForce | rejoinHold | textSide | textExpiry
  | textHold | pictureSide | pictureLoadTimeout | pictureLife | alertRecordStart | alertRecordEnded | localAlertOn
  | localAlertIdle => exact h.same rfl

omit h in
theorem pass_aside (a : Act) (s : State) : Aside s (pass a s) := by
  unfold pass
  split
  · exact Aside.ite (fun _ => Aside.same rfl) (fun _ => Aside.refl s)
  · exact Aside.ite (fun _ => Aside.same rfl) (fun _ => Aside.refl s)
  · exact Aside.ite (fun _ => Aside.same rfl) (fun _ => Aside.refl s)
  · exact Aside.refl s

theorem takeTurn_mode (a : Act) : ModeSound (takeTurn a s) := by
  obtain ⟨hd, e⟩ | ⟨-, e⟩ := takeTurn_cases a s <;> rw [e]
  · exact fire_mode h a hd
  · exact (pass_aside a s).mode h

theorem settle_mode : ModeSound (settle s) :=
  settle_keeps (P := ModeSound) (fun a _ ht => takeTurn_mode ht a) (fun _ _ ht => ht.same rfl) h

theorem runEvent_mode (a : Act) : ModeSound (runEvent a s) :=
  runEvent_keeps (P := ModeSound) (fun a _ ht => takeTurn_mode ht a) (fun _ _ ht => ht.same rfl) a h

/-! ### FTU -/

theorem raiseBoundary_mode (src : BoundarySource) (o : BoundaryOrder) : ModeSound (raiseBoundary src o s) := by
  refine advance_keeps (P := ModeSound) (fun a _ ht => takeTurn_mode ht a)
    (fun _ _ ht => ht.same rfl) _ _ (Aside.mode ?_ h)
  exact Aside.same rfl

theorem takePulse_mode (d : Nat) (o : BoundaryOrder) : ModeSound (takePulse d o s) := by
  unfold takePulse
  split
  · exact h.same rfl
  · unfold matchPulse
    dsimp only
    split
    · exact relocked_mode (h.same rfl)
    · exact h.same rfl
  · exact raiseBoundary_mode h _ o

theorem missPulse_mode : ModeSound (missPulse s) := by
  unfold missPulse
  split
  · dsimp only
    split
    · rename_i hu
      exact enterListen_mode (h.configured ((congrArg UnitState.running hu).trans rfl))
    · refine Aside.mode (Aside.trans ?_ (breakListen_aside _)) h
      exact Aside.same rfl
  · exact h

omit h in
theorem takeTime_aside (bs : List Byte) (s : State) : Aside s (takeTime bs s) := by
  unfold takeTime
  split <;> exact Aside.same rfl

/-! ### SUP -/

omit h in
theorem serveBad_aside (rs : List Request) : ∀ s : State, Aside s (serveBad rs s) := by
  induction rs with
  | nil => exact fun s => Aside.same rfl
  | cons r rs ih =>
    intro s
    refine Aside.ite (fun _ => Aside.trans ?_ (ih _)) (fun _ => Aside.ite (fun _ => Aside.trans ?_ (ih _))
      (fun _ => Aside.same rfl))
    · exact Aside.same rfl
    · exact Aside.same rfl

omit h in
theorem takeFrame_aside (r : RequestFrame) (s : State) : Aside s (takeFrame r s) :=
  Aside.ite (fun _ => serveBad_aside _ s) (fun _ => Aside.same rfl)

/-- A request's row keeps the accord where its action does in the unit states that take it. -/
theorem takeRequest_mode (k : RequestKind) {f : List Byte → State → Acted}
    (hf : ∀ b t, ModeSound t → k.takenIn t.pvw.unit = true → ModeSound (f b t).state) :
    ModeSound (takeRequest k f s) := by
  unfold takeRequest
  split
  · exact h
  · rename_i r rs _
    have hhand : ModeSound { s with sup.queue := rs, sup.inHand := some r } := h.same rfl
    split
    · refine (serveBad_aside _ _).mode (Aside.mode
        (s := (actOn k f r.body { s with sup.queue := rs, sup.inHand := some r }).state) ?_ ?_)
      · exact Aside.same rfl
      · unfold actOn
        split_ifs with htaken
        · exact hhand
        · exact hhand
        · exact hf _ _ hhand (by simpa using htaken)
    · exact h

/-- A request whose action works aside of the unit state. -/
theorem takeRequest_mode_of_aside (k : RequestKind) {f : List Byte → State → Acted}
    (hf : ∀ b t, Aside t (f b t).state) : ModeSound (takeRequest k f s) :=
  takeRequest_mode h k (fun b t ht _ => (hf b t).mode ht)

omit h in
theorem switchService_aside (on : Bool) (b : List Byte) (s : State) : Aside s (switchService on b s).state := by
  unfold switchService
  split
  · exact Aside.refl s
  · dsimp only
    split_ifs
    · exact Aside.refl s
    · refine Aside.trans ?_ (Aside.atNow issueClaim_aside _)
      exact Aside.same rfl
    · exact Aside.same rfl

omit h in
theorem readLayout_aside (b : List Byte) (s : State) : Aside s (readLayout b s).state := by
  unfold readLayout
  split <;> exact Aside.refl s

omit h in
theorem readText_aside (b : List Byte) (s : State) : Aside s (readText b s).state := by
  unfold readText
  split
  · exact Aside.refl s
  · split <;> exact Aside.refl s

omit h in
theorem readPictures_aside (b : List Byte) (s : State) : Aside s (readPictures b s).state := by
  unfold readPictures
  split <;> exact Aside.refl s

omit h in
theorem alertStart_aside (b : List Byte) (s : State) : Aside s (alertStart b s).state := by
  unfold alertStart
  split
  · exact Aside.same rfl
  · exact Aside.refl s

omit h in
theorem alertTest_aside (b : List Byte) (s : State) : Aside s (alertTest b s).state := by
  unfold alertTest
  split
  · exact Aside.same rfl
  · exact Aside.refl s

omit h in
theorem alertStop_aside (b : List Byte) (s : State) : Aside s (alertStop b s).state := by
  show Aside s (if _ then _ else _)
  exact Aside.ite (fun _ => (clearSources_aside s).trans (Aside.same rfl)) (fun _ => clearSources_aside s)

omit h in
theorem textFlush_aside (b : List Byte) (s : State) : Aside s (textFlush b s).state := by
  unfold textFlush
  split
  · exact modifyCarousel_aside _ _ s
  · exact Aside.refl s

omit h in
theorem pictureFlush_aside (b : List Byte) (s : State) : Aside s (pictureFlush b s).state := by
  unfold pictureFlush
  split
  · exact Aside.same rfl
  · exact Aside.refl s

theorem clearOrdinary_mode : ModeSound (clearOrdinary s) := { h with }

theorem clearCounters_mode (b : List Byte) : ModeSound (clearCounters b s).state :=
  Aside.mode (s := clearOrdinary s) (Aside.same rfl) (clearOrdinary_mode h)

/-- REJOIN and SOFT_RESET are taken by a running unit alone (R181, R183). -/
theorem configured_of_taken {k : RequestKind} (hk : k = .rejoin ∨ k = .softReset) (ht : k.takenIn s.pvw.unit = true) :
    Configured s := by
  refine h.configured ?_
  cases hu : s.pvw.unit with
  | listen | joining | onAir | isolated | clash | offAir => rfl
  | loading | halted => rcases hk with rfl | rfl <;> rw [hu] at ht <;> cases ht

theorem rejoin_mode (b : List Byte) (ht : RequestKind.rejoin.takenIn s.pvw.unit = true) :
    ModeSound (rejoin b s).state :=
  Aside.mode (s := enterListen s) (Aside.same rfl) (enterListen_mode (configured_of_taken h (.inl rfl) ht))

theorem softReset_mode (b : List Byte) (ht : RequestKind.softReset.takenIn s.pvw.unit = true) :
    ModeSound (softReset b s).state := by
  have hcfl : (sampleLines (softClear s)).cfl = s.cfl := (sampleLines_aside _).cfl
  have hlisten := enterListen_mode ((configured_of_taken h (.inr rfl) ht).of_cfl hcfl)
  refine Aside.mode (s := clearOrdinary (clearFlagSet (BitVec.allOnes 24)
    (enterListen (sampleLines (softClear s))))) (Aside.same rfl) (clearOrdinary_mode (Aside.mode ?_ hlisten))
  exact Aside.same rfl

theorem loadConfig_mode (b : List Byte) (ht : RequestKind.loadConfig.takenIn s.pvw.unit = true) :
    ModeSound (loadConfig b s).state := by
  have hu : s.pvw.unit = .halted := by
    cases hs : s.pvw.unit with
    | halted => rfl
    | loading | listen | joining | onAir | isolated | clash | offAir => rw [hs] at ht; cases ht
  unfold loadConfig
  split
  · exact acceptImage_mode _ s
  · exact refuseImage_mode h _ _ (.inr hu)

end

/-! ### Every command and every step -/

theorem powerOn_mode (s : State) : ModeSound (powerOn s) :=
  ⟨rfl, nofun, nofun, fun _ => ⟨rfl, rfl⟩, fun _ => rfl⟩

theorem lineReset_mode (s : State) : ModeSound (lineReset s) :=
  ⟨rfl, nofun, nofun, fun _ => ⟨rfl, rfl⟩, fun _ => rfl⟩

/-- Every command keeps the unit state in accord with the read, the image, the chain and the queue. -/
theorem exec_mode (c : Instr) {s : State} (h : ModeSound s) : ∃ t, exec c s = .next t ∧ ModeSound t := by
  have hr := settle_mode h
  cases c with
  | powerOn => exact ⟨_, rfl, powerOn_mode s⟩
  | lineReset => exact ⟨_, rfl, lineReset_mode s⟩
  | configReadComplete flash => exact ⟨_, rfl, readComplete_mode hr flash⟩
  | timeMessage bytes => exact ⟨_, rfl, (takeTime_aside bytes _).mode hr⟩
  | framePulse d o => exact ⟨_, rfl, takePulse_mode hr d o⟩
  | localTimerExpiry o => exact ⟨_, rfl, raiseBoundary_mode hr _ o⟩
  | missedPulse => exact ⟨_, rfl, missPulse_mode hr⟩
  | linkHuntPacket bytes => exact ⟨_, rfl, receiveBytes_mode hr bytes⟩
  | linkHeaderFailed bytes => exact ⟨_, rfl, receiveBytes_mode hr bytes⟩
  | presence p => exact ⟨_, rfl, receive_mode hr _ p⟩
  | claim p => exact ⟨_, rfl, receive_mode hr _ p⟩
  | contrib p => exact ⟨_, rfl, receive_mode hr _ p⟩
  | alert p => exact ⟨_, rfl, receive_mode hr _ p⟩
  | alertEnd p => exact ⟨_, rfl, receive_mode hr _ p⟩
  | transmitDone => exact ⟨_, rfl, (transmitterFree_aside _).mode hr⟩
  | feedHuntPacket p bytes => exact ⟨_, rfl, (feedBytes_aside p bytes _).mode hr⟩
  | feedPacketFailed p bytes => exact ⟨_, rfl, (feedBytes_aside p bytes _).mode hr⟩
  | feedPacketMalformed p code body => exact ⟨_, rfl, (feedPacket_aside p code body _).mode hr⟩
  | audio p b | textSet p b | textClear p b | picBegin p b | picData p b | picEnd p b | picDelete p b | alertReq p b
  | alertClear p b | fill p b => exact ⟨_, rfl, (feedPacket_aside p _ b _).mode hr⟩
  | alertLineChange l high => exact ⟨_, rfl, (changeLine_aside l high _).mode hr⟩
  | requestReceived r => exact ⟨_, rfl, (takeFrame_aside r _).mode hr⟩
  | readStatus | readCounters | readView | readAlerts =>
    exact ⟨_, rfl, takeRequest_mode_of_aside hr _ (fun _ t => Aside.refl t)⟩
  | readLayout => exact ⟨_, rfl, takeRequest_mode_of_aside hr _ readLayout_aside⟩
  | readText => exact ⟨_, rfl, takeRequest_mode_of_aside hr _ readText_aside⟩
  | readPictures => exact ⟨_, rfl, takeRequest_mode_of_aside hr _ readPictures_aside⟩
  | clearFlags => exact ⟨_, rfl, takeRequest_mode_of_aside hr _ (fun _ _ => Aside.same rfl)⟩
  | clearCounters => exact ⟨_, rfl, takeRequest_mode hr _ (fun b _ ht _ => clearCounters_mode ht b)⟩
  | serviceOff => exact ⟨_, rfl, takeRequest_mode_of_aside hr _ (switchService_aside false)⟩
  | serviceOn => exact ⟨_, rfl, takeRequest_mode_of_aside hr _ (switchService_aside true)⟩
  | alertStart => exact ⟨_, rfl, takeRequest_mode_of_aside hr _ alertStart_aside⟩
  | alertTest => exact ⟨_, rfl, takeRequest_mode_of_aside hr _ alertTest_aside⟩
  | alertStop => exact ⟨_, rfl, takeRequest_mode_of_aside hr _ alertStop_aside⟩
  | textFlush => exact ⟨_, rfl, takeRequest_mode_of_aside hr _ textFlush_aside⟩
  | pictureFlush => exact ⟨_, rfl, takeRequest_mode_of_aside hr _ pictureFlush_aside⟩
  | rejoin => exact ⟨_, rfl, takeRequest_mode hr _ (fun b _ ht hk => rejoin_mode ht b hk)⟩
  | softReset => exact ⟨_, rfl, takeRequest_mode hr _ (fun b _ ht hk => softReset_mode ht b hk)⟩
  | loadConfig => exact ⟨_, rfl, takeRequest_mode hr _ (fun b _ ht hk => loadConfig_mode ht b hk)⟩
  | readFailed | holdoverExpired | frameJump | enterJoining | enterOnAir | enterIsolated | presenceSend | claimResend
  | peerSilent | slotRemoval | claimInForce | feedLost | feedSwitch | feedRevert | textExpiry | pictureLoadTimeout
  | pictureExpiry | alertDurationLimit | localAlertOn | localAlertIdle | alertRepeat | alertRecordStart
  | alertRecordEnded => exact ⟨_, rfl, runEvent_mode h _⟩

/-- Settles O9: an idle step runs the boundary (`settle_mode`), any other runs its command (`exec_mode`). -/
theorem unitStateInvariant : Obligations.UnitStateInvariant := by
  unfold Obligations.UnitStateInvariant
  intro s t h hstep
  unfold step at hstep
  split at hstep
  · obtain rfl := Host.Outcome.next.inj hstep
    exact settle_mode h
  · rename_i c cs _
    obtain ⟨u, hexec, hu⟩ := exec_mode c (s := { s with pending := cs }) (h.same rfl)
    rw [hexec] at hstep
    obtain rfl := Host.Outcome.next.inj hstep
    exact hu

end Sys2Proof.Machine
end

section
/-! PROOFS. Entry to CLASH and to OFF_AIR, and the frame cut as the unit leaves the air (R12, R65, R66). -/

namespace Sys2Proof.Machine

/-! ### The cut -/

/-- A valid frame in progress is cut, the number of bytes sent being the next free value (log 6). -/
theorem cutFrame_of_streaming {s : State} {f : StreamFrame} (hf : s.ofr.frame = some f) (hv : f.valid = true)
    (hc : f.sentAtCut = none) : cutFrame s = { s with
      ofr.outputValid := false
      ofr.frame := some { f with sentAtCut := some (min f.bytes.length (Config.freeSent s.freeIx)) }
      ofr.counters.cut := bump s.ofr.counters.cut, freeIx := s.freeIx + 1 } := by
  unfold cutFrame
  simp [hf, hv, hc]

theorem streamingValid_iff (s : State) :
    streamingValid s = true ↔ ∃ f, s.ofr.frame = some f ∧ f.valid = true ∧ f.sentAtCut = none := by
  simp [streamingValid, Option.any_eq_true]

/-! ### What CLASH and OFF_AIR share -/

/-- The cut stands apart from the rest of the entry. -/
theorem fallSilent_eq (u : UnitState) (s : State) :
    fallSilent u s = removeByState (fun _ => true) (clearStore (emptyChain (dropLocal
      { s with pvw.unit := u, ofr := (cutFrame s).ofr, freeIx := (cutFrame s).freeIx }))) := by
  unfold fallSilent
  rw [cutFrame_eq]
  rfl

theorem fallSilent_counters (u : UnitState) (s : State) : (fallSilent u s).lkp.counters = { s.lkp.counters with
    removedByState := bumpBy s.lkp.counters.removedByState s.lkp.queue.length } := by
  rw [fallSilent_eq]
  show { s.lkp.counters with
    removedByState := bumpBy s.lkp.counters.removedByState (s.lkp.queue.filter (fun _ => true)).length } = _
  rw [List.filter_true]

theorem fallSilent_frameSlot (u : UnitState) (s : State) (i : Fin 16) : (fallSilent u s).asm.slots[i] = .free :=
  Vector.getElem_replicate ..

theorem fallSilent_lastProduction (u : UnitState) (s : State) (k : ServiceIx) : (fallSilent u s).cpr.last[k] = none :=
  Vector.getElem_replicate ..

/-- Both entries are the shared one, with PVW's counters and the lifetime counters as they may be. -/
theorem entersSilent {r t : State} (h : t = enterClash r ∨ t = enterOffAir r) :
    ∃ u c l, t = { fallSilent u r with pvw.counters := c, sup.lifetime := l } := by
  rcases h with rfl | rfl
  · exact ⟨.clash, _, _, rfl⟩
  · exact ⟨.offAir, _, _, rfl⟩

/-- Settles O19: both entries are `fallSilent` and a counter; the cut is `cutFrame_of_idle` or
`cutFrame_of_streaming`. -/
theorem leavingTheAirEffect : Obligations.LeavingTheAirEffect := by
  unfold Obligations.LeavingTheAirEffect
  intro r
  refine ⟨fun t ht => ?_, ?_, ?_, ?_, ?_⟩
  · obtain ⟨u, c, l, rfl⟩ := entersSilent ht
    refine ⟨fallSilent_queue u r, fallSilent_counters u r, ?_, ?_, ?_, fallSilent_ple u r, fallSilent_frameSlot u r,
      rfl, fallSilent_lastProduction u r, rfl, ?_, ?_, ?_, ?_, fun hs => ?_, fun f hf hv hc => ?_, ?_⟩
    case refine_8 =>
      rw [fallSilent_eq, cutFrame_of_idle hs]
      exact ⟨rfl, rfl⟩
    case refine_9 =>
      rw [fallSilent_eq, cutFrame_of_streaming hf hv hc]
      exact ⟨rfl, rfl, _, Nat.min_le_left _ _, rfl⟩
    case refine_10 =>
      rw [fallSilent_eq]
      exact ⟨rfl, rfl, rfl, rfl, rfl, rfl⟩
    all_goals
      rw [fallSilent_eq]
      rfl
  · rw [enterClash, fallSilent_eq]; rfl
  · rw [enterClash, fallSilent_eq]; rfl
  · rw [enterOffAir, fallSilent_eq]; rfl
  · rw [enterOffAir, fallSilent_eq]; rfl

end Sys2Proof.Machine
end

section
/-! PROOFS. PVW's own packets as LKP takes them: what a hand-in leaves, and a PRESENCE or a CLAIM sent with a place free
(R51 to R53, R74, R75). -/

namespace Sys2Proof.Machine

/-! ### What a take and a hand-in leave -/

/-- What a free transmitter takes depends on the unit state, FTU and the image alone. -/
theorem servedLkp_congr {r t : State} (l : Lkp) (hu : t.pvw.unit = r.pvw.unit) (hf : t.ftu = r.ftu)
    (hc : t.cfl = r.cfl) : servedLkp t l = servedLkp r l := by
  unfold servedLkp serve arbitrate takePacket sentHeader sentBody ensembleOf leadOf selfOf
  dsimp only
  rw [hu, hf, hc]
  split
  · split <;> rfl
  · rfl

@[simp] theorem serve_receiver (s : State) : (serve s).lkp.receiver = s.lkp.receiver := by
  obtain ⟨-, h⟩ | ⟨p, -, -, h⟩ := serve_cases s <;> rw [h]
  rfl

@[simp] theorem handIn_receiver (p : TxPacket) (s : State) : (handIn p s).1.lkp.receiver = s.lkp.receiver := by
  show (serve (enqueue p s).1).lkp.receiver = _
  rw [serve_receiver, enqueue_eq]

/-- A busy transmitter goes on. -/
theorem handIn_lkp_of_busy (p : TxPacket) {s : State} (h : s.lkp.transmitting.isSome = true) :
    (handIn p s).1.lkp = { s.lkp with
      queue := (handIn p s).1.lkp.queue, counters := (handIn p s).1.lkp.counters } := by
  have hbusy : (enqueue p s).1.lkp.transmitting.isSome = true := by rw [enqueue_eq]; exact h
  unfold handIn
  dsimp only
  rw [serve_of_busy hbusy, enqueue_eq]

/-! ### The queue's packets -/

theorem mem_of_mem_supersede {x p : TxPacket} {q : List TxPacket} (h : x ∈ supersede q p) : x ∈ q := by
  unfold supersede at h
  split at h
  · exact List.mem_of_mem_filter h
  · exact h

theorem mem_of_mem_dropLast {α : Type} {p : α → Bool} {x : α} {l : List α} (h : x ∈ dropLast p l) : x ∈ l := by
  rw [dropLast, List.mem_reverse, dropFirst_eq_eraseP] at h
  exact List.mem_reverse.mp (List.mem_of_mem_eraseP h)

theorem mem_of_mem_enqueue {x p : TxPacket} {s : State} (h : x ∈ (enqueue p s).1.lkp.queue) :
    x ∈ s.lkp.queue ∨ x = p := by
  unfold enqueue at h
  dsimp only at h
  split_ifs at h
  · exact .inl h
  · exact (List.mem_append.mp h).imp mem_of_mem_supersede List.mem_singleton.mp
  · exact .inl h
  · exact (List.mem_append.mp h).imp (fun h => mem_of_mem_supersede (mem_of_mem_dropLast h)) List.mem_singleton.mp
  · exact .inl (mem_of_mem_supersede h)

theorem mem_of_mem_serve {x : TxPacket} {s : State} (h : x ∈ (serve s).lkp.queue) : x ∈ s.lkp.queue := by
  obtain ⟨-, e⟩ | ⟨p, -, -, e⟩ := serve_cases s <;> rw [e] at h
  · exact h
  · rw [takePacket_queue] at h
    exact List.mem_of_mem_erase h

theorem mem_of_mem_handIn {x p : TxPacket} {s : State} (h : x ∈ (handIn p s).1.lkp.queue) :
    x ∈ s.lkp.queue ∨ x = p := mem_of_mem_enqueue (mem_of_mem_serve h)

/-! ### With a place free -/

theorem withPresence_room {q : List TxPacket} (h : q.length < 64) :
    (q.filter (fun x => x.kind != .presence)).length < 64 := (List.length_filter_le _ _).trans_lt h

theorem sendPresence_of_room {s : State} (hv : s.pvw.unit.viewing = true)
    (h : (s.lkp.queue.filter (fun x => x.kind != .presence)).length < 64) :
    sendPresence s = { s with
      pvw.presenceCount := 0, progress.presenceSent := true
      lkp := servedLkp s { s.lkp with queue := withPresence (presencePacket s) s.lkp.queue } } := by
  have e := handIn_of_enqueue (enqueue_of_room (p := presencePacket s) hv h)
  show { (handIn (presencePacket s) s).1 with pvw.presenceCount := 0, progress.presenceSent := true } = _
  rw [e]
  rfl

theorem sendClaim_of_room {c : FramedClaim} {s : State} (hv : s.pvw.unit.viewing = true)
    (h : s.lkp.queue.length < 64) :
    sendClaim c s = { s with
      pvw.claimCount := 0, progress.claimSent := true
      lkp := servedLkp s { s.lkp with queue := s.lkp.queue ++ [claimPacket c] } } := by
  have e := handIn_of_enqueue (enqueue_of_room (p := claimPacket c) hv h)
  show { (handIn (claimPacket c) s).1 with pvw.claimCount := 0, progress.claimSent := true } = _
  rw [e]
  rfl

/-- A PRESENCE shows the unit state it was handed in in. -/
theorem byteAt_ownPresence (s : State) : byteAt (ownPresence s) 0 = byteOf s.pvw.unit.code := rfl

end Sys2Proof.Machine
end

section
/-! PROOFS. Entry to LISTEN (R61). -/

namespace Sys2Proof.Machine

/-- Entry to LISTEN, the cut aside, is the clearing and a PRESENCE. -/
def listening (s : State) : State :=
  clearForListen { s with pvw.unit := .listen, ofr := (cutFrame s).ofr, freeIx := (cutFrame s).freeIx }

theorem enterListen_eq (s : State) : enterListen s = sendPresence (listening s) := by
  unfold enterListen
  rw [cutFrame_eq]
  rfl

theorem enterListen_listening (s : State) : enterListen s = { listening s with
    pvw.presenceCount := 0, progress.presenceSent := true
    lkp := (enterListen s).lkp, sup := (enterListen s).sup } := by
  rw [enterListen_eq]
  exact sendPresence_eq _

theorem listening_queue (s : State) : (listening s).lkp.queue = s.lkp.queue.filter (fun p => !claimOrContrib p) := rfl

/-- Of a queue without CLAIM and CONTRIB a new PRESENCE leaves the alerts. -/
theorem alerts_of_listening (s : State) : (listening s).lkp.queue.filter (fun x => x.kind != .presence) =
    s.lkp.queue.filter (fun p => p.kind.cls = .alert) := by
  rw [listening_queue, List.filter_filter]
  congr 1
  funext p
  unfold claimOrContrib
  cases p.kind <;> rfl

theorem enterListen_queue {s : State} {p : TxPacket} (h : p ∈ (enterListen s).lkp.queue) :
    p.kind ≠ .claim ∧ p.kind ≠ .contrib := by
  rw [enterListen_eq] at h
  obtain hq | rfl := mem_of_mem_handIn h
  · have hk := (List.mem_filter.mp hq).2
    simpa [claimOrContrib] using hk
  · exact ⟨nofun, nofun⟩

theorem enterListen_of_room {s : State} (h : (s.lkp.queue.filter (fun p => p.kind.cls = .alert)).length < 64) :
    (enterListen s).sup = s.sup ∧ ∃ body, byteAt body 0 = 1 ∧
      (enterListen s).lkp = servedLkp (enterListen s) { s.lkp with
        queue := s.lkp.queue.filter (fun p => p.kind.cls = .alert) ++ [⟨.presence, 0, 0, body⟩]
        counters := { s.lkp.counters with
          removedByState := bumpBy s.lkp.counters.removedByState (s.lkp.queue.filter claimOrContrib).length } } := by
  have e := enterListen_eq s
  rw [sendPresence_of_room rfl (by rw [alerts_of_listening]; exact h)] at e
  refine ⟨by rw [e]; rfl, ownPresence (listening s), byteAt_ownPresence _, ?_⟩
  rw [servedLkp_congr (r := listening s) _ (by rw [e]) (by rw [e]) (by rw [e]), e, withPresence, alerts_of_listening]
  rfl

theorem enterListen_of_busy {s : State} (h : s.lkp.transmitting.isSome = true) :
    (enterListen s).lkp.seq = s.lkp.seq ∧ (enterListen s).lkp.echoes = s.lkp.echoes ∧
      (enterListen s).lkp.transmitting = s.lkp.transmitting := by
  rw [enterListen_eq, sendPresence_eq, handIn_lkp_of_busy _ (s := listening s) h]
  exact ⟨rfl, rfl, rfl⟩

theorem enterListen_receiver (s : State) : (enterListen s).lkp.receiver = s.lkp.receiver := by
  rw [enterListen_eq, sendPresence_eq]
  exact handIn_receiver _ _

theorem enterListen_ofr (s : State) : (enterListen s).ofr = (cutFrame s).ofr := by
  rw [enterListen_eq, sendPresence_eq]
  rfl

/-- Settles O18: the clearing is `listening`, the PRESENCE `enterListen_of_room`, the cut `enterListen_ofr`. -/
theorem entryToListenEffect : Obligations.EntryToListenEffect := by
  unfold Obligations.EntryToListenEffect
  intro r t
  have e : t = { listening r with
      pvw.presenceCount := 0, progress.presenceSent := true, lkp := t.lkp, sup := t.sup } := enterListen_listening r
  have hpvw : t.pvw = (listening r).pvw := by rw [e]; rfl
  have hasm : t.asm = (listening r).asm := by rw [e]
  have hcpr : t.cpr = (listening r).cpr := by rw [e]
  have halc : t.alc = (listening r).alc := by rw [e]
  rw [hpvw, hasm, hcpr, halc]
  refine ⟨rfl, clearForListen_slot _, rfl, rfl, rfl, rfl, rfl, rfl, rfl, rfl, rfl, rfl, rfl, rfl, rfl,
    enterListen_ple r, clearForListen_frameSlot _, rfl, rfl, clearForListen_lastProduction _, rfl, rfl,
    rfl, clearForListen_removal _, rfl, rfl, clearForListen_source _, rfl, fun p => enterListen_queue,
    enterListen_of_room, enterListen_senders r, enterListen_receiver r, enterListen_of_busy, fun hs => ?_,
    fun hs => ?_, ?_⟩
  · obtain ⟨f, hf, hv, hc⟩ := (streamingValid_iff r).mp hs
    rw [enterListen_ofr, cutFrame_of_streaming hf hv hc]
    exact ⟨rfl, rfl⟩
  · rw [enterListen_ofr, cutFrame_of_idle hs]
  · rw [e]
    exact ⟨rfl, rfl, rfl, rfl, rfl, rfl⟩

end Sys2Proof.Machine
end

section
/-! PROOFS. PRESENCE_SEND and CLAIM_RESEND, and the counts of the boundaries without one (R75). -/

namespace Sys2Proof.Machine

theorem exec_presenceSend (s : State) : exec .presenceSend s = .next (runEvent .presenceSend s) := rfl

theorem exec_claimResend (s : State) : exec .claimResend s = .next (runEvent .claimResend s) := rfl

/-- The unit states that take packets. -/
theorem UnitState.viewing_iff (u : UnitState) :
    u.viewing = true ↔ u = .listen ∨ u = .joining ∨ u = .onAir ∨ u = .isolated := by
  cases u <;> decide

theorem UnitState.viewing_of_joined {u : UnitState} (h : u = .joining ∨ u = .onAir) : u.viewing = true := by
  rcases h with rfl | rfl <;> rfl

theorem resendClaim_of_some {s : State} {c : FramedClaim} (h : s.pvw.ownClaim = some c) :
    resendClaim s = sendClaim c s := by
  unfold resendClaim
  rw [h]

/-! ### The counts -/

theorem pass_presenceSend (s : State) : pass .presenceSend s =
    if s.pvw.unit.viewing && !s.progress.presenceSent then { s with pvw.presenceCount := upTo 4 s.pvw.presenceCount }
    else s := rfl

theorem pass_claimResend (s : State) : pass .claimResend s =
    if joined s.pvw.unit && s.pvw.ownClaim.isSome && !s.progress.claimSent then
      { s with pvw.claimCount := upTo 24 s.pvw.claimCount }
    else s := rfl

theorem takeTurn_presenceSend_counts {t : State} (hv : t.pvw.unit.viewing = true)
    (hp : t.progress.presenceSent = false) (hc : t.pvw.presenceCount ≠ 4) :
    takeTurn .presenceSend t = { t with pvw.presenceCount := min (t.pvw.presenceCount + 1) 4 } := by
  rw [takeTurn_of_not_due (by simp [hc]), pass_presenceSend, if_pos (by simp [hv, hp])]
  rfl

theorem takeTurn_presenceSend_stands {t : State} (h : t.pvw.unit.viewing = false ∨ t.progress.presenceSent = true) :
    takeTurn .presenceSend t = t := by
  have hno : (t.pvw.unit.viewing && !t.progress.presenceSent) = false := by rcases h with h | h <;> simp [h]
  rw [takeTurn_of_not_due (by rw [due_presenceSend, hno]; rfl), pass_presenceSend, hno]
  rfl

theorem takeTurn_claimResend_counts {t : State} (hu : t.pvw.unit = .joining ∨ t.pvw.unit = .onAir)
    (ho : t.pvw.ownClaim.isSome = true) (hp : t.progress.claimSent = false) (hc : t.pvw.claimCount ≠ 24) :
    takeTurn .claimResend t = { t with pvw.claimCount := min (t.pvw.claimCount + 1) 24 } := by
  rw [takeTurn_of_not_due (by simp [hc]), pass_claimResend, if_pos (by simp [(joined_iff _).mpr hu, ho, hp])]
  rfl

theorem takeTurn_claimResend_stands {t : State} (h : ¬(t.pvw.unit = .joining ∨ t.pvw.unit = .onAir) ∨
    t.pvw.ownClaim = none ∨ t.progress.claimSent = true) : takeTurn .claimResend t = t := by
  have hno : (joined t.pvw.unit && t.pvw.ownClaim.isSome && !t.progress.claimSent) = false := by
    rw [← joined_iff] at h
    rcases h with h | h | h <;> simp [h]
  rw [takeTurn_of_not_due (by rw [due_claimResend, hno]; rfl), pass_claimResend, hno]
  rfl

/-- Settles O21: what is sent is `sendPresence_eq` and `sendClaim_eq`, with a place free `sendPresence_of_room` and
`sendClaim_of_room`. -/
theorem resendEventsOutcome : Obligations.ResendEventsOutcome := by
  unfold Obligations.ResendEventsOutcome
  refine ⟨fun s t rest ht hu hp hc => ?_, fun s t rest c ht hu ho hp hc => ?_, fun t =>
    ⟨takeTurn_presenceSend_counts, takeTurn_presenceSend_stands, takeTurn_claimResend_counts,
      takeTurn_claimResend_stands⟩⟩
  · have hv := (UnitState.viewing_iff _).mpr hu
    refine ⟨sendPresence t, ?_, sendPresence_eq t, fun hroom => ?_⟩
    · rw [exec_presenceSend, runEvent_due ht ((due_presenceSend_iff t).mpr ⟨hv, hp, hc⟩), fire_presenceSend]
    · rw [sendPresence_of_room hv (withPresence_room hroom)]
      exact ⟨rfl, rfl⟩
  · have hdue : due .claimResend t = true := (due_claimResend_iff t).mpr ⟨hu, by rw [ho]; rfl, hp, hc⟩
    refine ⟨sendClaim c t, ?_, sendClaim_eq c t, fun hroom => ?_⟩
    · rw [exec_claimResend, runEvent_due ht hdue, fire_claimResend, resendClaim_of_some ho]
    · rw [sendClaim_of_room (UnitState.viewing_of_joined hu) hroom]
      exact ⟨rfl, rfl⟩

end Sys2Proof.Machine
end

section
/-! PROOFS. The peer table as frames pass: silence, removal, a claim in force (R69, R73, R168). -/

namespace Sys2Proof.Machine

theorem exec_peerSilent (u : UnitId) (s : State) : exec (.peerSilent u) s = .next (runEvent (.peerSilent u) s) := rfl

theorem exec_slotRemoval (u : UnitId) (s : State) : exec (.slotRemoval u) s = .next (runEvent (.slotRemoval u) s) := rfl

theorem exec_claimInForce (u : UnitId) (s : State) :
    exec (.claimInForce u) s = .next (runEvent (.claimInForce u) s) := rfl

/-! ### A removal scheduled -/

/-- Without a removal, or with a later one, the new frame is taken and ALC told. -/
theorem schedule_of_first {u : UnitId} {g : FrameNo} {s : State}
    (h : ∀ x, s.pvw.slots[u].removal = some x → later x g = true) :
    schedule u g s = noticeRemoval u g (modifyPeer u (fun p => { p with removal := some g }) s) := by
  unfold schedule
  exact if_pos (Option.all_eq_true _ _ |>.mpr h)

/-- A removal that comes first is kept. -/
theorem schedule_of_held {u : UnitId} {g x : FrameNo} {s : State} (hx : s.pvw.slots[u].removal = some x)
    (hl : later x g = false) : schedule u g s = s := by
  unfold schedule
  rw [hx]
  exact if_neg (by simp [hl])

/-! ### ALC told of a removal (R168) -/

theorem noticeRemoval_theirs {u : UnitId} {g : FrameNo} {t : State} {i : Nat} {x : AlertRecord}
    (hx : t.alc.table[i]? = some x) (hid : x.id.unit.toNat = u.val)
    (hstop : ∀ e, x.stop = some e → later e.frame g = true) :
    (noticeRemoval u g t).alc.table[i]? = some (withStop ⟨g, true⟩ x) := by
  show (t.alc.table.map _)[i]? = _
  rw [List.getElem?_map, hx, Option.map_some, if_pos (by simpa [hid, Option.all_eq_true] using hstop)]

theorem noticeRemoval_others {u : UnitId} {g : FrameNo} {t : State} {i : Nat} {x : AlertRecord}
    (hx : t.alc.table[i]? = some x)
    (h : ¬(x.id.unit.toNat = u.val ∧ ∀ e, x.stop = some e → later e.frame g = true)) :
    (noticeRemoval u g t).alc.table[i]? = some x := by
  show (t.alc.table.map _)[i]? = _
  rw [List.getElem?_map, hx, Option.map_some, if_neg (by simpa [Option.all_eq_true] using h)]

/-! ### The three events -/

/-- A slot as it falls silent. -/
def silenced (p : PeerSlot) : PeerSlot :=
  { p with state := .silent, counters.silences := bump p.counters.silences }

theorem goSilent_of_stamp {u : UnitId} {n f : FrameNo} {t : State} (hf : t.pvw.slots[u].stamp = some f) :
    goSilent u n t = schedule u (removalFrom n (leadOf t) (plus f (leadOf t + 27)))
      (raiseFlag .peerSilent (modifyPeer u silenced t)) := by
  unfold goSilent
  rw [hf]
  rfl

theorem modifyPeer_silenced_removal (u : UnitId) (t : State) :
    (raiseFlag .peerSilent (modifyPeer u silenced t)).pvw.slots[u].removal = t.pvw.slots[u].removal := by
  show (modifyPeer u silenced t).pvw.slots[u].removal = _
  rw [modifyPeer_slot]
  rfl

theorem removeSlot_eq (u : UnitId) (s : State) : removeSlot u s = { s with
    pvw.slots := s.pvw.slots.set u (.absent s.pvw.slots[u].counters), alc.removals := s.alc.removals.set u none } := rfl

theorem putInForce_of_waiting {p : PeerSlot} {c : FramedClaim} (h : p.waiting = some c) : putInForce p = { p with
    inForce := some ⟨c.version, c.entries⟩, waiting := none
    state := if p.state = .heard then .present else p.state } := by
  unfold putInForce
  rw [h]

/-- Settles O22: `goSilent_of_stamp` with `schedule`, `removeSlot_eq`, `putInForce_of_waiting`, and `noticeRemoval` at
each record. -/
theorem peerTableEventsOutcome : Obligations.PeerTableEventsOutcome := by
  unfold Obligations.PeerTableEventsOutcome
  refine ⟨fun s t rest u n f ht hu hself hn hs hf hl => ?_, fun s t rest u n f ht hc ho hself hn hf hl => ?_,
    fun s t rest u n c ht hc ho hn hw hl => ?_, fun u g t => ⟨rfl, List.length_map _, fun i x hx =>
      ⟨fun h => noticeRemoval_theirs hx h.1 h.2, noticeRemoval_others hx⟩⟩⟩
  · have hdue : due (.peerSilent u) t = true := (due_peerSilent_iff t u).mpr ⟨hu, hself, hs, n, f, hn, hf, hl⟩
    rw [exec_peerSilent, runEvent_due ht hdue, fire_peerSilent, atNow_of_now hn, goSilent_of_stamp hf,
      removalFrom]
    refine ⟨fun h => ?_, fun x hx hkept => ?_⟩
    · rw [schedule_of_first (by rw [modifyPeer_silenced_removal]; exact h)]
      show Host.Outcome.next (advance rest (noticeRemoval u _
        (raiseFlag .peerSilent (modifyPeer u (fun p => { p with removal := some _ }) (modifyPeer u silenced t))))) = _
      rw [modifyPeer_modifyPeer]
      rfl
    · rw [schedule_of_held ((modifyPeer_silenced_removal u t).trans hx) hkept]
      rfl
  · have hdue : due (.slotRemoval u) t = true := (due_slotRemoval_iff t u).mpr ⟨⟨hc, ho⟩, hself, f, hf, n, hn, hl⟩
    rw [exec_slotRemoval, runEvent_due ht hdue, fire_slotRemoval, removeSlot_eq]
  · have hdue : due (.claimInForce u) t = true := (due_claimInForce_iff t u).mpr ⟨⟨hc, ho⟩, c, hw, n, hn, hl⟩
    rw [exec_claimInForce, runEvent_due ht hdue, fire_claimInForce]
    show Host.Outcome.next (advance rest
      { t with pvw.slots := t.pvw.slots.set u (putInForce t.pvw.slots[u]) }) = _
    rw [putInForce_of_waiting hw]

end Sys2Proof.Machine
end

section
/-! PROOFS. ENTER_JOINING, ENTER_ON_AIR and ENTER_ISOLATED, and the counts before them (R62 to R64, R74, R76). -/

namespace Sys2Proof.Machine

theorem exec_enterJoining (s : State) : exec .enterJoining s = .next (runEvent .enterJoining s) := rfl

theorem exec_enterOnAir (s : State) : exec .enterOnAir s = .next (runEvent .enterOnAir s) := rfl

theorem exec_enterIsolated (s : State) : exec .enterIsolated s = .next (runEvent .enterIsolated s) := rfl

/-! ### A PRESENCE and a claim, with what LKP makes of them as free values -/

theorem sendPresence_fields (s : State) : ∃ l p, sendPresence s = { s with
    pvw.presenceCount := 0, progress.presenceSent := true, lkp := l, sup := p } := ⟨_, _, sendPresence_eq s⟩

theorem sendClaim_fields (c : FramedClaim) (s : State) : ∃ l p, sendClaim c s = { s with
    pvw.claimCount := 0, progress.claimSent := true, lkp := l, sup := p } := ⟨_, _, sendClaim_eq c s⟩

theorem serve_fields (s : State) : ∃ l, serve s = { s with lkp := l } := ⟨_, serve_eq s⟩

theorem sendPresence_served {s : State} (hv : s.pvw.unit.viewing = true) (h : s.lkp.queue.length < 64) :
    (sendPresence s).sup = s.sup ∧ (sendPresence s).lkp = servedLkp (sendPresence s) { s.lkp with
      queue := withPresence (presencePacket s) s.lkp.queue } := by
  have e := sendPresence_of_room hv (withPresence_room h)
  rw [servedLkp_congr (r := s) _ (by rw [e]) (by rw [e]) (by rw [e]), e]
  exact ⟨rfl, rfl⟩

theorem sendPresence_of_busy {s : State} (hv : s.pvw.unit.viewing = true) (h : s.lkp.queue.length < 64)
    (hbusy : s.lkp.transmitting.isSome = true) : sendPresence s = { s with
      pvw.presenceCount := 0, progress.presenceSent := true
      lkp.queue := withPresence (presencePacket s) s.lkp.queue } := by
  rw [sendPresence_of_room hv (withPresence_room h), servedLkp_of_idle]
  exact .inl hbusy

/-- Where every class is served, a free transmitter takes a packet of a queue that holds one. -/
theorem servedLkp_takes {r : State} {l : Lkp}
    (hu : r.pvw.unit = .joining ∨ r.pvw.unit = .onAir ∨ r.pvw.unit = .isolated) (hq : l.queue ≠ []) :
    (servedLkp r l).transmitting.isSome = true := by
  cases hb : l.transmitting with
  | some x => rw [servedLkp_of_idle (.inl (by rw [hb]; rfl)), hb]; rfl
  | none =>
    obtain ⟨p, hp⟩ := pickNext_of_queued hu hq
    have e : serve { r with lkp := l } = takePacket p { r with lkp := l } := serve_of_some hb hp
    unfold servedLkp
    rw [e]
    rfl

/-! ### A claim issued (R74) -/

/-- PVW as a new claim is issued, before LKP has it. -/
def issuing (n : FrameNo) (s : State) : State :=
  pendOwn (newClaim n s) { s with
    pvw.version := s.pvw.version + 1, pvw.ownClaim := some (newClaim n s)
    pvw.counters.claimsIssued := bump s.pvw.counters.claimsIssued }

theorem issueClaim_eq (n : FrameNo) (s : State) : issueClaim n s = sendClaim (newClaim n s) (issuing n s) := rfl

/-! ### Entry to JOINING (R62) -/

/-- The unit state and the join frame as JOINING is entered. -/
def joiningFrom (s : State) : State :=
  { s with pvw := { s.pvw with
      unit := .joining, joinFrame := s.pvw.ownClaim.map (·.frame)
      counters.toJoining := bump s.pvw.counters.toJoining } }

theorem enterJoining_eq (n : FrameNo) (s : State) :
    enterJoining n s = sendPresence (serve (joiningFrom (sendClaim (newClaim n s) (issuing n s)))) := rfl

theorem enterJoining_fields (n : FrameNo) (s : State) : ∃ l p, enterJoining n s = { joiningFrom (issuing n s) with
    pvw.presenceCount := 0, pvw.claimCount := 0, progress.presenceSent := true, progress.claimSent := true
    lkp := l, sup := p } := by
  rw [enterJoining_eq]
  obtain ⟨l₁, p₁, e₁⟩ := sendClaim_fields (newClaim n s) (issuing n s)
  rw [e₁]
  obtain ⟨l₂, e₂⟩ := serve_fields (joiningFrom { issuing n s with
    pvw.claimCount := 0, progress.claimSent := true, lkp := l₁, sup := p₁ })
  rw [e₂]
  obtain ⟨l₃, p₃, e₃⟩ := sendPresence_fields { joiningFrom { issuing n s with
    pvw.claimCount := 0, progress.claimSent := true, lkp := l₁, sup := p₁ } with lkp := l₂ }
  rw [e₃]
  exact ⟨l₃, p₃, rfl⟩

/-- JOINING entered with the claim at the end of the queue. -/
def withClaimQueued (n : FrameNo) (s : State) : State :=
  joiningFrom { issuing n s with
    pvw.claimCount := 0, progress.claimSent := true
    lkp := { s.lkp with queue := s.lkp.queue ++ [claimPacket (newClaim n s)] } }

section
variable {n : FrameNo} {s : State} (hu : s.pvw.unit = .listen) (hroom : s.lkp.queue.length + 2 ≤ 64)
include hu hroom

/-- The claim joins the queue: LISTEN takes no packet of a queue without PRESENCE, and a busy transmitter none at
all. -/
theorem enterJoining_of_room (hidle : s.lkp.transmitting.isSome = true ∨ ∀ p ∈ s.lkp.queue, p.kind ≠ .presence) :
    enterJoining n s = sendPresence (serve (withClaimQueued n s)) := by
  have hlisten : (issuing n s).pvw.unit = .listen := hu
  have hqueue : (issuing n s).lkp.queue.length < 64 := by
    show s.lkp.queue.length < 64
    omega
  rw [enterJoining_eq, sendClaim_of_room (by rw [hlisten]; rfl) hqueue, servedLkp_of_idle]
  · rfl
  · refine hidle.imp id (fun hq => ?_)
    rw [hlisten, pickNext_listen, List.find?_eq_none]
    intro p hp
    obtain hp | hp := List.mem_append.mp hp
    · simpa using hq p hp
    · rw [List.mem_singleton.mp hp]
      exact Bool.not_eq_true _ |>.mpr (decide_eq_false nofun)

omit hu in
theorem withClaimQueued_length : (withClaimQueued n s).lkp.queue.length < 64 := by
  show (s.lkp.queue ++ [_]).length < 64
  rw [List.length_append, List.length_singleton]
  omega

theorem enterJoining_of_busy (hbusy : s.lkp.transmitting.isSome = true) :
    (enterJoining n s).sup = s.sup ∧ ∃ body, byteAt body 0 = 2 ∧ (enterJoining n s).lkp = { s.lkp with
      queue := withPresence ⟨.presence, 0, 0, body⟩ (s.lkp.queue ++ [claimPacket (newClaim n s)]) } := by
  have e : serve (withClaimQueued n s) = withClaimQueued n s := serve_of_busy hbusy
  rw [enterJoining_of_room hu hroom (.inl hbusy), e,
    sendPresence_of_busy rfl (withClaimQueued_length hroom) hbusy]
  exact ⟨rfl, _, byteAt_ownPresence _, rfl⟩

/-- A free transmitter takes the claim, or an alert before it; then the PRESENCE joins the queue. -/
theorem enterJoining_of_free (hq : ∀ p ∈ s.lkp.queue, p.kind ≠ .presence) :
    (enterJoining n s).sup = s.sup ∧
      let taken := servedLkp (enterJoining n s) { s.lkp with queue := s.lkp.queue ++ [claimPacket (newClaim n s)] }
      taken.transmitting.isSome = true ∧ ∃ body, byteAt body 0 = 2 ∧
        (enterJoining n s).lkp = { taken with queue := taken.queue ++ [⟨.presence, 0, 0, body⟩] } := by
  obtain ⟨l, hl⟩ := serve_fields (withClaimQueued n s)
  have hserved : servedLkp (withClaimQueued n s) (withClaimQueued n s).lkp = l := congrArg State.lkp hl
  have htaken : servedLkp (enterJoining n s) (withClaimQueued n s).lkp = l := by
    obtain ⟨l', p', e'⟩ := enterJoining_fields n s
    rw [servedLkp_congr (r := withClaimQueued n s) _ (by rw [e']; rfl) (by rw [e']; rfl) (by rw [e']; rfl)]
    exact hserved
  have hbusy : l.transmitting.isSome = true := by
    have hjoining : (withClaimQueued n s).pvw.unit = .joining := rfl
    rw [← hserved]
    exact servedLkp_takes (.inl hjoining) (List.append_ne_nil_of_right_ne_nil _ (List.cons_ne_nil _ _))
  have hlength : l.queue.length < 64 := by
    have hle := serve_queue_length (withClaimQueued n s)
    rw [hl] at hle
    exact hle.trans_lt (withClaimQueued_length hroom)
  have hkept (p : TxPacket) : withPresence p l.queue = l.queue ++ [p] := by
    refine congrArg (· ++ [p]) (List.filter_eq_self.mpr (fun x hx => ?_))
    have hmem : x ∈ (withClaimQueued n s).lkp.queue := mem_of_mem_serve (by rw [hl]; exact hx)
    obtain hx | hx := List.mem_append.mp hmem
    · simpa using hq x hx
    · rw [List.mem_singleton.mp hx]
      rfl
  have e := enterJoining_of_room (n := n) hu hroom (.inr hq)
  rw [hl, sendPresence_of_busy rfl hlength hbusy] at e
  refine ⟨by rw [e]; rfl, ?_⟩
  intro taken
  have htaken' : taken = l := htaken
  rw [htaken', e]
  exact ⟨hbusy, _, byteAt_ownPresence _, congrArg (fun q => { l with queue := q }) (hkept _)⟩

end

/-! ### Entry to ON_AIR and to ISOLATED (R63, R64) -/

/-- ON_AIR before its PRESENCE. -/
def goingOnAir (s : State) : State :=
  { s with pvw := { s.pvw with unit := .onAir, counters.toOnAir := bump s.pvw.counters.toOnAir } }

theorem enterOnAir_eq (s : State) : enterOnAir s = sendPresence (goingOnAir s) := rfl

/-- ISOLATED before its PRESENCE. -/
def isolating (s : State) : State :=
  raiseFlag .linkIsolated { s with pvw := { s.pvw with
    unit := .isolated, peerMark := false, echoMark := false, peerWaiver := noPeer s
    counters.toIsolated := bump s.pvw.counters.toIsolated } }

theorem enterIsolated_eq (s : State) : enterIsolated s = sendPresence (isolating s) := rfl

theorem noPeer_iff (s : State) :
    noPeer s = true ↔ ∀ v : UnitId, v ≠ selfOf s → s.pvw.slots[v].state = .absent := by
  simp [noPeer, mem_unitIds, or_iff_not_imp_left]

/-! ### The counts (R62, R76) -/

theorem takeTurn_rejoinHold (t : State) :
    takeTurn .rejoinHold t = { t with pvw.rejoinHold := min (t.pvw.rejoinHold + 1) 25 } := takeTurn_of_due rfl

theorem takeTurn_listenCount (t : State) : takeTurn .listenCount t = (if t.pvw.unit ≠ .listen then t
    else if t.ftu.ref ≠ .locked ∨ t.lkp.receiver ≠ .locked then { t with pvw.listenCount := 0 }
    else if t.ftu.now = none then t else { t with pvw.listenCount := min (t.pvw.listenCount + 1) 32 }) := by
  have e : takeTurn .listenCount t = countListen t := takeTurn_of_due rfl
  rw [e]
  unfold countListen
  by_cases hu : t.pvw.unit = .listen
  · rw [if_pos hu, if_neg (not_not.mpr hu)]
    by_cases hlocked : t.ftu.ref = .locked ∧ t.lkp.receiver = .locked
    · have hnot : ¬(t.ftu.ref ≠ .locked ∨ t.lkp.receiver ≠ .locked) := by simpa using hlocked
      rw [if_pos (by simpa using hlocked), if_neg hnot]
      cases t.ftu.now <;> rfl
    · rw [if_neg (by simpa using hlocked), if_pos (not_and_or.mp hlocked)]
  · rw [if_neg hu, if_pos hu]

/-- Settles O20: the entries are `enterJoining_fields` with `enterJoining_of_busy` and `enterJoining_of_free`, and
`sendPresence_served` for the two others. -/
theorem joinEventsOutcome : Obligations.JoinEventsOutcome := by
  unfold Obligations.JoinEventsOutcome
  refine ⟨fun s t rest n ht hu hc hn => ?_, fun s t rest n ht hu hj hn => ?_, fun s t rest ht hu he => ?_,
    fun t => ⟨takeTurn_rejoinHold t, takeTurn_listenCount t⟩⟩
  · have hdue : due .enterJoining t = true := (due_enterJoining_iff t).mpr ⟨hu, hc, by rw [hn]; rfl⟩
    refine ⟨enterJoining n t, ?_, ?_, ?_, fun hroom => enterJoining_of_busy hu hroom,
      fun hroom _ => enterJoining_of_free hu hroom⟩
    · rw [exec_enterJoining, runEvent_due ht hdue, fire_enterJoining, atNow_of_now hn]
    all_goals
      obtain ⟨l, p, e⟩ := enterJoining_fields n t
      rw [e]
      rfl
  · have hdue : due .enterOnAir t = true := (due_enterOnAir_iff t).mpr ⟨hu, n, hj, hn⟩
    refine ⟨enterOnAir t, ?_, ?_, ?_, fun hroom => ?_⟩
    · rw [exec_enterOnAir, runEvent_due ht hdue, fire_enterOnAir]
    · rw [enterOnAir_eq, sendPresence_eq]
      rfl
    · obtain ⟨l, p, e⟩ := sendPresence_fields (goingOnAir t)
      rw [enterOnAir_eq, e]
      rfl
    · obtain ⟨hsup, hlkp⟩ := sendPresence_served (s := goingOnAir t) rfl hroom
      exact ⟨hsup, _, byteAt_ownPresence _, hlkp⟩
  · have hdue : due .enterIsolated t = true := (due_enterIsolated_iff t).mpr ⟨hu, he⟩
    have hpvw : (enterIsolated t).pvw = { (isolating t).pvw with presenceCount := 0 } := by
      rw [enterIsolated_eq, sendPresence_eq]
    refine ⟨enterIsolated t, ?_, ?_, ?_, ?_, fun hroom => ?_⟩
    · rw [exec_enterIsolated, runEvent_due ht hdue, fire_enterIsolated]
    · rw [hpvw]
      rfl
    · rw [hpvw]
      exact noPeer_iff t
    · obtain ⟨l, p, e⟩ := sendPresence_fields (isolating t)
      rw [enterIsolated_eq, e]
      rfl
    · obtain ⟨hsup, hlkp⟩ := sendPresence_served (s := isolating t) rfl hroom
      exact ⟨hsup, _, byteAt_ownPresence _, hlkp⟩

end Sys2Proof.Machine
end

section
/-! PROOFS. A request in hand, and SERVICE_OFF and SERVICE_ON (R77, R180). -/

namespace Sys2Proof.Machine

/-! ### A request that is taken -/

theorem takeRequest_of_asked {k : RequestKind} {q : Request} {rs : List Request} {r : State} (h : Asked k q rs r)
    (f : List Byte → State → Acted) : takeRequest k f r =
      let a := actOn k f q.body (inHand q rs r)
      answered q a.kind a.data rs a.state := by
  obtain ⟨hqueue, hgood, hkind⟩ := h
  unfold takeRequest
  rw [hqueue]
  exact if_pos (by simp [hgood, hkind])

theorem actOn_of_taken {k : RequestKind} {q : Request} {rs : List Request} {r : State} (h : Taken k q rs r)
    (f : List Byte → State → Acted) : actOn k f q.body (inHand q rs r) = f q.body (inHand q rs r) := by
  obtain ⟨-, hstate, hlength⟩ := h
  unfold actOn
  rw [if_neg (by simp [inHand, hstate]), if_neg (by simp [hlength])]

/-- A request of the right length in a state that takes it is acted on and answered. -/
theorem takeRequest_of_taken {k : RequestKind} {q : Request} {rs : List Request} {r : State} (h : Taken k q rs r)
    (f : List Byte → State → Acted) : takeRequest k f r =
      let a := f q.body (inHand q rs r)
      answered q a.kind a.data rs a.state := by
  rw [takeRequest_of_asked h.asked, actOn_of_taken h]

/-! ### The switch -/

theorem exec_switchService (on : Bool) (s : State) : exec (if on then .serviceOn else .serviceOff) s =
    .next (takeRequest (if on then .serviceOn else .serviceOff) (switchService on) (settle s)) := by
  cases on <;> rfl

section
variable {on : Bool} {b : List Byte} {s : State} {k : ServiceIx}

theorem switchService_of_none (h : serviceIx s (half b 0) = none) : switchService on b s = ⟨s, .refusedArg, .none⟩ := by
  unfold switchService
  rw [h]
  rfl

theorem switchService_of_same (hk : serviceIx s (half b 0) = some k) (h : s.pvw.switches[k] = on) :
    switchService on b s = ⟨s, .done, .none⟩ := by
  unfold switchService
  rw [hk]
  exact if_pos h

theorem switchService_of_idle (hk : serviceIx s (half b 0) = some k) (h : s.pvw.switches[k] ≠ on)
    (hu : joined s.pvw.unit = false) :
    switchService on b s = ⟨{ s with pvw.switches := s.pvw.switches.set k on }, .done, .none⟩ := by
  unfold switchService
  rw [hk]
  dsimp only
  rw [if_neg h, if_neg (by rw [hu]; exact Bool.false_ne_true)]
  rfl

theorem switchService_of_joined {n : FrameNo} (hk : serviceIx s (half b 0) = some k) (h : s.pvw.switches[k] ≠ on)
    (hu : joined s.pvw.unit = true) (hn : s.ftu.now = some n) :
    switchService on b s = ⟨issueClaim n { s with pvw.switches := s.pvw.switches.set k on }, .done, .none⟩ := by
  unfold switchService
  rw [hk]
  dsimp only
  rw [if_neg h, if_pos hu, atNow_of_now (by exact hn)]
  rfl

end

theorem issueClaim_fields (n : FrameNo) (s : State) : ∃ l p, issueClaim n s = { issuing n s with
    pvw.claimCount := 0, progress.claimSent := true, lkp := l, sup := p } := by
  rw [issueClaim_eq]
  exact sendClaim_fields _ _

/-- With a place free the claim issued joins the queue. -/
theorem issueClaim_of_room {n : FrameNo} {s : State} (hv : s.pvw.unit.viewing = true)
    (h : s.lkp.queue.length < 64) : (issueClaim n s).sup = s.sup ∧
      (issueClaim n s).lkp = servedLkp s { s.lkp with queue := s.lkp.queue ++ [claimPacket (newClaim n s)] } := by
  rw [issueClaim_eq, sendClaim_of_room (s := issuing n s) hv h]
  exact ⟨rfl, servedLkp_congr _ rfl rfl rfl⟩

/-- Settles O49: the four cases of `switchService`, and the claim issued by `issueClaim_fields` and
`issueClaim_of_room`. -/
theorem serviceSwitchOutcome : Obligations.ServiceSwitchOutcome := by
  unfold Obligations.ServiceSwitchOutcome
  intro s r on q rs hr htaken
  have hexec {a : Acted} (ha : switchService on q.body (inHand q rs r) = a) :
      exec (if on then .serviceOn else .serviceOff) s = .next (answered q a.kind a.data rs a.state) := by
    rw [exec_switchService, hr, takeRequest_of_taken htaken, ha]
  refine ⟨fun hk => ?_, fun k hk hsame => ?_, fun k hk hother => ⟨fun hu => ?_, fun n hu hn => ?_⟩⟩
  · exact hexec (switchService_of_none (s := inHand q rs r) hk)
  · exact hexec (switchService_of_same (s := inHand q rs r) hk hsame)
  · exact hexec (switchService_of_idle (s := inHand q rs r) hk hother
      (by show joined r.pvw.unit = false; rw [hu]; rfl))
  · refine ⟨_, hexec (switchService_of_joined (s := inHand q rs r) hk hother ((joined_iff _).mpr hu) hn), ?_, ?_,
      fun hroom => ?_⟩
    · obtain ⟨l, p, e⟩ := issueClaim_fields n { inHand q rs r with pvw.switches := r.pvw.switches.set k on }
      exact (congrArg State.pvw e).trans rfl
    · obtain ⟨l, p, e⟩ := issueClaim_fields n { inHand q rs r with pvw.switches := r.pvw.switches.set k on }
      dsimp only [inHand] at e ⊢
      rw [e]
      rfl
    · obtain ⟨hsup, hlkp⟩ := issueClaim_of_room (n := n)
        (s := { inHand q rs r with pvw.switches := r.pvw.switches.set k on }) (UnitState.viewing_of_joined hu) hroom
      exact ⟨hsup, hlkp.trans (servedLkp_congr _ rfl rfl rfl)⟩

end Sys2Proof.Machine
end

section
/-! PROOFS. A good packet from a peer, and CLAIM (R46 to R48, R71, R72, R168). -/

namespace Sys2Proof.Machine

/-! ### A good packet -/

/-- The sequence test, the good header and the valid packet noted are one change of the sender's record and of the
link's marks. -/
theorem noteValid_eq_noted (p : LinkPacket) (u : UnitId) (r : State) :
    noteValid u (modifySender u (testSequence p.seq) (headerGood r)) = noted p u r := by
  unfold noteValid
  rw [modifySender_modifySender]
  simp only [testSequence_eq]
  rfl

/-- A packet with a good body is noted and handed on. -/
theorem exec_good {s r : State} {k : Kind} {p : LinkPacket} {u : UnitId} (h : settle s = r) (hp : PeerPacket k p u r)
    (hc : p.bodyCheck = crc32 p.body) (hb : bodyHolds k p.body = true) :
    exec (packetCommand k p) s = .next (handOn k u p true (noted p u r)) := by
  have hgood : bodyGood k p = true := by rw [bodyGood, bodyCheckGood_iff.mpr hc, hb]; rfl
  rw [exec_peer h hp, peerPacket]
  rw [if_pos hgood, noteValid_eq_noted]

theorem ignorePacket_eq (s : State) :
    ignorePacket s = { s with pvw.counters.ignoredByState := bump s.pvw.counters.ignoredByState } := rfl

/-! ### The cases of a CLAIM (R71) -/

/-- A claim misses a slot that holds its version neither in force nor pending. -/
theorem missesClaim_iff (x : PeerSlot) (v : Byte) : missesClaim x v = true ↔
    ¬((∃ i, x.inForce = some i ∧ i.version = v) ∨ ∃ w, x.waiting = some w ∧ w.version = v) := by
  simp [missesClaim, Option.all_eq_true]

theorem isRefresh_iff (x : PeerSlot) (v : Byte) : isRefresh x v = true ↔
    (∃ i, x.inForce = some i ∧ i.version = v) ∨ ∃ w, x.waiting = some w ∧ w.version = v := by
  rw [isRefresh, Bool.not_eq_true', ← Bool.not_eq_true, missesClaim_iff, not_not]

section
variable {u : UnitId} {b : List Byte} {q : State}

theorem takeClaim_ignored (hv : q.pvw.unit.viewing = false) : takeClaim u b q = ignorePacket q :=
  if_pos (by rw [hv]; rfl)

theorem takeClaim_absent (hv : q.pvw.unit.viewing = true) (ha : q.pvw.slots[u].state = .absent) :
    takeClaim u b q = { q with pvw.counters.absentClaims := bump q.pvw.counters.absentClaims } := by
  unfold takeClaim
  dsimp only
  rw [if_neg (by simp [hv]), if_pos ha]

theorem takeClaim_refresh (hv : q.pvw.unit.viewing = true) (ha : q.pvw.slots[u].state ≠ .absent)
    (hr : isRefresh q.pvw.slots[u] (parseClaim b).version = true) : takeClaim u b q =
    modifyPeer u (fun p => { p with counters.refreshes := bump p.counters.refreshes }) q := by
  unfold takeClaim
  dsimp only
  rw [if_neg (by simp [hv]), if_neg ha, if_pos hr]

theorem takeClaim_new (hv : q.pvw.unit.viewing = true) (ha : q.pvw.slots[u].state ≠ .absent)
    (hr : ¬isRefresh q.pvw.slots[u] (parseClaim b).version = true) :
    takeClaim u b q = newVersion u (parseClaim b) q := by
  unfold takeClaim
  dsimp only
  rw [if_neg (by simp [hv]), if_neg ha, if_neg hr]

end

section
variable {u : UnitId} {c : FramedClaim} {q : State}

theorem newVersion_listen (hu : q.pvw.unit = .listen) : newVersion u c q =
    tellCancelled u q.pvw.slots[u].removal.isSome (modifyPeer u (takeAtOnce c) q) := if_pos hu

theorem newVersion_pending {n : FrameNo} (hu : q.pvw.unit ≠ .listen) (hn : q.ftu.now = some n)
    (hl : later c.frame (plus n (leadOf q)) = true) : newVersion u c q =
    tellCancelled u (q.pvw.slots[u].removal.any (fun r => !later c.frame r))
      (modifyPeer u (acceptPending c (q.pvw.slots[u].removal.any (fun r => !later c.frame r))) q) := by
  unfold newVersion
  dsimp only
  rw [if_neg hu, if_pos (by simp [beyondLead, hn, hl])]

theorem newVersion_stale {n : FrameNo} (hu : q.pvw.unit ≠ .listen) (hn : q.ftu.now = some n)
    (hl : later c.frame (plus n (leadOf q)) = false) : newVersion u c q =
    raiseFlag .claimStale (modifyPeer u (fun p => { p with counters.stale := bump p.counters.stale }) q) := by
  unfold newVersion
  dsimp only
  rw [if_neg hu, if_neg (by simp [beyondLead, hn, hl])]

end

theorem acceptPending_eq (c : FramedClaim) (cancel : Bool) (p : PeerSlot) : acceptPending c cancel p = { p with
    waiting := some c, removal := if cancel then none else p.removal
    state := if cancel = true ∧ p.state = .silent then .heard else p.state
    counters.accepted := bump p.counters.accepted } := by
  simp [acceptPending]

/-! ### The entries' values (R72) -/

theorem clampAudio_range (n : Nat) : 8 ≤ clampAudio n ∧ clampAudio n ≤ 384 ∧ clampAudio n % 8 = 0 := by
  unfold clampAudio ceilDiv
  omega

theorem clampSide_range (n : Nat) : clampSide n ≤ 64 ∧ clampSide n % 4 = 0 := by
  unfold clampSide ceilDiv
  omega

theorem clampClass_range (n : Nat) : 1 ≤ clampClass n ∧ clampClass n ≤ 4 := by
  unfold clampClass
  split
  · decide
  · rename_i h
    simp only [Bool.or_eq_true, decide_eq_true_eq] at h
    omega

theorem parseEntry_ranges (b : List Byte) :
    let e := parseEntry b
    8 ≤ e.audioRate ∧ e.audioRate ≤ 384 ∧ e.audioRate % 8 = 0 ∧ e.sideRate ≤ 64 ∧ e.sideRate % 4 = 0 ∧
      1 ≤ e.protClass ∧ e.protClass ≤ 4 ∧ e.priority ≤ 3 := by
  obtain ⟨ha, ha', ha8⟩ := clampAudio_range (beNat (slice b 3 2))
  obtain ⟨hs, hs4⟩ := clampSide_range (byteAt b 5).toNat
  obtain ⟨hp, hp'⟩ := clampClass_range (byteAt b 6).toNat
  exact ⟨ha, ha', ha8, hs, hs4, hp, hp', Nat.min_le_right _ _⟩

/-! ### ALC told of a cancellation (R168) -/

theorem noticeCancelled_theirs {u : UnitId} {t : State} {i : Nat} {x : AlertRecord} (hx : t.alc.table[i]? = some x)
    (hid : x.id.unit.toNat = u.val) (hstop : ∃ e, x.stop = some e ∧ e.byRemoval = true) :
    (noticeCancelled u t).alc.table[i]? = some { x with
      stop := none, state := if x.state = .ending then .active else x.state } := by
  show (t.alc.table.map _)[i]? = _
  rw [List.getElem?_map, hx, Option.map_some, if_pos (by simpa [hid, Option.any_eq_true] using hstop)]

theorem noticeCancelled_others {u : UnitId} {t : State} {i : Nat} {x : AlertRecord} (hx : t.alc.table[i]? = some x)
    (h : ¬(x.id.unit.toNat = u.val ∧ ∃ e, x.stop = some e ∧ e.byRemoval = true)) :
    (noticeCancelled u t).alc.table[i]? = some x := by
  show (t.alc.table.map _)[i]? = _
  rw [List.getElem?_map, hx, Option.map_some, if_neg (by simpa [Option.any_eq_true] using h)]

/-- Settles O28: the packet is handed on (`exec_good`) and met by the cases of `takeClaim` and `newVersion`; the ranges
are `parseEntry_ranges`; ALC's part is `noticeCancelled` at each record. -/
theorem claimOutcome : Obligations.ClaimOutcome := by
  unfold Obligations.ClaimOutcome
  refine ⟨?packet, fun b e he => ?ranges, fun u t => ⟨rfl, rfl, List.length_map _, fun i x hx =>
    ⟨fun h => noticeCancelled_theirs hx h.1 h.2, noticeCancelled_others hx⟩⟩⟩
  case ranges =>
    obtain ⟨i, -, rfl⟩ := List.mem_map.mp he
    exact parseEntry_ranges _
  case packet =>
    intro s r p u hr hp hc hb q c x known
    have hexec : exec (.claim p) s = .next (takeClaim u p.body q) := exec_good hr hp hc hb
    rw [hexec]
    refine ⟨fun hv => ?_, fun hv ha => ?_, fun hv ha hk => ?_, fun hu ha hk => ?_, fun hu ha hk n hn =>
      ⟨fun hl => ?_, fun hl => ?_⟩⟩
    · rw [takeClaim_ignored hv, ignorePacket_eq]
    · rw [takeClaim_absent hv ha]
    · rw [takeClaim_refresh hv ha ((isRefresh_iff _ _).mpr hk)]
      rfl
    · rw [takeClaim_new (by rw [hu]; rfl) ha (mt (isRefresh_iff _ _).mp hk), newVersion_listen hu]
      rfl
    all_goals
      have hv : q.pvw.unit.viewing = true := (UnitState.viewing_iff _).mpr (.inr hu)
      have hlisten : q.pvw.unit ≠ .listen := by rcases hu with hu | hu | hu <;> rw [hu] <;> nofun
      rw [takeClaim_new hv ha (mt (isRefresh_iff _ _).mp hk)]
    · rw [newVersion_pending hlisten hn hl, modifyPeer, modifyAt, acceptPending_eq]
    · rw [newVersion_stale hlisten hn hl]
      rfl

end Sys2Proof.Machine
end

section
/-! PROOFS. PRESENCE: the sender's slot, the withdrawal, the digest, and the rejoin claim (R68, R70, R76, R79, R168,
R169). -/

namespace Sys2Proof.Machine

/-! ### What stays while a PRESENCE is met at the sender's slot -/

/-- From `s` to `t` nothing changes but slot `u` of the peer table, ALC's part and the flags. -/
structure AtSlot (u : UnitId) (s t : State) : Prop where
  rest   : t = { s with pvw.slots := t.pvw.slots, alc := t.alc, sup := t.sup }
  others : ∀ v, v ≠ u → t.pvw.slots[v] = s.pvw.slots[v]

namespace AtSlot

variable {u : UnitId} {s t : State}

theorem refl (s : State) : AtSlot u s s := ⟨rfl, fun _ _ => rfl⟩

theorem trans {w : State} (h : AtSlot u s t) (g : AtSlot u t w) : AtSlot u s w where
  rest := by
    have hw := g.rest
    rw [h.rest] at hw
    exact hw
  others v hv := (g.others v hv).trans (h.others v hv)

theorem ite {c : Prop} [Decidable c] {w : State} (h : AtSlot u s t) (g : AtSlot u s w) :
    AtSlot u s (if c then t else w) := by
  split
  · exact h
  · exact g

theorem modifyPeer (f : PeerSlot → PeerSlot) (s : State) : AtSlot u s (Machine.modifyPeer u f s) :=
  ⟨rfl, fun _ hv => modifyAt_other _ f hv⟩

theorem schedule (f : FrameNo) (s : State) : AtSlot u s (Machine.schedule u f s) :=
  ite ((modifyPeer _ s).trans ⟨rfl, fun _ _ => rfl⟩) (refl s)

theorem withdraw (f : Option FrameNo) (s : State) : AtSlot u s (Machine.withdraw u f s) := by
  unfold Machine.withdraw
  dsimp only
  split
  · exact (modifyPeer _ s).trans (schedule _ _)
  · exact (modifyPeer _ s).trans (schedule _ _)
  · exact modifyPeer _ s

theorem compareDigest (d : Option (FrameNo × BitVec 16)) (s : State) : AtSlot u s (Machine.compareDigest u d s) := by
  unfold Machine.compareDigest
  split
  · exact refl s
  · exact modifyPeer _ s
  · exact (modifyPeer _ s).trans ⟨rfl, fun _ _ => rfl⟩

end AtSlot

/-! ### The slot itself -/

/-- A scheduling sets the slot's removal, or leaves it. -/
theorem schedule_slot (u : UnitId) (g : FrameNo) (s : State) :
    ∃ x, (schedule u g s).pvw.slots[u] = { s.pvw.slots[u] with removal := x } := by
  unfold schedule
  split
  · exact ⟨some g, modifyPeer_slot u _ s⟩
  · exact ⟨_, rfl⟩

/-- The slot of a unit that withdraws, its removal aside. -/
def withdrawn (p : PeerSlot) : PeerSlot :=
  { p with state := .heard, counters.withdrawals := bump p.counters.withdrawals }

theorem withdraw_slot (u : UnitId) (f : Option FrameNo) (s : State) :
    ∃ x, (withdraw u f s).pvw.slots[u] = { withdrawn s.pvw.slots[u] with removal := x } := by
  have hslot : (modifyPeer u withdrawn s).pvw.slots[u] = withdrawn s.pvw.slots[u] := modifyPeer_slot u _ s
  unfold withdraw
  split
  · exact hslot ▸ schedule_slot u _ (modifyPeer u withdrawn s)
  · exact hslot ▸ schedule_slot u _ (modifyPeer u withdrawn s)
  · exact ⟨_, hslot⟩

/-- At a numbered frame the removal is scheduled two frames behind the lead, or as soon as it may be. -/
theorem withdraw_of_now {n : FrameNo} {s : State} (u : UnitId) (f : Option FrameNo) (hn : s.ftu.now = some n) :
    withdraw u f s =
      schedule u (removalFrom n (leadOf s) (plus (f.getD n) (leadOf s + 2))) (modifyPeer u withdrawn s) := by
  unfold withdraw
  rw [hn]
  rfl

theorem schedule_first_removal {u : UnitId} {g : FrameNo} {s : State}
    (h : ∀ x, s.pvw.slots[u].removal = some x → later x g = true) :
    (schedule u g s).pvw.slots[u].removal = some g ∧ (schedule u g s).alc.removals[u] = some g := by
  rw [schedule_of_first h]
  exact ⟨congrArg PeerSlot.removal (modifyPeer_slot u _ s), Vector.getElem_set_self _⟩

/-- The comparison sets the slot's mark and its count alone. -/
theorem compareDigest_slot (u : UnitId) (d : Option (FrameNo × BitVec 16)) (s : State) :
    ∃ m c, (compareDigest u d s).pvw.slots[u] =
      { s.pvw.slots[u] with diverged := m, counters.divergences := c } := by
  unfold compareDigest
  split
  · exact ⟨_, _, rfl⟩
  · exact ⟨false, _, modifyPeer_slot u _ s⟩
  · exact ⟨true, _, modifyPeer_slot u _ s⟩

@[simp] theorem compareDigest_alc (u : UnitId) (d : Option (FrameNo × BitVec 16)) (s : State) :
    (compareDigest u d s).alc = s.alc := by
  unfold compareDigest
  split <;> rfl

/-- With the digest of its frame in the history the mark says whether the two differ, and a difference is flagged. -/
theorem compareDigest_of_found {u : UnitId} {f : FrameNo} {d e : BitVec 16} {s : State}
    (h : s.pvw.digests.find? (fun y => y.1 = f) = some (f, e)) :
    (compareDigest u (some (f, d)) s).pvw.slots[u].diverged = decide (d ≠ e) ∧
      (d ≠ e → flagSet .viewDiverged (compareDigest u (some (f, d)) s) = true) := by
  unfold compareDigest
  rw [Option.bind_some, h, Option.map_some]
  by_cases hd : e = d
  · simp only [hd, decide_true]
    exact ⟨by rw [modifyPeer_slot]; simp, fun h => absurd rfl h⟩
  · simp only [hd, decide_false]
    refine ⟨?_, fun _ => flagSet_raiseFlag_self _ _⟩
    show (modifyPeer u _ s).pvw.slots[u].diverged = _
    rw [modifyPeer_slot]
    simp [Ne.symm hd]

/-! ### The slot and the view before the rejoin test -/

/-- The state once the PRESENCE has been met at the sender's slot, before the rejoin test. -/
def met (u : UnitId) (st : UnitState) (b : PresenceBody) (q : State) : State :=
  let t := modifyPeer u (storePresence st b) q
  compareDigest u b.digest (if withdraws q.pvw.slots[u] st then withdraw u b.stamp t else t)

section
variable {u : UnitId} {st : UnitState} {b : PresenceBody} {q : State}

theorem meetPresence_eq (h : q.pvw.slots[u].state ≠ .absent ∨ b.stamp.isSome = true) :
    meetPresence u st b q = rejoinTest u st b (met u st b q) := by
  refine if_neg ?_
  simp only [Bool.and_eq_true, decide_eq_true_eq, Option.isNone_iff_eq_none, not_and]
  rintro ha hs
  rw [hs] at h
  exact h.elim (absurd ha) (by simp)

theorem met_atSlot : AtSlot u q (met u st b q) :=
  ((AtSlot.modifyPeer _ q).trans (.ite (.withdraw _ _) (.refl _))).trans (.compareDigest _ _)

theorem withdraws_iff (p : PeerSlot) (st : UnitState) : withdraws p st = true ↔
    st = .listen ∧ (p.state = .present ∨ (p.state = .heard ∧ p.waiting.isSome = true)) := by
  simp [withdraws]

/-- A slot that has not withdrawn has the PRESENCE's fields. -/
theorem met_slot_of_stays (h : withdraws q.pvw.slots[u] st = false) : ∃ m c, (met u st b q).pvw.slots[u] =
    { storePresence st b q.pvw.slots[u] with diverged := m, counters.divergences := c } := by
  obtain ⟨m, c, e⟩ := compareDigest_slot u b.digest (modifyPeer u (storePresence st b) q)
  refine ⟨m, c, ?_⟩
  unfold met
  dsimp only
  rw [if_neg (by rw [h]; exact Bool.false_ne_true), e, modifyPeer_slot]

theorem met_slot_of_withdraws (h : withdraws q.pvw.slots[u] st = true) : ∃ x m c, (met u st b q).pvw.slots[u] =
    { withdrawn (storePresence st b q.pvw.slots[u]) with
      removal := x, diverged := m, counters.divergences := c } := by
  obtain ⟨m, c, e⟩ := compareDigest_slot u b.digest (withdraw u b.stamp (modifyPeer u (storePresence st b) q))
  obtain ⟨x, e'⟩ := withdraw_slot u b.stamp (modifyPeer u (storePresence st b) q)
  refine ⟨x, m, c, ?_⟩
  unfold met
  dsimp only
  rw [if_pos h, e, e', modifyPeer_slot]

theorem heardState_eq (x : SlotState) : heardState x = if x = .present then .present else .heard := by
  cases x <;> rfl

/-- The slot's state is PRESENT after a PRESENCE of a unit that is not in LISTEN exactly when it was before. -/
theorem met_present_iff (hst : st ≠ .listen) :
    (met u st b q).pvw.slots[u].state = .present ↔ q.pvw.slots[u].state = .present := by
  have hstays : withdraws q.pvw.slots[u] st = false := by
    rw [← Bool.not_eq_true, withdraws_iff]
    exact fun h => hst h.1
  obtain ⟨m, c, e⟩ := met_slot_of_stays (b := b) hstays
  rw [e]
  show heardState _ = _ ↔ _
  rw [heardState_eq]
  split
  · exact iff_of_true rfl ‹_›
  · exact iff_of_false nofun ‹_›

end

section
variable (u : UnitId) (st : UnitState) (b : PresenceBody) (q : State)

/-- In both cases the slot has the PRESENCE's fields, and keeps its claims. -/
theorem met_slot : ∃ x r m w c, (met u st b q).pvw.slots[u] = { storePresence st b q.pvw.slots[u] with
    state := x, removal := r, diverged := m, counters.withdrawals := w, counters.divergences := c } := by
  cases h : withdraws q.pvw.slots[u] st with
  | false =>
    obtain ⟨m, c, e⟩ := met_slot_of_stays (b := b) h
    exact ⟨_, _, m, _, c, e⟩
  | true =>
    obtain ⟨r, m, c, e⟩ := met_slot_of_withdraws (b := b) h
    exact ⟨_, r, m, _, c, e⟩

theorem storePresence_missed (p : PeerSlot) : (storePresence st b p).counters.missed =
    if p.inForce.all (fun c => c.version != b.version) ∧ p.waiting.all (fun c => c.version != b.version)
    then bump p.counters.missed else p.counters.missed := by
  show bumpBy p.counters.missed (bit (missesClaim p b.version) 1) = _
  rw [bumpBy_bit]
  simp only [missesClaim, Bool.and_eq_true]

end

section
variable {u : UnitId} {st : UnitState} {b : PresenceBody} {q : State} {n : FrameNo}

/-- The removal of a withdrawal, unless one is held that comes first. -/
theorem met_removal (h : withdraws q.pvw.slots[u] st = true) (hn : q.ftu.now = some n) :
    let g := removalFrom n (leadOf q) (plus (b.stamp.getD n) (leadOf q + 2))
    ((∀ x, q.pvw.slots[u].removal = some x → later x g = true) →
      (met u st b q).pvw.slots[u].removal = some g ∧ (met u st b q).alc.removals[u] = some g) ∧
    ∀ x, q.pvw.slots[u].removal = some x → later x g = false → (met u st b q).pvw.slots[u].removal = some x := by
  intro g
  have hslot : (modifyPeer u withdrawn (modifyPeer u (storePresence st b) q)).pvw.slots[u].removal =
      q.pvw.slots[u].removal := by rw [modifyPeer_modifyPeer, modifyPeer_slot]; rfl
  have hmet : met u st b q = compareDigest u b.digest
      (schedule u g (modifyPeer u withdrawn (modifyPeer u (storePresence st b) q))) := by
    unfold met
    dsimp only
    rw [if_pos h, withdraw_of_now u b.stamp (by exact hn)]
    rfl
  have hkept (s : State) : (compareDigest u b.digest s).pvw.slots[u].removal = s.pvw.slots[u].removal := by
    obtain ⟨m, c, e⟩ := compareDigest_slot u b.digest s
    rw [e]
  rw [hmet, hkept, compareDigest_alc]
  exact ⟨fun hfirst => schedule_first_removal (by rw [hslot]; exact hfirst), fun x hx hl => by
    rw [schedule_of_held (hslot.trans hx) hl, hslot, hx]⟩

/-- The digest is compared with the history as it stood. -/
theorem met_digest {f : FrameNo} {d e : BitVec 16} (hd : b.digest = some (f, d))
    (hfound : q.pvw.digests.find? (fun y => y.1 = f) = some (f, e)) :
    (met u st b q).pvw.slots[u].diverged = decide (d ≠ e) ∧ (d ≠ e → flagSet .viewDiverged (met u st b q) = true) := by
  unfold met
  dsimp only
  rw [hd]
  refine compareDigest_of_found ?_
  have hat : AtSlot u q (if withdraws q.pvw.slots[u] st then withdraw u b.stamp (modifyPeer u (storePresence st b) q)
      else modifyPeer u (storePresence st b) q) :=
    (AtSlot.modifyPeer _ q).trans (.ite (.withdraw _ _) (.refl _))
  rw [hat.rest]
  exact hfound

/-! ### The rejoin test (R76) -/

/-- The rejoin condition of unit `v`, in the state before the PRESENCE. -/
def RejoinCondition (v u : UnitId) (st : UnitState) (b : PresenceBody) (q : State) : Prop :=
  q.pvw.unit = .onAir ∧ q.ftu.now.isSome = true ∧ q.pvw.slots[u].state = .present ∧
    (st = .joining ∨ st = .onAir ∨ st = .isolated) ∧ b.heard.getLsbD v.val = false ∧
    q.pvw.rejoinHold = 25 ∧ ∃ f c, b.stamp = some f ∧ q.pvw.ownClaim = some c ∧ later c.frame f = false

/-- A withdrawal leaves no PRESENT slot, and nothing else that the test reads has changed. -/
theorem rejoinDue_met_iff {v : UnitId} (hv : selfOf q = v) :
    ((met u st b q).ftu.now.isSome = true ∧ rejoinDue u st b (met u st b q) = true) ↔ RejoinCondition v u st b q := by
  have hst (h : st = .joining ∨ st = .onAir ∨ st = .isolated) :
      (met u st b q).pvw.slots[u].state = .present ↔ q.pvw.slots[u].state = .present :=
    met_present_iff (by rcases h with rfl | rfl | rfl <;> nofun)
  have hrest := (met_atSlot (u := u) (st := st) (b := b) (q := q)).rest
  have hnow : (met u st b q).ftu = q.ftu := by rw [hrest]
  have hunit : (met u st b q).pvw.unit = q.pvw.unit := by rw [hrest]
  have hself : selfOf (met u st b q) = v := by rw [hrest]; exact hv
  have hhold : (met u st b q).pvw.rejoinHold = q.pvw.rejoinHold := by rw [hrest]
  have hown : (met u st b q).pvw.ownClaim = q.pvw.ownClaim := by rw [hrest]
  unfold rejoinDue
  rw [hnow, hunit, hself, hhold, hown]
  simp only [Bool.and_eq_true, Bool.or_eq_true, decide_eq_true_eq, Bool.not_eq_true', Option.any_eq_true, or_assoc,
    and_assoc]
  constructor
  · rintro ⟨hn, hu, hp, hs, hh, hr, f, hf, c, hc, hl⟩
    exact ⟨hu, hn, (hst hs).mp hp, hs, hh, hr, f, c, hf, hc, hl⟩
  · rintro ⟨hu, hn, hp, hs, hh, hr, f, c, hf, hc, hl⟩
    exact ⟨hn, hu, (hst hs).mpr hp, hs, hh, hr, f, hf, c, hc, hl⟩

/-- The counts as a rejoin claim is issued. -/
def rejoining (s : State) : State :=
  { s with pvw.rejoinHold := 0, pvw.counters.rejoinClaims := bump s.pvw.counters.rejoinClaims }

theorem rejoinTest_met_of_due {v : UnitId} (hv : selfOf q = v) (hn : q.ftu.now = some n)
    (h : RejoinCondition v u st b q) :
    rejoinTest u st b (met u st b q) = issueClaim n (rejoining (met u st b q)) := by
  have hnow : (met u st b q).ftu.now = some n := by rw [met_atSlot.rest]; exact hn
  unfold rejoinTest
  rw [hnow]
  exact if_pos ((rejoinDue_met_iff hv).mpr h).2

theorem rejoinTest_met_of_not {v : UnitId} (hv : selfOf q = v) (h : ¬RejoinCondition v u st b q) :
    rejoinTest u st b (met u st b q) = met u st b q := by
  unfold rejoinTest
  split
  · rfl
  · rename_i n hn
    exact if_neg (fun hd => h ((rejoinDue_met_iff hv).mp ⟨by rw [hn]; rfl, hd⟩))

end

/-- From `s` to `t` nothing changes but PVW's own claim and slot, the link, the flags raised, and ALC's counters. -/
structure OwnClaimed (s t : State) : Prop where
  rest     : t = { s with pvw := t.pvw, lkp := t.lkp, sup := t.sup, progress := t.progress, alc := t.alc }
  unit     : t.pvw.unit = s.pvw.unit
  removals : t.alc.removals = s.alc.removals
  others   : ∀ v, v ≠ selfOf s → t.pvw.slots[v] = s.pvw.slots[v]
  flags    : ∀ f, flagSet f s = true → flagSet f t = true

theorem sendClaim_flags (c : FramedClaim) (s : State) {f : Flag} (h : flagSet f s = true) :
    flagSet f (sendClaim c s) = true := (handIn_supplied ⟨.claim, 0, 0, claimBytes c⟩ s).flags f h

namespace OwnClaimed

variable {s t : State}

theorem refl (s : State) : OwnClaimed s s := ⟨rfl, rfl, rfl, fun _ _ => rfl, fun _ => id⟩

theorem issueClaim (n : FrameNo) (s : State) : OwnClaimed s (Machine.issueClaim n (rejoining s)) := by
  obtain ⟨l, p, e⟩ := issueClaim_fields n (rejoining s)
  refine ⟨?_, ?_, ?_, fun v hv => ?_, fun f hf => sendClaim_flags _ (issuing n (rejoining s)) hf⟩
  · rw [e]; rfl
  · rw [e]; rfl
  · rw [e]; rfl
  · rw [e]
    exact modifyAt_other _ _ hv

theorem rejoinTest (u : UnitId) (st : UnitState) (b : PresenceBody) (s : State) :
    OwnClaimed s (Machine.rejoinTest u st b s) := by
  unfold Machine.rejoinTest
  split
  · exact refl s
  · split
    · exact issueClaim _ s
    · exact refl s

/-- Noting an announced alert sets a counter of ALC. -/
theorem noteAnnounced (h : OwnClaimed s t) (a : Option AlertId) : OwnClaimed s (Machine.noteAnnounced a t) := by
  obtain ⟨hrest, hunit, hremovals, hothers, hflags⟩ := h
  obtain ⟨c, e⟩ : ∃ c, Machine.noteAnnounced a t = { t with alc.counters := c } := by
    unfold Machine.noteAnnounced
    split
    · exact ⟨_, rfl⟩
    · split <;> exact ⟨_, rfl⟩
  rw [e]
  refine ⟨?_, hunit, hremovals, hothers, hflags⟩
  rw [hrest]

end OwnClaimed

@[simp] theorem noteAnnounced_pvw (a : Option AlertId) (s : State) : (noteAnnounced a s).pvw = s.pvw := by
  unfold noteAnnounced
  split
  · rfl
  · split <;> rfl

/-! ### The cases of a PRESENCE (R68) -/

section
variable {u : UnitId} {body : List Byte} {q : State}

theorem takePresence_ignored (hv : q.pvw.unit.viewing = false) : takePresence u body q = ignorePacket q :=
  if_pos (by rw [hv]; rfl)

theorem takePresence_bad (hv : q.pvw.unit.viewing = true) (hb : (parsePresence body).unit = none) :
    takePresence u body q = { q with pvw.counters.badPresences := bump q.pvw.counters.badPresences } := by
  unfold takePresence
  dsimp only
  rw [if_neg (by simp [hv]), hb]

theorem takePresence_met {st : UnitState} (hv : q.pvw.unit.viewing = true)
    (hb : (parsePresence body).unit = some st) : takePresence u body q =
      noteAnnounced (parsePresence body).alertId (meetPresence u st (parsePresence body) q) := by
  unfold takePresence
  dsimp only
  rw [if_neg (by simp [hv]), hb]

theorem meetPresence_of_absent {st : UnitState} {b : PresenceBody} (ha : q.pvw.slots[u].state = .absent)
    (hb : b.stamp = none) : meetPresence u st b q = q := by
  unfold meetPresence
  exact if_pos (Bool.and_eq_true_iff.mpr ⟨decide_eq_true ha, by rw [hb]; rfl⟩)

end

/-! ### The claim that a PRESENCE brings (R76) -/

section
variable {u : UnitId} {st : UnitState} {b : PresenceBody} {q : State} {n : FrameNo}

theorem met_fields (u : UnitId) (st : UnitState) (b : PresenceBody) (q : State) :
    ∃ v a p, met u st b q = { q with pvw.slots := v, alc := a, sup := p } := ⟨_, _, _, met_atSlot.rest⟩

theorem selfOf_met : selfOf (met u st b q) = selfOf q := by
  obtain ⟨v, a, p, e⟩ := met_fields u st b q
  rw [e]
  rfl

theorem newClaim_met : newClaim n (rejoining (met u st b q)) =
    ⟨q.pvw.version + 1, plus n (2 * leadOf q + 2), claimEntries q⟩ := by
  obtain ⟨v, a, p, e⟩ := met_fields u st b q
  rw [e]
  rfl

/-- The own claim as the rejoin brings it. -/
theorem rejoined_pvw : ∃ v, (issueClaim n (rejoining (met u st b q))).pvw = { q.pvw with
    version := q.pvw.version + 1, ownClaim := some (newClaim n (rejoining (met u st b q))), rejoinHold := 0
    claimCount := 0, slots := v
    counters := { q.pvw.counters with
      rejoinClaims := bump q.pvw.counters.rejoinClaims, claimsIssued := bump q.pvw.counters.claimsIssued } } := by
  obtain ⟨l, p, e⟩ := issueClaim_fields n (rejoining (met u st b q))
  rw [e]
  obtain ⟨v, a, p', e'⟩ := met_fields u st b q
  rw [e']
  exact ⟨_, rfl⟩

/-- The own slot holds the new claim as its pending one (R74). -/
theorem issueClaim_own_waiting (n : FrameNo) {s : State} {v : UnitId} (hv : selfOf s = v) :
    (issueClaim n s).pvw.slots[v].waiting = some (newClaim n s) := by
  subst hv
  obtain ⟨l, p, e⟩ := issueClaim_fields n s
  rw [e]
  show (modifyAt s.pvw.slots (selfOf s) _)[selfOf s].waiting = _
  rw [modifyAt_self]

theorem rejoined_lkp (hu : q.pvw.unit = .onAir) (hroom : q.lkp.queue.length < 64) :
    (issueClaim n (rejoining (met u st b q))).lkp = servedLkp q { q.lkp with
      queue := q.lkp.queue ++ [claimPacket (newClaim n (rejoining (met u st b q)))] } := by
  obtain ⟨v, a, p, e⟩ := met_fields u st b q
  have hv : (rejoining (met u st b q)).pvw.unit.viewing = true := by
    rw [e]
    show q.pvw.unit.viewing = true
    rw [hu]
    rfl
  have hlkp : (rejoining (met u st b q)).lkp = q.lkp := by rw [e]; rfl
  rw [(issueClaim_of_room hv (by rw [hlkp]; exact hroom)).2, hlkp]
  exact servedLkp_congr _ (by rw [e]; rfl) (by rw [e]; rfl) (by rw [e]; rfl)

end

/-- Noting a packet keeps the image, and so the unit's own id. -/
theorem selfOf_noted (p : LinkPacket) (u : UnitId) (r : State) : selfOf (noted p u r) = selfOf r := by
  have hcfl : (noted p u r).cfl = r.cfl := by
    refine (linkReturn_quiet (r := false) _).cfl.trans ?_
    rw [(markPeer_aside _).cfl]
  unfold selfOf
  rw [hcfl]

/-- Settles O27: the packet is handed on (`exec_good`); the sender's slot is `met_slot` and `met_removal`, the digest
`compareDigest_of_found`, the rejoin claim `rejoinDue_met_iff` with `rejoined_pvw` and `rejoined_lkp`, and the rest
stands by `AtSlot` and `OwnClaimed`. -/
theorem presenceOutcome : Obligations.PresenceOutcome := by
  unfold Obligations.PresenceOutcome
  refine ⟨?met, ?others⟩
  case others =>
    intro s r p u hr hp hc q b
    have hexec : exec (.presence p) s = .next (takePresence u p.body q) := exec_good hr hp hc rfl
    rw [hexec]
    refine ⟨fun hv => ?_, fun hv hb => ?_, fun hv hb ha hs => ?_⟩
    · rw [takePresence_ignored hv, ignorePacket_eq]
    · rw [takePresence_bad hv hb]
    · obtain ⟨st, hst⟩ := Option.isSome_iff_exists.mp hb
      rw [takePresence_met hv hst, meetPresence_of_absent ha hs]
  case met =>
    intro s r p u st hr hp hc q b x hv hb hx
    have hexec : exec (.presence p) s = .next (takePresence u p.body q) := exec_good hr hp hc rfl
    have hself : selfOf q = selfOf r := selfOf_noted p u r
    have hother : u ≠ selfOf (met u st b q) := by rw [selfOf_met, hself]; exact hp.other
    have hclaimed := (OwnClaimed.rejoinTest u st b (met u st b q)).noteAnnounced b.alertId
    have hpvw := noteAnnounced_pvw b.alertId (rejoinTest u st b (met u st b q))
    have hlkp := noteAnnounced_lkp b.alertId (rejoinTest u st b (met u st b q))
    rw [takePresence_met hv hb, meetPresence_eq hx] at hexec
    refine ⟨_, hexec, ?_⟩
    generalize noteAnnounced b.alertId (rejoinTest u st b (met u st b q)) = t at hclaimed hpvw hlkp
    have hslot : t.pvw.slots[u] = (met u st b q).pvw.slots[u] := hclaimed.others u hother
    rw [hslot, hclaimed.removals]
    refine ⟨?slot, ?claim, fun v hvu hvr => ?_, fun f d e hd hfound => ?_, ?_⟩
    case slot =>
      obtain ⟨y, r', m, w, c, e⟩ := met_slot u st b q
      refine ⟨congrArg PeerSlot.reported e, congrArg PeerSlot.announced e, congrArg PeerSlot.heardSet e,
        congrArg PeerSlot.holdover e, congrArg PeerSlot.alertId e, congrArg PeerSlot.stamp e,
        congrArg PeerSlot.digest e, (congrArg PeerSlot.inForce e).trans rfl, (congrArg PeerSlot.waiting e).trans rfl,
        (congrArg (fun z => z.counters.missed) e).trans (storePresence_missed st b x), fun hno => ?_, fun hl hw => ?_⟩
      · obtain ⟨m, c, e⟩ := met_slot_of_stays (b := b) (Bool.eq_false_iff.mpr (mt (withdraws_iff x st).mp hno))
        exact ⟨(congrArg PeerSlot.state e).trans (heardState_eq x.state), (congrArg PeerSlot.removal e).trans rfl,
          congrArg (fun z => z.counters.withdrawals) e⟩
      · have hwithdraws : withdraws q.pvw.slots[u] st = true := (withdraws_iff x st).mpr ⟨hl, hw⟩
        obtain ⟨y, m, c, e⟩ := met_slot_of_withdraws (b := b) hwithdraws
        exact ⟨congrArg PeerSlot.state e, congrArg (fun z => z.counters.withdrawals) e,
          fun n hn => met_removal hwithdraws hn⟩
    case claim =>
      refine ⟨fun hno => ?_, fun n hdue hn => ?_⟩
      · rw [rejoinTest_met_of_not hself hno] at hpvw hlkp
        have hown := (met_atSlot (u := u) (st := st) (b := b) (q := q)).others (selfOf r) hp.other.symm
        obtain ⟨v, a, p', e⟩ := met_fields u st b q
        rw [hpvw, hlkp, hown]
        rw [e]
        exact ⟨rfl, rfl, rfl, rfl, rfl, rfl⟩
      · have hwaiting := issueClaim_own_waiting n (s := rejoining (met u st b q)) (selfOf_met.trans hself)
        have hu : q.pvw.unit = .onAir := hdue.1
        rw [rejoinTest_met_of_due hself hn hdue] at hpvw hlkp
        rw [hpvw, hlkp]
        obtain ⟨v, e⟩ := rejoined_pvw (u := u) (st := st) (b := b) (q := q) (n := n)
        refine ⟨?_, ?_, ?_, ?_, ?_, ?_, fun hroom => ?_⟩
        · rw [e, newClaim_met]
        · rw [e]
        · rw [e]
        · rw [e]
        · rw [hwaiting, newClaim_met]
        · rw [e]
        · rw [rejoined_lkp hu hroom, newClaim_met]
    · rw [hclaimed.others v (by rw [selfOf_met, hself]; exact hvr), met_atSlot.others v hvu]
    · obtain ⟨hmark, hflag⟩ := met_digest (u := u) (st := st) hd hfound
      exact ⟨hmark, fun hne => hclaimed.flags _ (hflag hne)⟩
    · obtain ⟨v, a, p', e⟩ := met_fields u st b q
      have hrest := hclaimed.rest
      have hunit := hclaimed.unit
      rw [e] at hrest hunit
      rw [hunit, hrest]
      exact ⟨rfl, rfl, rfl, rfl, rfl, rfl, rfl, rfl, rfl, rfl⟩

end Sys2Proof.Machine
end

section
/-! PROOFS. A contribution from a peer: the packet noted, then ASM's judgement of the arrival (R47, R48, R90 to R92). -/

namespace Sys2Proof.Machine

/-! ### The packet -/

/-- A body error counted before the packet is noted or between its tests is the same change. -/
theorem noteValid_bodyError_eq_noted (p : LinkPacket) (u : UnitId) (r : State) :
    noteValid u (bodyError u (modifySender u (testSequence p.seq) (headerGood r))) = noted p u (bodyError u r) := by
  have hcommutes : bodyError u (modifySender u (testSequence p.seq) (headerGood r)) =
      modifySender u (testSequence p.seq) (headerGood (bodyError u r)) :=
    (modifySender_modifySender u _ _ _).trans
      (modifySender_modifySender u (fun x => { x with bodyErrors := bump x.bodyErrors }) (testSequence p.seq)
        (headerGood r)).symm
  rw [hcommutes, noteValid_eq_noted]

/-- A CONTRIB with a bad body check is counted, noted all the same, and handed on as VOID (R47, R48). -/
theorem exec_contrib_bad {s r : State} {p : LinkPacket} {u : UnitId} (h : settle s = r) (hp : PeerPacket .contrib p u r)
    (hc : p.bodyCheck ≠ crc32 p.body) :
    exec (.contrib p) s = .next (arrive ⟨u, p.frameTag, p.serviceTag, none⟩ (noted p u (bodyError u r))) := by
  have hexec : exec (.contrib p) s = .next (peerPacket .contrib u p (headerGood r)) := exec_peer h hp
  rw [hexec, peerPacket, bodyGood_false (.inl hc), if_neg Bool.false_ne_true, if_pos rfl, noteValid_bodyError_eq_noted]
  rfl

/-! ### Ignored, LATE, EARLY, held or tested (R90) -/

theorem arrive_ignored (a : Arrival) {s : State} (h : s.pvw.unit.computing = false) :
    arrive a s = countAsm (fun c => { c with ignoredByState := bump c.ignoredByState }) s := by
  unfold arrive
  rw [h]

section
variable {n : FrameNo} (a : Arrival) {s : State} (h : Receiving n (leadOf s) s)
include h

theorem arrive_late (hl : later a.frame (plus n 1) = false) : arrive a s =
    raiseFlag .contribLate (modifySender a.sender (fun r => { r with late := bump r.late })
      (countAsm (fun c => { c with late := bump c.late }) s)) := by
  unfold arrive
  rw [h.computing, h.now]
  exact if_pos (by rw [hl]; rfl)

theorem arrive_of_not_late (hl : later a.frame (plus n 1) = true) : arrive a s =
    if later a.frame (plus n (leadOf s + 1)) then countAsm (fun c => { c with early := bump c.early }) s
    else if a.frame = plus n (leadOf s + 1) then holdArrival a s else testEntry a s := by
  unfold arrive
  rw [h.computing, h.now]
  exact if_neg (by rw [hl]; decide)

theorem arrive_early (hl : later a.frame (plus n 1) = true) (he : later a.frame (plus n (leadOf s + 1)) = true) :
    arrive a s = countAsm (fun c => { c with early := bump c.early }) s := by
  rw [arrive_of_not_late a h hl, if_pos he]

theorem arrive_held (hl : later a.frame (plus n 1) = true) (he : a.frame = plus n (leadOf s + 1)) :
    arrive a s = holdArrival a s := by
  rw [arrive_of_not_late a h hl, ← he, later_self, if_neg Bool.false_ne_true, if_pos rfl]

theorem arrive_tested (hl : later a.frame (plus n 1) = true) (he : later a.frame (plus n (leadOf s + 1)) = false)
    (hne : a.frame ≠ plus n (leadOf s + 1)) : arrive a s = testEntry a s := by
  rw [arrive_of_not_late a h hl, he, if_neg Bool.false_ne_true, if_neg hne]

end

/-! ### An arrival held for now + L + 1 (R90) -/

section
variable (a : Arrival) {s : State}

theorem holdArrival_free (h : s.asm.slots[slotOf a.frame] = .free) :
    holdArrival a s = setSlot a.frame (.waiting a.frame [a]) s := by
  unfold holdArrival
  rw [slotAt_eq, h]

theorem holdArrival_waiting {l : List Arrival} (h : s.asm.slots[slotOf a.frame] = .waiting a.frame l) :
    holdArrival a s = if l.length < 41 then setSlot a.frame (.waiting a.frame (l ++ [a])) s
      else countAsm (fun c => { c with early := bump c.early }) s := by
  unfold holdArrival
  rw [slotAt_eq, h]
  exact if_pos rfl

/-- A slot that is neither FREE nor waiting for the frame holds none of its arrivals. -/
theorem holdArrival_stray (hfree : s.asm.slots[slotOf a.frame] ≠ .free)
    (hwaits : ∀ l, s.asm.slots[slotOf a.frame] ≠ .waiting a.frame l) :
    holdArrival a s = countAsm (countJudged .stray) s := by
  unfold holdArrival
  rw [slotAt_eq]
  split
  · rename_i hslot
    exact absurd hslot hfree
  · rename_i m l hslot
    refine if_neg ?_
    rintro rfl
    exact hwaits l hslot
  · rfl

end

/-! ### The entry tests (R91) -/

theorem isEntryOf_eq_false_iff (a : Arrival) (e : StoreEntry) :
    isEntryOf a e = false ↔ e.service ≠ a.service ∨ e.owner ≠ a.sender := by
  rw [← Bool.not_eq_true, isEntryOf_iff, not_and_or]

/-- No slot is OPEN for the frame with an entry of that service and sender. -/
theorem testEntry_stray (a : Arrival) {s : State}
    (h : ∀ l es, s.asm.slots[slotOf a.frame] = .opened a.frame l es → ∀ e ∈ es, isEntryOf a e = false) :
    testEntry a s = countAsm (countJudged .stray) s := by
  unfold testEntry
  rw [slotAt_eq]
  split
  · rename_i m l es hslot
    split_ifs with hm
    · subst hm
      rw [List.find?_eq_none.mpr (fun e he => by simp [h l es hslot e he])]
    · rfl
  · rfl

section
variable {a : Arrival} {s : State} {l : Layout} {before after : List StoreEntry} {y : StoreEntry}

/-- A payload of another size makes the entry VOID, counted as SIZE. -/
theorem testEntry_sizeVoid {c : Contribution}
    (h : s.asm.slots[slotOf a.frame] = .opened a.frame l (before ++ y :: after)) (hy : isEntryOf a y = true)
    (hb : ∀ x ∈ before, isEntryOf a x = false) (hc : a.content = some c) (he : y.filing = .empty)
    (hlen : c.payload.length ≠ 5 * (y.audioRate + y.side)) :
    testEntry a s = countAsm (countJudged .sizeVoid)
      (setSlot a.frame (.opened a.frame l (before ++ { y with filing := .void a.sender } :: after)) s) := by
  have hj : judgeEntry a y = .sizeVoid := by
    rw [judgeEntry, if_neg (not_not_intro he), hc]
    exact if_pos hlen
  rw [testEntry_entry h hy hb, hj, fileEntry, hj]

/-- An arrival without content makes the entry VOID, counted as void filed. -/
theorem testEntry_handedVoid (h : s.asm.slots[slotOf a.frame] = .opened a.frame l (before ++ y :: after))
    (hy : isEntryOf a y = true) (hb : ∀ x ∈ before, isEntryOf a x = false) (hc : a.content = none)
    (he : y.filing = .empty) :
    testEntry a s = countAsm (countJudged .handedVoid)
      (setSlot a.frame (.opened a.frame l (before ++ { y with filing := .void a.sender } :: after)) s) := by
  have hj : judgeEntry a y = .handedVoid := by
    rw [judgeEntry, if_neg (not_not_intro he), hc]
  rw [testEntry_entry h hy hb, hj, fileEntry, hj]

end

/-- Settles O29: the packet is noted and handed on with or without content (`exec_good`, `exec_contrib_bad`); R90's
cases are the `arrive_` lemmas, R91's the `testEntry_` lemmas. -/
theorem contributionOutcome : Obligations.ContributionOutcome := by
  unfold Obligations.ContributionOutcome
  intro s r p u hr hp y q c content i held counted
  let a : Arrival := ⟨u, p.frameTag, p.serviceTag, content⟩
  have hexec : exec (.contrib p) s = .next (arrive a q) := by
    by_cases hc : p.bodyCheck = crc32 p.body
    · simp only [a, q, content, if_pos hc]
      exact exec_good hr hp hc rfl
    · simp only [a, q, content, if_neg hc]
      exact exec_contrib_bad hr hp hc
  clear_value q
  refine ⟨hexec, fun hu => ?_, fun n hu hn => ?_⟩
  · rw [hexec, arrive_ignored a hu]
    rfl
  have hreceiving : Receiving n (leadOf q) q := ⟨hu, hn, rfl⟩
  rw [hexec]
  refine ⟨fun hl => ?late, fun hl he => ?early, fun hl he => ?held, fun hl he hne hno => ?stray,
    fun l before after e hl he hne hslot hsvc how hbefore => ?entry⟩
  case late =>
    rw [arrive_late a hreceiving hl]
    rfl
  case early =>
    rw [arrive_early a hreceiving hl he]
    rfl
  case held =>
    rw [arrive_held a hreceiving hl he]
    refine ⟨fun hfree => ?_, fun l hw hroom => ?_, fun l hw hfull => ?_, fun hfree hw => ?_⟩
    · rw [holdArrival_free a hfree]
      rfl
    · rw [holdArrival_waiting a hw, if_pos hroom]
      rfl
    · rw [holdArrival_waiting a hw, if_neg (by omega)]
      rfl
    · rw [holdArrival_stray a hfree hw]
      rfl
  case stray =>
    rw [arrive_tested a hreceiving hl he hne,
      testEntry_stray a fun l es hslot e hmem => (isEntryOf_eq_false_iff a e).mpr (hno l es hslot e hmem)]
    rfl
  case entry =>
    have hentry : isEntryOf a e = true := (isEntryOf_iff a e).mpr ⟨hsvc, how⟩
    have hfirst : ∀ x ∈ before, isEntryOf a x = false :=
      fun x hx => (isEntryOf_eq_false_iff a x).mpr (hbefore x hx)
    rw [arrive_tested a hreceiving hl he hne]
    refine ⟨fun hempty hc hlen => ?_, fun hempty hc hlen => ?_, fun hempty hc => ?_, fun hfiled => ?_⟩
    · rw [testEntry_files (a := a) hslot hentry hfirst (if_pos hc) hempty hlen]
      rfl
    · rw [testEntry_sizeVoid (a := a) hslot hentry hfirst (if_pos hc) hempty hlen]
      rfl
    · rw [testEntry_handedVoid (a := a) hslot hentry hfirst (if_neg hc) hempty]
      rfl
    · rw [testEntry_duplicate (a := a) hslot hentry hfirst hfiled]

end Sys2Proof.Machine
end

section
/-! PROOFS. The seal of one entry: its audio part, its side part, and their sizes (R95, R96). -/

namespace Sys2Proof.Machine

/-! ### The audio part (R95) -/

section
variable {e : StoreEntry} (g : HoldRecord)

theorem sealAudio_of_zero (h : e.audioRate = 0) : sealAudio e g = ([], .clear, g) := if_pos h

theorem sealAudio_good {a : List Byte} (hr : e.audioRate ≠ 0) (ha : filedAudio e.filing = some a) :
    sealAudio e g = (a, .clear, { g with lastGood := some a, count := 0 }) := by
  rw [sealAudio, if_neg hr, ha]

variable {g}

theorem sealAudio_repeated {a : List Byte} (hr : e.audioRate ≠ 0) (hf : filedAudio e.filing = none)
    (hg : g.lastGood = some a) (hlen : a.length = 5 * e.audioRate) (hn : g.count < 2) :
    sealAudio e g = (a, .impaired, { g with count := g.count + 1 }) := by
  rw [sealAudio, if_neg hr, hf, hg]
  exact if_pos (by simp [hlen, hn])

/-- With no last good audio of the right length, or after two repeats, the audio part is zeros. -/
theorem sealAudio_muted (hr : e.audioRate ≠ 0) (hf : filedAudio e.filing = none)
    (hg : g.lastGood = none ∨ 2 ≤ g.count ∨ ∃ a, g.lastGood = some a ∧ a.length ≠ 5 * e.audioRate) :
    sealAudio e g = (List.replicate (5 * e.audioRate) 0, .muted, { g with count := 2 }) := by
  rw [sealAudio, if_neg hr, hf]
  cases hlast : g.lastGood with
  | none => rfl
  | some a =>
    refine if_neg ?_
    rw [hlast] at hg
    rw [Bool.and_eq_true, decide_eq_true_eq, beq_iff_eq]
    rintro ⟨hn, hlen⟩
    obtain hnone | hcount | ⟨b, hb, hne⟩ := hg
    · cases hnone
    · omega
    · obtain rfl := Option.some.inj hb
      exact hne hlen

end

/-- What was filed at the entry's size is sealed at it, and what stands in for it has that size. -/
theorem sealAudio_length {e : StoreEntry} (g : HoldRecord)
    (h : ∀ a, filedAudio e.filing = some a → a.length = 5 * e.audioRate) :
    (sealAudio e g).1.length = 5 * e.audioRate := by
  by_cases hr : e.audioRate = 0
  · rw [sealAudio_of_zero g hr, hr]
    rfl
  cases hf : filedAudio e.filing with
  | some a => rw [sealAudio_good g hr hf, h a hf]
  | none =>
    by_cases hg : ∃ a, g.lastGood = some a ∧ a.length = 5 * e.audioRate ∧ g.count < 2
    · obtain ⟨a, ha, hlen, hn⟩ := hg
      rw [sealAudio_repeated hr hf ha hlen hn, hlen]
    · have hmuted : g.lastGood = none ∨ 2 ≤ g.count ∨ ∃ a, g.lastGood = some a ∧ a.length ≠ 5 * e.audioRate := by
        cases hlast : g.lastGood with
        | none => exact .inl rfl
        | some a =>
          rw [hlast] at hg
          by_cases hlen : a.length = 5 * e.audioRate
          · exact .inr (.inl (not_lt.mp fun hn => hg ⟨a, rfl, hlen, hn⟩))
          · exact .inr (.inr ⟨a, rfl, hlen⟩)
      rw [sealAudio_muted hr hf hmuted, List.length_replicate]

/-! ### The side part (R96) -/

theorem flatten_replicate_fillCell (n : Nat) : (List.replicate n fillCell).flatten = List.replicate (20 * n) 0 := by
  rw [fillCell, List.flatten_replicate_replicate, Nat.mul_comm]

theorem sealSide_good {e : StoreEntry} {c : List Byte} (h : filedSide e.filing = some c) : sealSide e = (c, false) := by
  rw [sealSide, h]

theorem sealSide_fills {e : StoreEntry} (h : filedSide e.filing = none) :
    sealSide e = (List.replicate (20 * (e.side / 4)) 0, decide (4 ≤ e.side)) := by
  rw [sealSide, h]
  have hfilled : 1 ≤ e.side / 4 ↔ 4 ≤ e.side := by omega
  simp only [flatten_replicate_fillCell, cellsOf, hfilled]

theorem sealSide_length {e : StoreEntry} (h : ∀ c, filedSide e.filing = some c → c.length = 5 * e.side)
    (hcells : e.side % 4 = 0) : (sealSide e).1.length = 5 * e.side := by
  cases hf : filedSide e.filing with
  | some c => rw [sealSide_good hf, h c hf]
  | none =>
    rw [sealSide_fills hf, List.length_replicate]
    omega

end Sys2Proof.Machine
end

section
/-! PROOFS. The sizes of cells and of a side part, and the bytes of a picture data cell (R85, R122, R142, R192). -/

namespace Sys2Proof.Machine

theorem textCell_length (slot : Nat) (toggle : Bool) (text : List Byte) (i : Nat) :
    (textCell slot toggle text i).length = 20 := by
  rw [textCell, List.length_append, zeroPad_length]
  rfl

theorem dataCell_length (m : List Host.Cell) (x : PicRecord) (i : Nat) : (dataCell m x i).length = 20 := by
  rw [dataCell, segmentBytes, List.length_append, List.length_map, List.length_range]
  rfl

theorem closingCell_length (x : PicRecord) : (closingCell x).length = 20 := rfl

/-- Byte `j` of a data segment: the object's, zero behind its last. -/
theorem byteAt_dataCell (m : List Host.Cell) (x : PicRecord) (i : Nat) {j : Nat} (hj : j < 16) :
    byteAt (dataCell m x i) (4 + j) =
      if 16 * i + j < x.size then memRead m (byteAddress x (16 * i + j)) else 0 := by
  have hhead : ([byteOf (32 + i / 256), byteOf (i % 256)] ++ be16 x.id).length = 4 := rfl
  rw [dataCell, byteAt_append_right (by rw [hhead]; omega), hhead, Nat.add_sub_cancel_left, byteAt, segmentBytes]
  simp [hj]

/-- A text cell given is the current transmission's or that of one begun. -/
theorem requestText_length {cadence : Nat} {c : Carousel} {cell : List Byte}
    (h : (requestText cadence c).2 = some cell) : cell.length = 20 := by
  have hgiven : ∀ t d, (giveCell t d).2.length = 20 := by
    intro t d
    unfold giveCell
    dsimp only
    split_ifs <;> exact textCell_length _ _ _ _
  unfold requestText at h
  split_ifs at h
  split at h
  · obtain rfl := Option.some.inj h
    exact hgiven _ _
  · split at h
    · cases h
    · obtain rfl := Option.some.inj h
      exact hgiven _ _

theorem giveSegment_length (k : ServiceIx) (x : PicRecord) (s : State) : (giveSegment k x s).2.1.length = 20 := by
  unfold giveSegment
  dsimp only
  split_ifs
  · exact dataCell_length _ _ _
  · exact closingCell_length _

/-- At most as many picture cells as asked for, each of 20 bytes (R144). -/
theorem requestPictures_cells (k : ServiceIx) (m : Nat) : ∀ (closed : List ObjectId) (s : State),
    (requestPictures k m closed s).2.length ≤ m ∧ ∀ x ∈ (requestPictures k m closed s).2, x.length = 20 := by
  induction m with
  | zero => exact fun _ _ => ⟨le_rfl, List.forall_mem_nil _⟩
  | succ m ih =>
    have hcell : ∀ x y closed t, (((giveSegment k x y).2.1 :: (requestPictures k m closed t).2).length ≤ m + 1 ∧
        ∀ z ∈ (giveSegment k x y).2.1 :: (requestPictures k m closed t).2, z.length = 20) := fun x y closed t =>
      ⟨Nat.succ_le_succ (ih closed t).1, List.forall_mem_cons.mpr ⟨giveSegment_length k x y, (ih closed t).2⟩⟩
    intro closed s
    unfold requestPictures
    split
    · exact hcell _ _ _ _
    · split
      · exact ⟨Nat.zero_le _, List.forall_mem_nil _⟩
      · exact hcell _ _ _ _

theorem flatten_length_of_cells {cells : List (List Byte)} (h : ∀ x ∈ cells, x.length = 20) :
    cells.flatten.length = 20 * cells.length := by
  rw [List.length_flatten, List.sum_eq_card_nsmul _ 20 (List.forall_mem_map.mpr h), List.length_map, smul_eq_mul,
    Nat.mul_comm]

theorem fillSide_zero (k : ServiceIx) (cadence : Nat) (s : State) : fillSide k cadence 0 s = (s, []) := if_pos rfl

/-- The side part of `c` cells: the text cell, the picture cells and the fill cells make `c` (R85). -/
theorem fillSide_length (k : ServiceIx) (cadence c : Nat) (s : State) : (fillSide k cadence c s).2.length = 20 * c := by
  obtain rfl | hc := Nat.eq_zero_or_pos c
  · rw [fillSide_zero]
    rfl
  have hside := fillSide_of_pos hc k cadence s
  extract_lets text given _ pics at hside
  obtain ⟨hcount, hpictures⟩ : pics.2.length ≤ c - given.length ∧ ∀ x ∈ pics.2, x.length = 20 :=
    requestPictures_cells k _ [] _
  have hone : given.length ≤ 1 := Option.length_toList_le
  have htext : ∀ x ∈ given, x.length = 20 := fun x hx => requestText_length (Option.mem_toList.mp hx)
  rw [hside, flatten_length_of_cells, List.length_append, List.length_append, List.length_replicate]
  · omega
  · rw [List.forall_mem_append, List.forall_mem_append]
    exact ⟨⟨htext, hpictures⟩, fun x hx => by rw [List.eq_of_mem_replicate hx, List.length_replicate]⟩

end Sys2Proof.Machine
end

section
/-! PROOFS. The turns of a text carousel: cycle lists, the search for a message, and its cells (R124, R126). -/

namespace Sys2Proof.Machine

/-! ### A new cycle list (R124) -/

/-- Distinct entries of a table, each replaced by `f` of it. -/
theorem getElem_foldl_modifyAt {α : Type} {n : Nat} (f : α → α) (l : List (Fin n)) (hl : l.Nodup) (j : Fin n) :
    ∀ v : Vector α n, (l.foldl (fun v i => modifyAt v i f) v)[j] = if j ∈ l then f v[j] else v[j] := by
  induction l with
  | nil => exact fun v => (if_neg List.not_mem_nil).symm
  | cons i l ih =>
    intro v
    obtain ⟨hi, hl⟩ := List.nodup_cons.mp hl
    rw [List.foldl_cons, ih hl]
    by_cases hj : j = i
    · subst hj
      rw [if_neg hi, if_pos List.mem_cons_self, modifyAt_self]
    · rw [modifyAt_other _ _ hj]
      simp [hj]

theorem foldl_modifyAt_slotIxs {α : Type} (f : α → α) (v : Vector α 8) :
    slotIxs.foldl (fun v i => modifyAt v i f) v = mapAll f v := by
  ext j hj
  have hmem : (⟨j, hj⟩ : Fin 8) ∈ slotIxs := by
    have : ∀ i : Fin 8, i ∈ slotIxs := by decide
    exact this _
  have hentry := getElem_foldl_modifyAt f slotIxs (by decide) ⟨j, hj⟩ v
  rw [if_pos hmem] at hentry
  exact hentry.trans (mapAll_get f v ⟨j, hj⟩).symm

/-- What a new list makes of a slot: an ACTIVE one is in the list. -/
def listed (t : TextSlot) : TextSlot := if t.state = .active then { t with inList := true } else t

theorem listed_state (t : TextSlot) : (listed t).state = t.state := by
  unfold listed
  split_ifs <;> rfl

theorem listed_weight (t : TextSlot) : (listed t).weight = t.weight := by
  unfold listed
  split_ifs <;> rfl

theorem listed_listed (t : TextSlot) : listed (listed t) = listed t := by
  unfold listed
  split_ifs <;> rfl

/-- The four rounds of a list, and the slots marked. -/
theorem buildCycle_eq (c : Carousel) : buildCycle c = { c with
    position := none, cycle := [1, 2, 3, 4].flatMap (cycleRound c), slots := mapAll listed c.slots } := by
  rw [buildCycle, ← foldl_modifyAt_slotIxs]
  simp only [List.flatMap_cons, List.flatMap_nil, List.append_nil, List.append_assoc]
  rfl

/-- A list just built is the one that would be built again. -/
theorem buildCycle_buildCycle (c : Carousel) : buildCycle (buildCycle c) = buildCycle c := by
  have hround : ∀ v p,
      cycleRound { c with position := p, cycle := v, slots := mapAll listed c.slots } = cycleRound c := by
    intro v p
    funext w
    simp only [cycleRound, mapAll_get, listed_state, listed_weight]
  have hslots : mapAll listed (mapAll listed c.slots) = mapAll listed c.slots := by
    simp [mapAll, listed_listed]
  rw [buildCycle_eq c, buildCycle_eq]
  simp only [hround, hslots]

theorem cycleRound_of_none_active {c : Carousel} (h : ∀ i : SlotIx, c.slots[i].state ≠ .active) (w : Nat) :
    cycleRound c w = [] :=
  List.filter_eq_nil_iff.mpr fun i _ hi => h i (of_decide_eq_true (Bool.and_eq_true_iff.mp hi).1)

/-! ### The search (R124) -/

theorem eligible_iff (c : Carousel) (i : SlotIx) :
    eligible c i = true ↔ c.slots[i].state = .active ∧ c.slots[i].inList = true := by
  simp [eligible]

theorem drop_zipIdx {α : Type} (l : List α) (n : Nat) : l.zipIdx.drop n = (l.drop n).zipIdx n := by
  apply List.ext_getElem?
  simp

/-- The entry found is the first that may be sent. -/
theorem searchFrom_found {c : Carousel} {start : Nat} {a b : List SlotIx} {i : SlotIx}
    (h : c.cycle.drop start = a ++ i :: b) (ha : ∀ j ∈ a, ¬eligible c j = true) (hi : eligible c i = true) :
    searchFrom c start = some (start + a.length, i) := by
  have hpassed : (a.zipIdx start).find? (fun x => eligible c x.1) = none :=
    List.find?_eq_none.mpr fun x hx => ha x.1 (List.fst_mem_of_mem_zipIdx hx)
  rw [searchFrom, drop_zipIdx, h, List.zipIdx_append, List.find?_append, hpassed, Option.none_or, List.zipIdx_cons]
  simp [hi]

theorem searchFrom_none {c : Carousel} {start : Nat} (h : ∀ j ∈ c.cycle.drop start, ¬eligible c j = true) :
    searchFrom c start = none := by
  rw [searchFrom, drop_zipIdx, List.find?_eq_none.mpr fun x hx => h x.1 (List.fst_mem_of_mem_zipIdx hx)]
  rfl

/-- Where the search goes on in the list held. -/
def searchStart (c : Carousel) : Nat := c.position.elim 0 (· + 1)

theorem findNext_found {c : Carousel} {x : Nat × SlotIx} (h : searchFrom c (searchStart c) = some x) :
    findNext c = (c, some x) := by
  unfold searchStart at h
  rw [findNext, h]

theorem findNext_rebuilds {c : Carousel} (h : searchFrom c (searchStart c) = none) :
    findNext c = (buildCycle c, searchFrom (buildCycle c) 0) := by
  unfold searchStart at h
  rw [findNext, h]

/-- In a list just built the search has the same end as in one run out. -/
theorem findNext_buildCycle (c : Carousel) : findNext (buildCycle c) = (buildCycle c, searchFrom (buildCycle c) 0) := by
  have hstart : searchStart (buildCycle c) = 0 := by rw [buildCycle_eq]; rfl
  cases hsearch : searchFrom (buildCycle c) 0 with
  | some x => exact findNext_found (by rw [hstart, hsearch])
  | none => rw [findNext_rebuilds (by rw [hstart, hsearch]), buildCycle_buildCycle, hsearch]

/-! ### A request for a cell (R126) -/

/-- The message of entry `x`, its place in the list and its slot, becomes the current transmission. -/
def begun (x : Nat × SlotIx) (c : Carousel) : Carousel :=
  { c with position := some x.1, current := some ⟨x.2, 0⟩ }

section
variable {cadence : Nat} {c : Carousel}

theorem requestText_withheld (h : c.held = true ∨ c.gap < cadence) : requestText cadence c = (c, none) :=
  if_pos (by simpa using h)

variable (hheld : c.held = false) (hgap : cadence ≤ c.gap)
include hheld hgap

theorem requestText_current {t : TextTurn} (h : c.current = some t) :
    requestText cadence c = ((giveCell t c).1, some (giveCell t c).2) := by
  rw [requestText, if_neg (by simp [hheld, hgap]), h]

theorem requestText_of_found {d : Carousel} {x : Nat × SlotIx} (h : c.current = none)
    (hfind : findNext c = (d, some x)) : requestText cadence c =
      ((giveCell ⟨x.2, 0⟩ (begun x d)).1, some (giveCell ⟨x.2, 0⟩ (begun x d)).2) := by
  rw [requestText, if_neg (by simp [hheld, hgap]), h, hfind]
  rfl

theorem requestText_of_nothing {d : Carousel} (h : c.current = none) (hfind : findNext c = (d, none)) :
    requestText cadence c = (d, none) := by
  rw [requestText, if_neg (by simp [hheld, hgap]), h, hfind]

/-- The message found begins. -/
theorem requestText_begins {x : Nat × SlotIx} (h : c.current = none) (hfound : searchFrom c (searchStart c) = some x) :
    requestText cadence c = requestText cadence (begun x c) := by
  rw [requestText_of_found hheld hgap h (findNext_found hfound), requestText_current (c := begun x c) hheld hgap rfl]

/-- With a list run out, the request is one of the list built anew. -/
theorem requestText_rebuilds (h : c.current = none) (hnone : searchFrom c (searchStart c) = none) :
    requestText cadence c = requestText cadence (buildCycle c) := by
  have hold := findNext_rebuilds hnone
  have hnew := findNext_buildCycle c
  cases hsearch : searchFrom (buildCycle c) 0 with
  | none =>
    rw [hsearch] at hold hnew
    rw [requestText_of_nothing hheld hgap h hold, requestText_of_nothing (c := buildCycle c) hheld hgap h hnew]
  | some x =>
    rw [hsearch] at hold hnew
    rw [requestText_of_found hheld hgap h hold, requestText_of_found (c := buildCycle c) hheld hgap h hnew]

/-- With no ACTIVE slot there is nothing to give. -/
theorem requestText_none_active (h : c.current = none) (hnone : searchFrom c (searchStart c) = none)
    (hslots : ∀ i : SlotIx, c.slots[i].state ≠ .active) : requestText cadence c = (buildCycle c, none) := by
  have hsearch : searchFrom (buildCycle c) 0 = none := by
    refine searchFrom_none ?_
    rw [buildCycle_eq]
    simp [cycleRound_of_none_active hslots]
  rw [requestText_of_nothing hheld hgap h (hsearch ▸ findNext_rebuilds hnone)]

end

theorem giveCell_cell (t : TextTurn) (c : Carousel) :
    (giveCell t c).2 = textCell t.slot.val c.slots[t.slot].toggle c.slots[t.slot].text t.next := by
  unfold giveCell
  dsimp only
  split_ifs <;> rfl

section
variable {t : TextTurn} {c : Carousel}

/-- A segment that is not the last: the transmission goes on. -/
theorem giveCell_goes_on (h : ¬segmentCount c.slots[t.slot].text ≤ t.next + 1) : (giveCell t c).1 = { c with
    gap := 0, current := some ⟨t.slot, t.next + 1⟩, counters.cells := bump c.counters.cells } := by
  unfold giveCell
  dsimp only
  rw [if_neg h]

/-- The last segment completes the transmission and sets the hold. -/
theorem giveCell_completes (h : segmentCount c.slots[t.slot].text ≤ t.next + 1) : (giveCell t c).1 = { c with
    gap := 0, current := none, holdCount := c.slots[t.slot].hold
    slots := if c.slots[t.slot].state = .expiring then c.slots.set t.slot (.empty c.slots[t.slot].toggle) else c.slots
    counters := { c.counters with
      cells := bump c.counters.cells, completions := bump c.counters.completions } } := by
  unfold giveCell
  dsimp only
  rw [if_pos h]
  rfl

end

/-! ### The alert carousel (R129) -/

theorem requestAlert_none (a : AlertCarousel) : requestAlert none a = ({ a with message := none }, []) := rfl

/-- The pointer behind segment `i` of a text: the first segment again behind the last. -/
theorem giveAlertCell_eq (text : List Byte) (a : AlertCarousel) : giveAlertCell text a =
    ({ a with pointer := if (text.length + 15) / 16 ≤ a.pointer + 1 then 0 else a.pointer + 1, cells := bump a.cells },
      textCell 0 a.toggle text a.pointer) := rfl

theorem supplyAlert_some (x : AlertMessage) (a : AlertCarousel) :
    let same := decide (a.message = some x)
    supplyAlert (some x) a = { a with
      message := some x, toggle := if same then a.toggle else !a.toggle, pointer := if same then a.pointer else 0
      replacements := if same then a.replacements else bump a.replacements } := by
  intro same
  by_cases h : a.message = some x
  · have hsame : same = true := decide_eq_true h
    rw [show supplyAlert (some x) a = a from if_pos h, hsame, ← h]
    rfl
  · have hother : same = false := decide_eq_false h
    rw [hother]
    exact if_neg h

end Sys2Proof.Machine
end

section
/-! PROOFS. The turns of pictures: the selection of an object, its segments and the end of its turn (R144, R145). -/

namespace Sys2Proof.Machine

/-! ### The selection (R144) -/

/-- R144's order of positions as a key. -/
def positionKey (p : Nat × ObjectId) : ℕ ×ₗ ℕ := toLex (p.1, p.2.toNat)

theorem pairBefore_iff (a b : Nat × ObjectId) :
    pairBefore a b = true ↔ a.1 < b.1 ∨ (a.1 = b.1 ∧ a.2.toNat < b.2.toNat) := by
  simp [pairBefore]

theorem pairBefore_iff_key (a b : Nat × ObjectId) : pairBefore a b = true ↔ positionKey a < positionKey b := by
  rw [pairBefore_iff, positionKey, positionKey, Prod.Lex.toLex_lt_toLex]

theorem smallest_eq_argmin (l : List PicRecord) : smallest l = l.argmin (fun x => positionKey (pairOf x)) := by
  unfold smallest List.argmin
  congr 1
  funext acc r
  cases acc with
  | none => rfl
  | some a => simp only [List.argAux, pairBefore_iff_key]

theorem smallest_eq_none_iff (l : List PicRecord) : smallest l = none ↔ l = [] := by
  rw [smallest_eq_argmin, List.argmin_eq_none]

theorem smallest_mem {l : List PicRecord} {x : PicRecord} (h : smallest l = some x) : x ∈ l := by
  rw [smallest_eq_argmin] at h
  exact List.argmin_mem h

theorem smallest_least {l : List PicRecord} {x y : PicRecord} (h : smallest l = some x) (hy : y ∈ l) :
    ¬pairBefore (pairOf y) (pairOf x) = true := by
  rw [smallest_eq_argmin] at h
  rw [pairBefore_iff_key]
  exact List.not_lt_of_mem_argmin (f := fun x => positionKey (pairOf x)) hy h

/-- The objects that a request may select. -/
def readyObjects (k : ServiceIx) (closed : List ObjectId) (s : State) : List PicRecord :=
  s.pic.table.filter (fun r => r.service = k && r.state = .ready && !closed.contains r.id)

/-- Of those, the ones behind the last position. -/
def readyBehind (k : ServiceIx) (closed : List ObjectId) (l : Nat × ObjectId) (s : State) : List PicRecord :=
  (readyObjects k closed s).filter (fun r => pairBefore l (pairOf r))

section
variable {k : ServiceIx} {closed : List ObjectId} {s : State}

theorem mem_readyObjects (y : PicRecord) : y ∈ readyObjects k closed s ↔
    y ∈ s.pic.table ∧ y.service = k ∧ y.state = .ready ∧ y.id ∉ closed := by
  simp [readyObjects, and_assoc]

theorem mem_readyBehind {l : Nat × ObjectId} (y : PicRecord) : y ∈ readyBehind k closed l s ↔
    y ∈ readyObjects k closed s ∧ pairBefore l (pairOf y) = true := List.mem_filter

theorem selectNext_of_first (h : s.pic.carousels[k].last = none) :
    selectNext k closed s = smallest (readyObjects k closed s) := by
  rw [selectNext, h]
  rfl

theorem selectNext_of_last {l : Nat × ObjectId} (h : s.pic.carousels[k].last = some l) :
    selectNext k closed s = (smallest (readyBehind k closed l s)).or (smallest (readyObjects k closed s)) := by
  rw [selectNext, h]
  rfl

theorem selectNext_eq_none_iff : selectNext k closed s = none ↔ readyObjects k closed s = [] := by
  cases hl : s.pic.carousels[k].last with
  | none => rw [selectNext_of_first hl, smallest_eq_none_iff]
  | some l =>
    rw [selectNext_of_last hl, Option.or_eq_none_iff, smallest_eq_none_iff, smallest_eq_none_iff, readyBehind]
    exact ⟨And.right, fun h => ⟨by rw [h]; rfl, h⟩⟩

/-- The object selected is the first behind the last position; with none there, the first of all. -/
theorem selectNext_cases {x : PicRecord} (h : selectNext k closed s = some x) :
    (∃ l, s.pic.carousels[k].last = some l ∧ smallest (readyBehind k closed l s) = some x) ∨
    (smallest (readyObjects k closed s) = some x ∧
      ∀ l, s.pic.carousels[k].last = some l → readyBehind k closed l s = []) := by
  cases hl : s.pic.carousels[k].last with
  | none =>
    rw [selectNext_of_first hl] at h
    exact .inr ⟨h, by rintro l ⟨⟩⟩
  | some l =>
    rw [selectNext_of_last hl] at h
    obtain hbehind | ⟨hnone, hfirst⟩ := Option.or_eq_some_iff.mp h
    · exact .inl ⟨l, rfl, hbehind⟩
    · refine .inr ⟨hfirst, fun m hm => ?_⟩
      obtain rfl := Option.some.inj hm
      exact (smallest_eq_none_iff _).mp hnone

theorem selectNext_mem {x : PicRecord} (h : selectNext k closed s = some x) : x ∈ readyObjects k closed s := by
  obtain ⟨l, -, hbehind⟩ | ⟨hfirst, -⟩ := selectNext_cases h
  · exact ((mem_readyBehind x).mp (smallest_mem hbehind)).1
  · exact smallest_mem hfirst

/-- An object passed over though its position comes first is not behind the last position, and the one selected is. -/
theorem selectNext_passes {x y : PicRecord} (h : selectNext k closed s = some x) (hy : y ∈ readyObjects k closed s)
    (hyx : pairBefore (pairOf y) (pairOf x) = true) :
    ∃ l, s.pic.carousels[k].last = some l ∧ pairBefore l (pairOf x) = true ∧ ¬pairBefore l (pairOf y) = true := by
  obtain ⟨l, hl, hbehind⟩ | ⟨hfirst, -⟩ := selectNext_cases h
  · exact ⟨l, hl, ((mem_readyBehind x).mp (smallest_mem hbehind)).2,
      fun hly => smallest_least hbehind ((mem_readyBehind y).mpr ⟨hy, hly⟩) hyx⟩
  · exact absurd hyx (smallest_least hfirst hy)

/-- An object selected that is not behind the last position: none is. -/
theorem selectNext_wraps {x y : PicRecord} {l : Nat × ObjectId} (h : selectNext k closed s = some x)
    (hl : s.pic.carousels[k].last = some l) (hx : ¬pairBefore l (pairOf x) = true)
    (hy : y ∈ readyObjects k closed s) : ¬pairBefore l (pairOf y) = true := by
  obtain ⟨m, hm, hbehind⟩ | ⟨-, hnone⟩ := selectNext_cases h
  · obtain rfl := Option.some.inj (hm.symm.trans hl)
    exact absurd ((mem_readyBehind x).mp (smallest_mem hbehind)).2 hx
  · exact fun hly => List.not_mem_nil (hnone l hl ▸ (mem_readyBehind y).mpr ⟨hy, hly⟩)

end

/-! ### A service's object in the table -/

theorem isObject_iff (k : ServiceIx) (o : ObjectId) (y : PicRecord) :
    isObject k o y = true ↔ y.service = k ∧ y.id = o := by simp [isObject]

/-- The first record of the table for service `k` and its id is `x`, behind `before`. -/
structure ObjectAt (k : ServiceIx) (before : List PicRecord) (x : PicRecord) (after : List PicRecord) (s : State) :
    Prop where
  table   : s.pic.table = before ++ x :: after
  service : x.service = k
  first   : ∀ y ∈ before, ¬(y.service = k ∧ y.id = x.id)

section
variable {k : ServiceIx} {a b : List PicRecord} {x : PicRecord} {s : State} (h : ObjectAt k a x b s)
include h

theorem ObjectAt.not_before (y : PicRecord) (hy : y ∈ a) : isObject k x.id y = false := by
  rw [← Bool.not_eq_true, isObject_iff]
  exact h.first y hy

theorem ObjectAt.isObject : isObject k x.id x = true := (isObject_iff k x.id x).mpr ⟨h.service, rfl⟩

theorem ObjectAt.find : findObject k x.id s = some x := by
  rw [findObject, h.table, List.find?_append, List.find?_eq_none.mpr (fun y hy => by simp [h.not_before y hy]),
    Option.none_or, List.find?_cons_of_pos h.isObject]

theorem ObjectAt.modify (f : PicRecord → PicRecord) :
    modifyObject k x.id f s = { s with pic := { s.pic with table := a ++ f x :: b } } := by
  rw [modifyObject, h.table, modifyFirst_append _ _ _ _ _ h.not_before h.isObject]

end

/-! ### One cell of the object on air (R144, R145) -/

/-- The closing segment of an object whose repeats are spent, or which expires: it is retired. -/
theorem giveSegment_retires {k : ServiceIx} {x : PicRecord} {s : State} (hp : dataSegments x ≤ x.pointer)
    (hspent : (x.repeats ≠ 0 ∧ min (x.done + 1) 255 = x.repeats) ∨ x.expiring = true) : giveSegment k x s =
    ({ s with pic := { s.pic with
        table := s.pic.table.filter (fun y => !(y.service = k && y.id = x.id))
        carousels := modifyAt s.pic.carousels k (fun c => { c with current := none, counters := { c.counters with
          cells := bump c.counters.cells, completions := bump c.counters.completions
          retirements := bump c.counters.retirements } }) } },
      closingCell x, true) := by
  unfold giveSegment
  dsimp only
  rw [if_neg (not_lt.mpr hp), endTurn, if_pos (by simpa [upTo] using hspent)]
  simp only [countPic, modifyPicCarousel, removeObject, modifyAt_modifyAt]
  rfl

section
variable {k : ServiceIx} {a b : List PicRecord} {x : PicRecord} {s : State} (h : ObjectAt k a x b s)
include h

/-- A data segment: the pointer goes on. -/
theorem giveSegment_data (hp : x.pointer < dataSegments x) : giveSegment k x s =
    ({ s with pic := { s.pic with
        table := a ++ { x with pointer := x.pointer + 1 } :: b
        carousels := modifyAt s.pic.carousels k (fun c => { c with counters.cells := bump c.counters.cells }) } },
      dataCell s.pic.memory x x.pointer, false) := by
  have hcounted : ObjectAt k a x b (countPic k (fun c => { c with cells := bump c.cells }) s) :=
    ⟨h.table, h.service, h.first⟩
  unfold giveSegment
  dsimp only
  rw [if_pos hp, hcounted.modify]
  rfl

/-- The closing segment of an object that is shown again: it is READY. -/
theorem giveSegment_closing (hp : dataSegments x ≤ x.pointer)
    (hkept : ¬((x.repeats ≠ 0 ∧ min (x.done + 1) 255 = x.repeats) ∨ x.expiring = true)) : giveSegment k x s =
    ({ s with pic := { s.pic with
        table := a ++ { x with state := .ready, pointer := 0, done := min (x.done + 1) 255 } :: b
        carousels := modifyAt s.pic.carousels k (fun c => { c with current := none, counters := { c.counters with
          cells := bump c.counters.cells, completions := bump c.counters.completions } }) } },
      closingCell x, true) := by
  have hcounted : ObjectAt k a x b (modifyPicCarousel k (fun c =>
      { c with current := none, counters.completions := bump c.counters.completions })
      (countPic k (fun c => { c with cells := bump c.cells }) s)) := ⟨h.table, h.service, h.first⟩
  unfold giveSegment
  dsimp only
  rw [if_neg (not_lt.mpr hp), endTurn, if_neg (by simpa [upTo] using hkept), hcounted.modify]
  simp only [countPic, modifyPicCarousel_modifyPicCarousel]
  rfl

/-- The object selected is on air, and the first cell of its turn is its first segment. -/
theorem giveSegment_beginTurn (hsize : 0 < x.size) :
    giveSegment k { x with state := .onAir, pointer := 0 } (beginTurn k x s) =
    ({ s with pic := { s.pic with
        table := a ++ { x with state := .onAir, pointer := 1 } :: b
        carousels := modifyAt s.pic.carousels k (fun c => { c with
          current := some x.id, last := some (x.order, x.id), counters.cells := bump c.counters.cells }) } },
      dataCell s.pic.memory x 0, false) := by
  have hpositioned : ObjectAt k a x b
      (modifyPicCarousel k (fun c => { c with current := some x.id, last := some (pairOf x) }) s) :=
    ⟨h.table, h.service, h.first⟩
  have hbegun : ObjectAt k a { x with state := .onAir, pointer := 0 } b (beginTurn k x s) :=
    ⟨by rw [beginTurn, hpositioned.modify], h.service, h.first⟩
  have hsegments : 0 < dataSegments x := by
    have : dataSegments x = (x.size + 15) / 16 := rfl
    omega
  rw [giveSegment_data hbegun hsegments, beginTurn, hpositioned.modify]
  simp only [modifyPicCarousel, modifyAt_modifyAt]
  rfl

end

/-! ### A request for one cell (R144) -/

section
variable {k : ServiceIx} {x : PicRecord} {s : State}

theorem requestPictures_one_of_current (hc : s.pic.carousels[k].current = some x.id)
    (hx : findObject k x.id s = some x) :
    requestPictures k 1 [] s = ((giveSegment k x s).1, [(giveSegment k x s).2.1]) := by
  rw [requestPictures, hc, Option.bind_some, hx]
  rfl

theorem requestPictures_one_of_selected (hc : s.pic.carousels[k].current = none) (hx : selectNext k [] s = some x) :
    requestPictures k 1 [] s =
      ((giveSegment k { x with state := .onAir, pointer := 0 } (beginTurn k x s)).1,
        [(giveSegment k { x with state := .onAir, pointer := 0 } (beginTurn k x s)).2.1]) := by
  rw [requestPictures, hc, Option.bind_none, hx]
  rfl

end

end Sys2Proof.Machine
end

section
/-! PROOFS. The seal, the side part and the turns of the carousels together (R85, R95 to R97, R124 to R145). -/

namespace Sys2Proof.Machine

/-- Settles O59: the seal by the `sealAudio_` and `sealSide_` lemmas, the side part by `fillSide_length`, texts by the
`requestText_` and `giveCell_` lemmas, pictures by `selectNext_cases` and the `giveSegment_` lemmas, the alert carousel
by `supplyAlert_some`. -/
theorem payloadSizes : Obligations.PayloadSizes := by
  unfold Obligations.PayloadSizes
  refine ⟨?parts, fillSide_length, fillSide_zero, requestPictures_cells, textCell_length,
    fun cadence c => ⟨requestText_withheld, ?text, ?search⟩, ?selection, ?pictures,
    fun m x i j hj => byteAt_dataCell m x i hj, requestAlert_none, ?alert⟩
  case parts =>
    intro h e x g
    have haudio : ∀ p : List Byte × SealFlag × HoldRecord, sealAudio e g = p →
        x.audio = p.1 ∧ x.flag = p.2.1 ∧ x.record = p.2.2 := by
      rintro p rfl
      exact ⟨rfl, rfl, rfl⟩
    have hside : ∀ p : List Byte × Bool, sealSide e = p → x.side = p.1 ∧ x.filled = p.2 := by
      rintro p rfl
      exact ⟨rfl, rfl⟩
    exact ⟨fun a ha hr => haudio _ (sealAudio_good g hr ha),
      fun a hf hr hg hlen hn => haudio _ (sealAudio_repeated hr hf hg hlen hn),
      fun hf hr hg => haudio _ (sealAudio_muted hr hf hg), fun hr => haudio _ (sealAudio_of_zero g hr),
      fun c hc => hside _ (sealSide_good hc), fun hf => hside _ (sealSide_fills hf), sealAudio_length g,
      sealSide_length⟩
  case text =>
    intro t hheld hgap hcurrent y last
    refine ⟨(giveCell t c).1, ?_, fun hlast => giveCell_goes_on hlast, fun hlast => giveCell_completes hlast⟩
    rw [requestText_current hheld hgap hcurrent, giveCell_cell]
  case search =>
    intro hheld hgap hcurrent open_ start rebuilt
    have hstart : searchStart c = start := by
      simp only [searchStart, start]
      cases c.position <;> rfl
    have hopen : ∀ i, eligible c i = true ↔ open_ i := eligible_iff c
    have hrebuilt : buildCycle c = rebuilt := buildCycle_eq c
    rw [← hstart, ← hrebuilt]
    refine ⟨fun a b i hlist ha hi => ?_, fun hnone => ?_⟩
    · have hfound := searchFrom_found hlist (fun j hj => mt (hopen j).mp (ha j hj)) ((hopen i).mpr hi)
      rw [requestText_begins hheld hgap hcurrent hfound]
      rfl
    · have hsearch : searchFrom c (searchStart c) = none := searchFrom_none fun j hj => mt (hopen j).mp (hnone j hj)
      exact ⟨requestText_rebuilds hheld hgap hcurrent hsearch, requestText_none_active hheld hgap hcurrent hsearch⟩
  case selection =>
    intro k closed s ready before
    have hready : ∀ y, y ∈ readyObjects k closed s ↔ ready y := mem_readyObjects
    have hbefore : ∀ p q, pairBefore p q = true ↔ before p q := pairBefore_iff
    simp only [← hready, ← hbefore]
    exact ⟨selectNext_eq_none_iff.trans List.eq_nil_iff_forall_not_mem, fun x hx => ⟨selectNext_mem hx,
      fun y hy hyx => selectNext_passes hx hy hyx, fun l y hl hlx hy => selectNext_wraps hx hl hlx hy⟩⟩
  case pictures =>
    intro k s a b x htable hservice hfirst c cells
    have hat : ObjectAt k a x b s := ⟨htable, hservice, hfirst⟩
    refine ⟨fun hc hp => ?_, fun hc hp => ?_, fun hc hx hsize => ?_⟩
    · rw [requestPictures_one_of_current hc hat.find, giveSegment_data hat hp]
      rfl
    · intro turns spent ended
      refine ⟨fun hkept => ?_, fun hspent => ?_⟩
      · rw [requestPictures_one_of_current hc hat.find, giveSegment_closing hat hp hkept]
        rfl
      · rw [requestPictures_one_of_current hc hat.find, giveSegment_retires hp hspent, htable]
        rfl
    · rw [requestPictures_one_of_selected hc hx, giveSegment_beginTurn hat hsize]
      rfl
  case alert =>
    intro x a same toggle first next
    simp only [requestAlert, supplyAlert_some, giveAlertCell_eq]
    rfl

end Sys2Proof.Machine
end

section
/-! PROOFS. A whole feed packet at a port that takes bytes: taken, standby, or nothing, and to whom a taken one goes
(R101, R104, R107, R108). -/

namespace Sys2Proof.Machine

/-! ### The commands of the ten kinds -/

@[simp] theorem feedKindOf_code (f : FeedKind) : feedKindOf f.code = some f := by cases f <;> rfl

/-- No kind has a body that is too long for a port (R103, R193). -/
theorem length_le_of_lengthOk {f : FeedKind} {n : Nat} (h : f.lengthOk n = true) : n ≤ 1920 := by
  cases f <;> simp only [FeedKind.lengthOk, Bool.and_eq_true, beq_iff_eq, decide_eq_true_eq] at h <;> omega

theorem exec_feedCommand {s r : State} (h : settle s = r) (f : FeedKind) (p : PortId) (body : List Byte) :
    exec (feedCommand f p body) s = .next (feedPacket p f.code body r) := by
  subst h
  cases f <;> rfl

section
variable {s r : State} {f : FeedKind} {p : PortId} {body : List Byte}

theorem portTakes_of_locked (hu : r.pvw.unit.running = true) (hl : r.sin.ports[p].state = .locked) :
    portTakes r p = true := portTakes_iff.mpr ⟨hu, by rw [hl]; decide⟩

theorem feedPacket_of_closed (h : portTakes r p = false) (code : Byte) : feedPacket p code body r = r :=
  if_pos (by simp [h])

/-- A packet of its kind's length at a LOCKED port makes the port active and renews its lock (R103, R105). -/
theorem feedPacket_of_locked (hu : r.pvw.unit.running = true) (hl : r.sin.ports[p].state = .locked)
    (hn : f.lengthOk body.length = true) : feedPacket p f.code body r =
      wellFormedFeed p f body (modifyPort p (fun x => { x with active := true, failures := 0, nextKnown := true }) r) := by
  unfold feedPacket
  rw [if_neg (by simp [portTakes_of_locked hu hl]), if_neg (Nat.not_lt.mpr (length_le_of_lengthOk hn)), hl]
  dsimp only
  unfold goodFeed
  rw [feedKindOf_code, modifyPort_modifyPort]
  exact if_pos hn

theorem wellFormedFeed_of_unused (h : inUse r p = false) : wellFormedFeed p f body r =
    modifyPort p (fun x => { x with counters.standby := bumpKind f x.counters.standby }) r :=
  if_neg (by simp [h])

/-- A packet that is taken is counted by its kind, and handed on by its port's role (R107, R108). -/
theorem exec_feedTaken (hs : settle s = r) (h : FeedTaken f p body r) :
    exec (feedCommand f p body) s = .next (dispatchFeed p f body (tookFeed f p r)) := by
  rw [exec_feedCommand hs, feedPacket_of_locked h.running h.locked h.length]
  unfold wellFormedFeed countPort
  rw [if_pos (by exact h.inUse), modifyPort_modifyPort]
  rfl

/-! ### To whom a taken packet goes -/

theorem dispatchFeed_alert (h : roleOf r p = .alert) : dispatchFeed p f body r = forAlert p f body r := by
  unfold dispatchFeed
  rw [h]

theorem dispatchFeed_service {k : ServiceIx} (h : FeedsService p k r) :
    dispatchFeed p f body r = forService k p f body r := by
  unfold dispatchFeed
  obtain h | h := h
  all_goals rw [h]; simp [ixOf]

/-- A port in use is the ALERT port or feeds a service (R107). -/
theorem role_of_inUse (h : inUse r p = true) : roleOf r p = .alert ∨ ∃ k, FeedsService p k r := by
  have hix : ∀ {n : Nat} {q : ServiceIx → Bool}, (ixOf n).any q = true → ∃ k : ServiceIx, n = k.val := by
    intro n q hq
    unfold ixOf at hq
    split at hq
    · exact ⟨⟨n, ‹_›⟩, rfl⟩
    · cases hq
  unfold inUse at h
  split at h
  · exact .inl ‹_›
  · obtain ⟨k, rfl⟩ := hix h
    exact .inr ⟨k, .inl ‹_›⟩
  · obtain ⟨k, rfl⟩ := hix h
    exact .inr ⟨k, .inr ‹_›⟩
  · cases h

/-- FILL is handed to no block (R108). -/
theorem dispatchFeed_fill (h : inUse r p = true) : dispatchFeed p .fill body r = fillPacket p r := by
  obtain h | ⟨k, h⟩ := role_of_inUse h
  · rw [dispatchFeed_alert h]; rfl
  · rw [dispatchFeed_service h]; rfl

theorem forAlert_misplaced (ha : f ≠ .audio) (hr : f ≠ .alertReq) (hc : f ≠ .alertClear) (hf : f ≠ .fill) :
    forAlert p f body r = misplaced p f r := by
  cases f with
  | audio => exact absurd rfl ha
  | alertReq => exact absurd rfl hr
  | alertClear => exact absurd rfl hc
  | fill => exact absurd rfl hf
  | textSet | textClear | picBegin | picData | picEnd | picDelete => rfl

theorem forService_misplaced (k : ServiceIx) (h : f = .alertReq ∨ f = .alertClear) :
    forService k p f body r = misplaced p f r := by
  obtain rfl | rfl := h <;> rfl

end

/-- Settles O39: each clause is the packet's way through `feedPacket_of_locked`, `exec_feedTaken` and the port's role. -/
theorem fillStandbyMisplacedOutcome : Obligations.FillStandbyMisplacedOutcome := by
  unfold Obligations.FillStandbyMisplacedOutcome
  refine ⟨?standby, ?fill, ?misplaced, ?closed⟩
  case standby =>
    intro s r f p body hs hu hl hn hidle x
    rw [exec_feedCommand hs, feedPacket_of_locked hu hl hn, wellFormedFeed_of_unused (by exact hidle),
      modifyPort_modifyPort]
    rfl
  case fill =>
    intro s r p body hs h q x
    have hexec : exec (.fill p body) s = .next (dispatchFeed p .fill body q) := exec_feedTaken hs h
    rw [hexec, dispatchFeed_fill (by exact h.inUse)]
    rfl
  case misplaced =>
    intro s r f p k body hs h hrole q x
    rw [exec_feedTaken hs h]
    obtain ⟨halert, hkinds⟩ | ⟨hservice, hkinds⟩ := hrole
    · obtain ⟨ha, hr, hc, hf⟩ := hkinds
      rw [dispatchFeed_alert (by exact halert), forAlert_misplaced ha hr hc hf]
      rfl
    · rw [dispatchFeed_service (k := k) (by exact hservice), forService_misplaced k hkinds]
      rfl
  case closed =>
    intro s r f p body hs h
    have hclosed : portTakes r p = false := by
      rw [Bool.eq_false_iff, ne_eq, portTakes_iff]
      rintro ⟨hu, hd⟩
      obtain h | h | h := h
      · rw [h] at hu; cases hu
      · rw [h] at hu; cases hu
      · exact hd h
    rw [exec_feedCommand hs, feedPacket_of_closed hclosed]

end Sys2Proof.Machine
end

section
/-! PROOFS. AUDIO: the audio queues of the services and of the alert feed (R112 to R114). -/

namespace Sys2Proof.Machine

theorem modifyIntake_congr {k : ServiceIx} {f g : Intake → Intake} {s : State}
    (h : f s.sin.services[k] = g s.sin.services[k]) : modifyIntake k f s = modifyIntake k g s := by
  unfold modifyIntake modifyAt
  rw [h]

theorem pushUnit_of_room {u : List Byte} {q : List (List Byte)} (h : q.length < 16) : pushUnit u q = q ++ [u] :=
  if_pos h

theorem pushUnit_of_full {u : List Byte} {q : List (List Byte)} (h : 16 ≤ q.length) :
    pushUnit u q = q.drop 1 ++ [u] := if_neg (by omega)

/-! ### A service's queue (R112, R113) -/

section
variable {k : ServiceIx} {d : ServiceDef} {body : List Byte} {s : State} (hd : serviceDef s k = some d)
include hd

theorem takeAudioFor_refused (hn : body.length ≠ 5 * d.audioRate) : takeAudioFor k body s =
    modifyIntake k (fun x => { x with counters.lengthRefusals := bump x.counters.lengthRefusals }) s := by
  unfold takeAudioFor
  rw [hd]
  exact if_pos hn

theorem takeAudioFor_room (hn : body.length = 5 * d.audioRate) (hq : s.sin.services[k].queue.length < 16) :
    takeAudioFor k body s = modifyIntake k (fun x =>
      { x with queue := x.queue ++ [body], counters.accepted := bump x.counters.accepted }) s := by
  have hroom : ¬16 ≤ s.sin.services[k].queue.length := by omega
  unfold takeAudioFor
  simp only [hd, hn, ne_eq, not_true_eq_false, if_false, hroom, decide_false, bumpBy_bit, Bool.false_eq_true]
  exact modifyIntake_congr (by rw [pushUnit_of_room hq])

theorem takeAudioFor_full (hn : body.length = 5 * d.audioRate) (hq : 16 ≤ s.sin.services[k].queue.length) :
    takeAudioFor k body s = raiseFlag .overrun (modifyIntake k (fun x =>
      { x with
        queue := x.queue.drop 1 ++ [body]
        counters := { x.counters with
          accepted := bump x.counters.accepted, overruns := bump x.counters.overruns } }) s) := by
  unfold takeAudioFor
  simp only [hd, hn, ne_eq, not_true_eq_false, if_false, hq, decide_true, bumpBy_bit, if_true]
  exact congrArg _ (modifyIntake_congr (by rw [pushUnit_of_full hq]))

end

/-! ### The alert queue (R114) -/

section
variable {i : Image} {body : List Byte} {s : State} (hi : s.cfl.image = some i)
include hi

theorem takeAlertAudio_refused (h : ¬(i.alertAudioRate ≠ 0 ∧ body.length = 5 * i.alertAudioRate)) :
    takeAlertAudio body s =
      { s with sin.alertCounters.lengthRefusals := bump s.sin.alertCounters.lengthRefusals } := by
  unfold takeAlertAudio
  rw [hi]
  exact if_pos (by simpa [imp_iff_not_or] using h)

/-- A unit of the right length: what a full queue loses is an overrun in a live alert, and aged otherwise. -/
theorem takeAlertAudio_fits (h : i.alertAudioRate ≠ 0 ∧ body.length = 5 * i.alertAudioRate) {full live : Bool}
    (hf : full = decide (16 ≤ s.sin.alertQueue.length)) (hl : live = isLive s.alc.localAlert.state) :
    takeAlertAudio body s =
      let c := s.sin.alertCounters
      let t := { s with sin := { s.sin with
        alertQueue := pushUnit body s.sin.alertQueue
        alertCounters := { c with
          accepted := bump c.accepted
          overruns := if full && live then bump c.overruns else c.overruns
          aged := if full && !live then bump c.aged else c.aged } } }
      if full && live then raiseFlag .overrun t else t := by
  subst hf hl
  simp only [takeAlertAudio, hi, Option.map_some, Option.getD_some, h.1, h.2, decide_false, ne_eq, not_true_eq_false,
    Bool.or_self, Bool.false_eq_true, if_false, bumpBy_bit]

end

theorem isLive_iff (x : LocalState) : isLive x = true ↔ x = .announced ∨ x = .on := by simp [isLive]

/-- Settles O33: `exec_feedTaken`, then the `takeAudioFor_` lemmas at a service's port and the `takeAlertAudio_` lemmas
at the ALERT port. -/
theorem audioOutcome : Obligations.AudioOutcome := by
  unfold Obligations.AudioOutcome
  refine ⟨?service, ?alert⟩
  case service =>
    intro s r p k d body hs h hport hd q x
    have hexec : exec (.audio p body) s = .next (takeAudioFor k body q) :=
      (exec_feedTaken hs h).trans (congrArg _ (dispatchFeed_service (by exact hport)))
    have hdef : serviceDef q k = some d := hd
    refine ⟨fun hn hq => ?_, fun hn hq => ?_, fun hn => ?_⟩
    · rw [hexec, takeAudioFor_room hdef hn (by exact hq)]
      rfl
    · rw [hexec, takeAudioFor_full hdef hn (by exact hq)]
      rfl
    · rw [hexec, takeAudioFor_refused hdef hn]
      rfl
  case alert =>
    intro s r p i body hs h himage hrole q c fits live
    have halert : roleOf q p = .alert := by
      show ((r.cfl.image.map (·.roles[p])).getD .unused) = .alert
      rw [himage]
      exact hrole
    have hexec : exec (.audio p body) s = .next (takeAlertAudio body q) :=
      (exec_feedTaken hs h).trans (congrArg _ (dispatchFeed_alert halert))
    have himg : q.cfl.image = some i := himage
    refine ⟨fun hn => ?_, fun hn hq => ?_, fun hn hq hlive => ?_, fun hn hq hlive => ?_⟩
    · rw [hexec, takeAlertAudio_refused himg hn]
      rfl
    · have hfull : false = decide (16 ≤ q.sin.alertQueue.length) := by
        exact (decide_eq_false (Nat.not_le.mpr hq)).symm
      rw [hexec, takeAlertAudio_fits himg hn hfull rfl, pushUnit_of_room (by exact hq)]
      rfl
    · have hfull : true = decide (16 ≤ q.sin.alertQueue.length) := (decide_eq_true hq).symm
      rw [hexec, takeAlertAudio_fits himg hn hfull ((isLive_iff _).mpr hlive).symm, pushUnit_of_full (by exact hq)]
      rfl
    · have hfull : true = decide (16 ≤ q.sin.alertQueue.length) := (decide_eq_true hq).symm
      have hdead : false = isLive q.alc.localAlert.state :=
        (Bool.eq_false_iff.mpr (mt (isLive_iff _).mp hlive)).symm
      rw [hexec, takeAlertAudio_fits himg hn hfull hdead, pushUnit_of_full (by exact hq)]
      rfl

end Sys2Proof.Machine
end

section
/-! PROOFS. The feed ports and the selection at a boundary: a port lost with its loads, a service that changes its port,
and the counts both rest on (R105, R109 to R111, R140, R154). -/

namespace Sys2Proof.Machine

/-! ### A port leaves LOCKED (R109) -/

/-- A main port of a service of the unit clears that service's up count; no other port does anything. -/
theorem unlockSeen_cases (p : PortId) (s : State) :
    (∃ k : ServiceIx, roleOf s p = .main k.val ∧
      unlockSeen p s = modifyIntake k (fun x => { x with mainUp := 0 }) s) ∨
    ((∀ k : ServiceIx, roleOf s p ≠ .main k.val) ∧ unlockSeen p s = s) := by
  by_cases h : ∃ k : ServiceIx, roleOf s p = .main k.val
  · obtain ⟨k, hk⟩ := h
    exact .inl ⟨k, hk, unlockSeen_main hk⟩
  · refine .inr ⟨not_exists.mp h, ?_⟩
    unfold unlockSeen
    split
    · rename_i n hn
      have hbig : ¬n < 5 := fun hlt => h ⟨⟨n, hlt⟩, hn⟩
      simp [onIntake, ixOf, hbig]
    · rfl

theorem unlockSeen_eq (p : PortId) (s : State) :
    unlockSeen p s = { s with sin.services := (unlockSeen p s).sin.services } := by
  obtain ⟨k, -, h⟩ | ⟨-, h⟩ := unlockSeen_cases p s
  · rw [h]; rfl
  · rw [h]

theorem unlockSeen_service (p : PortId) (s : State) (k : ServiceIx) : (unlockSeen p s).sin.services[k] =
    if roleOf s p = .main k.val then { s.sin.services[k] with mainUp := 0 } else s.sin.services[k] := by
  obtain ⟨j, hj, h⟩ | ⟨hno, h⟩ := unlockSeen_cases p s
  · rw [h, modifyIntake_services, hj]
    by_cases hk : k = j
    · subst hk
      rw [modifyAt_self, if_pos rfl]
    · have hne : PortRole.main j.val ≠ .main k.val := fun e => hk (Fin.ext (PortRole.main.inj e).symm)
      rw [modifyAt_other _ _ hk, if_neg hne]
  · rw [h, if_neg (hno k)]

/-! ### The loss notice to PIC (R140) -/

theorem bumpBy_bump (n k : Nat) : bumpBy (bump n) k = bumpBy n (k + 1) := by
  unfold bump bumpBy
  omega

/-- The carousels with one lost load counted for its service. -/
def countLostLoad (v : Vector PicCarousel 5) (r : PicRecord) : Vector PicCarousel 5 :=
  modifyAt v r.service (fun c => { c with counters.lostLoads := bump c.counters.lostLoads })

theorem foldl_countPic_lostLoads (l : List PicRecord) (s : State) :
    l.foldl (fun t r => countPic r.service (fun c => { c with lostLoads := bump c.lostLoads }) t) s =
      { s with pic.carousels := l.foldl countLostLoad s.pic.carousels } := by
  induction l generalizing s with
  | nil => rfl
  | cons r l ih => exact ih _

theorem foldl_countLostLoad (l : List PicRecord) (v : Vector PicCarousel 5) (k : ServiceIx) :
    (l.foldl countLostLoad v)[k] = { v[k] with
      counters.lostLoads := bumpBy v[k].counters.lostLoads (l.filter (fun y => y.service = k)).length } := by
  induction l generalizing v with
  | nil => rw [List.foldl_nil, List.filter_nil, List.length_nil, bumpBy_zero]
  | cons r l ih =>
    rw [List.foldl_cons, ih]
    unfold countLostLoad
    by_cases h : r.service = k
    · rw [h, modifyAt_self, List.filter_cons_of_pos (by simpa using h), List.length_cons, ← bumpBy_bump]
    · rw [modifyAt_other _ _ (Ne.symm h), List.filter_cons_of_neg (by simpa using h)]

/-- The loads of a port leave the table, each counted for its service; the flag is set if there was one. -/
theorem loseLoads_eq (p : PortId) (s : State) : loseLoads p s = { s with
    pic := { s.pic with
      table := s.pic.table.filter (fun y => !lostLoad p y)
      carousels := (s.pic.table.filter (lostLoad p)).foldl countLostLoad s.pic.carousels }
    sup := if s.pic.table.filter (lostLoad p) = [] then s.sup else supWith .picLoadFail s } := by
  unfold loseLoads
  dsimp only
  by_cases h : s.pic.table.filter (lostLoad p) = []
  · have hkeep : s.pic.table.filter (fun y => !lostLoad p y) = s.pic.table :=
      List.filter_eq_self.mpr fun y hy => by simpa using List.filter_eq_nil_iff.mp h y hy
    rw [if_pos (by simp [h]), if_pos h, h, hkeep]
    rfl
  · rw [if_neg (by simpa using h), if_neg h, foldl_countPic_lostLoads]
    rfl

/-! ### The loss notice to ALC (R154) -/

/-- A FEED mark that is not carried is cleared. -/
theorem alertFeedLost_eq (s : State) : alertFeedLost s = { s with alc := { s.alc with
    counters.feedLosses := bump s.alc.counters.feedLosses
    sources.feed.raised := s.alc.sources.feed.raised && s.alc.sources.feed.carried } } := by
  unfold alertFeedLost
  dsimp only
  split
  · rename_i h
    have hclear : (s.alc.sources.feed.raised && s.alc.sources.feed.carried) = false := by
      rw [Bool.and_eq_true, Bool.not_eq_true'] at h
      rw [h.2, Bool.and_false]
    rw [hclear]
    rfl
  · rename_i h
    have hkeep : (s.alc.sources.feed.raised && s.alc.sources.feed.carried) = s.alc.sources.feed.raised := by
      simpa using h
    rw [hkeep]

/-! ### FEED_LOST (R105) -/

/-- The port as its loss leaves it. -/
def lostPort (x : Port) : Port :=
  { x with state := .lost, huntCount := 0, held := [], failures := 0, nextKnown := false
           counters.losts := bump x.counters.losts }

/-- The loss of a port in its parts: SIN, PIC's table and carousels, ALC at the ALERT port, and the flags. -/
theorem losePort_eq (p : PortId) (t : State) : losePort p t = { t with
    sin := (unlockSeen p (modifyPort p lostPort t)).sin
    pic := (loseLoads p t).pic
    alc := if roleOf t p = .alert then (alertFeedLost t).alc else t.alc
    sup := (loseLoads p (raiseFlag .feedLost t)).sup } := by
  obtain ⟨x, hx⟩ : ∃ x : Sin, unlockSeen p (modifyPort p lostPort t) = { t with sin := x } := ⟨_, unlockSeen_eq p _⟩
  have hlose : losePort p t =
      let u := loseLoads p (raiseFlag .feedLost (unlockSeen p (modifyPort p lostPort t)))
      if roleOf t p = .alert then alertFeedLost u else u := rfl
  rw [hlose, hx]
  simp only [loseLoads_eq, alertFeedLost_eq]
  split
  · rfl
  · rfl

/-- Settles O40: FEED_LOST part by part from `losePort_eq`, the events from `runEvent_due`, and the counts of a boundary
as `testActivity` and `countSelection` give them. -/
theorem feedEventsOutcome : Obligations.FeedEventsOutcome := by
  unfold Obligations.FeedEventsOutcome
  refine ⟨?lost, ?switch, ?revert, ?activity, ?counts⟩
  case lost =>
    intro s t rest p hturn hu hidle hstate x lost
    have hexec : exec (.feedLost p) s = .next (advance rest (losePort p t)) :=
      congrArg _ (runEvent_due hturn ((due_feedLost_iff t p).mpr ⟨hu, hidle, hstate⟩))
    refine ⟨losePort p t, hexec, ?_⟩
    rw [losePort_eq, loseLoads_eq, loseLoads_eq]
    refine ⟨unlockSeen_ports p _, unlockSeen_service p _, ?_, rfl, rfl,
      foldl_countLostLoad lost t.pic.carousels, ?_, fun hrole => if_neg hrole, fun hrole => ?_, rfl⟩
    · rw [unlockSeen_eq]
      rfl
    · show (if lost = [] then (raiseFlag .feedLost t).sup else supWith .picLoadFail (raiseFlag .feedLost t)).flags = _
      split
      · exact BitVec.or_zero.symm
      · rfl
    · dsimp only
      rw [if_pos hrole, alertFeedLost_eq]
  case switch =>
    intro s t rest k p hturn hu hsel hdown hbackup hlocked x
    exact congrArg _ (runEvent_due hturn
      ((due_feedSwitch_iff t k).mpr ⟨hu, hsel, hdown, p, hbackup, hlocked⟩))
  case revert =>
    intro s t rest k hturn hu hsel hcause x
    exact congrArg _ (runEvent_due hturn ((due_feedRevert_iff t k).mpr ⟨hu, hsel, hcause⟩))
  case activity =>
    intro t p x
    have htakes : portTakes t p = true ↔ t.pvw.unit.running = true ∧ x.state ≠ .disabled := portTakes_iff
    show testActivity p t = _
    unfold testActivity
    simp only [htakes]
    rfl
  case counts =>
    intro t k x up
    show countSelection k t = _
    have hdown : (portLocked t (backupPort t k) || !(backupPort t k).isSome) = true ↔
        up (backupPort t k) = true ∨ backupPort t k = none := by
      rw [Bool.or_eq_true, Bool.not_eq_true', Option.isSome_eq_false_iff, Option.isNone_iff_eq_none]
      rfl
    unfold countSelection
    simp only [hdown]
    rfl

end Sys2Proof.Machine
end

section
/-! PROOFS. TEXT_SET and TEXT_CLEAR: the slot a packet names, the key test, and what each makes of the slot and of the
current transmission (R119 to R121, R127). -/

namespace Sys2Proof.Machine

/-- A carousel changes by what the change makes of it. -/
theorem modifyCarousel_of_eq {k : ServiceIx} {f : Carousel → Carousel} {c : Carousel} {s : State}
    (h : f s.txc.carousels[k] = c) :
    modifyCarousel k f s = { s with txc.carousels := s.txc.carousels.set k c } := by
  rw [← h]
  rfl

/-! ### The slot named, and the key test (R119) -/

section
variable {body : List Byte}

theorem textSlotOf_of_high (h : 7 < (byteAt body 0).toNat) : textSlotOf body = none := dif_neg (by omega)

theorem textSlotOf_of_slot {i : SlotIx} (h : (byteAt body 0).toNat = i.val) : textSlotOf body = some i := by
  have hlt : (byteAt body 0).toNat < 8 := h ▸ i.isLt
  unfold textSlotOf
  rw [dif_pos hlt]
  exact congrArg some (Fin.ext h)

end

theorem textRefused_iff (key : Nat) (x : TextSlot) :
    textRefused key x = true ↔ x.state ≠ .empty ∧ key ≠ 0 ∧ key ≠ x.key := by
  simp [textRefused, keyAllows]

/-! ### The transmission abandoned (R127) -/

section
variable {i : SlotIx} {c : Carousel}

theorem abandon_of_current (h : ∃ t, c.current = some t ∧ t.slot = i) :
    abandon i c = { c with current := none, counters.abandonments := bump c.counters.abandonments } :=
  if_pos (by simpa [Option.any_eq_true] using h)

theorem abandon_of_other (h : ¬∃ t, c.current = some t ∧ t.slot = i) : abandon i c = c :=
  if_neg (by simpa [Option.any_eq_true] using h)

end

/-! ### TEXT_SET (R120) -/

theorem clampWeight_eq (n : Nat) : clampWeight n = max 1 (min n 4) := by
  unfold clampWeight
  split <;> omega

/-- A weight or a hold is not stored as it came. -/
theorem clamps_iff (w h : Nat) :
    (clampWeight w != w || clampHold h != h) = true ↔ w = 0 ∨ 4 < w ∨ 250 < h := by
  rw [Bool.or_eq_true, bne_iff_ne, bne_iff_ne, clampWeight_eq, clampHold]
  omega

theorem storedText_eq (key : Nat) (body : List Byte) (x : TextSlot) : storedText key body x =
    { state := .active, text := (body.drop 5).map storedByte, weight := max 1 (min (byteAt body 1).toNat 4)
      hold := min (byteAt body 2).toNat 250, lifetime := beNat (slice body 3 2), remaining := beNat (slice body 3 2)
      toggle := !x.toggle, key := key, inList := decide (x.state ≠ .empty) && x.inList } := by
  have hlisted : (x.state != .empty && x.inList) = (decide (x.state ≠ .empty) && x.inList) := by
    rw [bne, beq_eq_decide, decide_not]
  rw [storedText, clampWeight_eq, hlisted]
  rfl

/-- The text stored fills the slot or replaces its record, and cuts the transmission of the record replaced. -/
theorem setText_eq (key : Nat) (body : List Byte) (i : SlotIx) (c : Carousel) :
    let x := c.slots[i]
    let w := (byteAt body 1).toNat
    let h := (byteAt body 2).toNat
    let cut : Prop := x.state ≠ .empty ∧ ∃ t, c.current = some t ∧ t.slot = i
    setText key body i c = { c with
      slots := c.slots.set i (storedText key body x)
      current := if cut then none else c.current
      counters := { c.counters with
        fills := if x.state = .empty then bump c.counters.fills else c.counters.fills
        replacements := if x.state = .empty then c.counters.replacements else bump c.counters.replacements
        abandonments := if cut then bump c.counters.abandonments else c.counters.abandonments
        substituted := bumpBy c.counters.substituted ((body.drop 5).countP textSubstituted)
        clamped := if w = 0 ∨ 4 < w ∨ 250 < h then bump c.counters.clamped else c.counters.clamped } } := by
  intro x w h cut
  unfold setText
  simp only [bumpBy_bit, clamps_iff, ← List.countP_eq_length_filter]
  by_cases hx : x.state = .empty
  · have hkept : ¬cut := fun hcut => hcut.1 hx
    rw [if_pos hx, if_pos hx, if_pos hx, if_neg hkept, if_neg hkept]
  · rw [if_neg hx, if_neg hx, if_neg hx]
    by_cases hcurrent : ∃ t, c.current = some t ∧ t.slot = i
    · have hcut : cut := ⟨hx, hcurrent⟩
      rw [abandon_of_current (by exact hcurrent), if_pos hcut, if_pos hcut]
    · have hkept : ¬cut := fun hcut => hcurrent hcut.2
      rw [abandon_of_other (by exact hcurrent), if_neg hkept, if_neg hkept]

section
variable {k : ServiceIx} {key : Nat} {body : List Byte} {s : State}

theorem takeTextSet_badSlot (h : 7 < (byteAt body 0).toNat) : takeTextSet k key body s = badSlot k s := by
  unfold takeTextSet
  rw [textSlotOf_of_high h]

variable {i : SlotIx} (hi : (byteAt body 0).toNat = i.val)
include hi

theorem takeTextSet_refused (h : textRefused key s.txc.carousels[k].slots[i] = true) :
    takeTextSet k key body s = refuseText k s := by
  unfold takeTextSet
  rw [textSlotOf_of_slot hi]
  exact if_pos h

theorem takeTextSet_stored (h : ¬textRefused key s.txc.carousels[k].slots[i] = true) :
    takeTextSet k key body s = modifyCarousel k (setText key body i) s := by
  unfold takeTextSet
  rw [textSlotOf_of_slot hi]
  exact if_neg h

end

/-! ### TEXT_CLEAR (R121) -/

section
variable {i : SlotIx} {c : Carousel}

theorem clearText_of_current (h : ∃ t, c.current = some t ∧ t.slot = i) : clearText i c = { c with
    slots := c.slots.set i (.empty c.slots[i].toggle), current := none
    counters := { c.counters with
      clears := bump c.counters.clears, abandonments := bump c.counters.abandonments } } := by
  unfold clearText
  rw [abandon_of_current h]
  rfl

theorem clearText_of_other (h : ¬∃ t, c.current = some t ∧ t.slot = i) : clearText i c = { c with
    slots := c.slots.set i (.empty c.slots[i].toggle), counters.clears := bump c.counters.clears } := by
  unfold clearText
  rw [abandon_of_other h]
  rfl

end

section
variable {k : ServiceIx} {key : Nat} {body : List Byte} {s : State}

theorem takeTextClear_badSlot (h : 7 < (byteAt body 0).toNat) : takeTextClear k key body s = badSlot k s := by
  unfold takeTextClear
  rw [textSlotOf_of_high h]

variable {i : SlotIx} (hi : (byteAt body 0).toNat = i.val)
include hi

theorem takeTextClear_empty (h : s.txc.carousels[k].slots[i].state = .empty) : takeTextClear k key body s =
    modifyCarousel k (fun c => { c with counters.emptyClears := bump c.counters.emptyClears }) s := by
  unfold takeTextClear
  rw [textSlotOf_of_slot hi]
  exact if_pos h

theorem takeTextClear_refused (h : textRefused key s.txc.carousels[k].slots[i] = true) :
    takeTextClear k key body s = refuseText k s := by
  obtain ⟨hx, -⟩ := (textRefused_iff _ _).mp h
  unfold takeTextClear
  rw [textSlotOf_of_slot hi]
  exact (if_neg hx).trans (if_pos h)

theorem takeTextClear_cleared (hx : s.txc.carousels[k].slots[i].state ≠ .empty)
    (h : ¬textRefused key s.txc.carousels[k].slots[i] = true) :
    takeTextClear k key body s = modifyCarousel k (clearText i) s := by
  unfold takeTextClear
  rw [textSlotOf_of_slot hi]
  exact (if_neg hx).trans (if_neg h)

end

/-- Settles O34: `exec_feedTaken`, then the `takeTextSet_` lemmas with `setText_eq`, and the `takeTextClear_` lemmas
with the two cases of `clearText`. -/
theorem textPacketsOutcome : Obligations.TextPacketsOutcome := by
  unfold Obligations.TextPacketsOutcome
  refine ⟨?set, ?clear⟩
  case set =>
    intro s r p k body hs htaken hport q c w h life bad
    have hexec : exec (.textSet p body) s = .next (takeTextSet k (keyOf q p) body q) :=
      (exec_feedTaken hs htaken).trans (congrArg _ (dispatchFeed_service (by exact hport)))
    refine ⟨fun hhigh => ?_, ?_⟩
    · rw [hexec, takeTextSet_badSlot hhigh]
      rfl
    intro i hi x current refused
    have hrefused : textRefused (keyOf q p) q.txc.carousels[k].slots[i] = true ↔ refused := textRefused_iff _ _
    refine ⟨fun hr => ?_, fun hr => ⟨setText (keyOf q p) body i c, ?_, ?_⟩⟩
    · rw [hexec, takeTextSet_refused hi (hrefused.mpr hr)]
      rfl
    · rw [hexec, takeTextSet_stored hi (mt hrefused.mp hr)]
      rfl
    · rw [setText_eq, storedText_eq]
      exact ⟨rfl, fun hc => if_pos hc, fun hc => if_neg hc, rfl, fun hx => ⟨if_pos hx, if_pos hx⟩,
        fun hx => ⟨if_neg hx, if_neg hx⟩, fun hc => if_pos hc, fun hc => if_neg hc, rfl, rfl⟩
  case clear =>
    intro s r p k b hs htaken hport q c
    have hexec : exec (.textClear p [b]) s = .next (takeTextClear k (keyOf q p) [b] q) :=
      (exec_feedTaken hs htaken).trans (congrArg _ (dispatchFeed_service (by exact hport)))
    refine ⟨fun hhigh => ?_, ?_⟩
    · rw [hexec, takeTextClear_badSlot (by exact hhigh)]
      rfl
    intro i hi x current
    have hrefused : textRefused (keyOf q p) q.txc.carousels[k].slots[i] = true ↔
        x.state ≠ .empty ∧ keyOf r p ≠ 0 ∧ keyOf r p ≠ x.key := textRefused_iff _ _
    have hcleared (hx : x.state ≠ .empty) (hkey : keyOf r p = 0 ∨ keyOf r p = x.key) :
        exec (.textClear p [b]) s = .next (modifyCarousel k (clearText i) q) := by
      have hallowed : ¬textRefused (keyOf q p) q.txc.carousels[k].slots[i] = true := by
        rw [hrefused]
        rintro ⟨-, hzero, hother⟩
        exact hkey.elim hzero hother
      rw [hexec, takeTextClear_cleared (s := q) (by exact hi) hx hallowed]
    refine ⟨fun hx => ?_, fun hx hzero hother => ?_, fun hx hkey hcurrent => ?_, fun hx hkey hcurrent => ?_⟩
    · rw [hexec, takeTextClear_empty (by exact hi) (by exact hx)]
      rfl
    · rw [hexec, takeTextClear_refused (by exact hi) (hrefused.mpr ⟨hx, hzero, hother⟩)]
      rfl
    · exact (hcleared hx hkey).trans (congrArg _ (modifyCarousel_of_eq (clearText_of_other hcurrent)))
    · exact (hcleared hx hkey).trans (congrArg _ (modifyCarousel_of_eq (clearText_of_current hcurrent)))

end Sys2Proof.Machine
end

section
/-! PROOFS. TEXT_FLUSH and PICTURE_FLUSH: one service's carousel emptied (R131, R149). -/

namespace Sys2Proof.Machine

/-- A carousel of pictures changes by what the change makes of it. -/
theorem modifyPicCarousel_of_eq {k : ServiceIx} {f : PicCarousel → PicCarousel} {c : PicCarousel} {s : State}
    (h : f s.pic.carousels[k] = c) :
    modifyPicCarousel k f s = { s with pic.carousels := s.pic.carousels.set k c } := by
  rw [← h]
  rfl

/-! ### The carousel emptied -/

/-- A flush empties the eight slots, the cycle and the current transmission (R131). -/
theorem flushText_eq (c : Carousel) : flushText c = { c with
    slots := mapAll emptySlot c.slots, cycle := [], position := none, current := none
    counters := { c.counters with
      flushes := bump c.counters.flushes
      abandonments := if c.current = none then c.counters.abandonments else bump c.counters.abandonments } } := by
  have hslots : #v[emptySlot c.slots[0], emptySlot c.slots[1], emptySlot c.slots[2], emptySlot c.slots[3],
      emptySlot c.slots[4], emptySlot c.slots[5], emptySlot c.slots[6], emptySlot c.slots[7]] =
      mapAll emptySlot c.slots := rfl
  rw [flushText, hslots, bumpBy_bit]
  cases c.current with
  | none => rfl
  | some t => rfl

/-- A flush removes every record of the service, and cuts the one ON_AIR (R149). -/
theorem flushPictures_eq (k : ServiceIx) (s : State) :
    let c := s.pic.carousels[k]
    flushPictures k s = { s with pic := { s.pic with
      table := s.pic.table.filter (fun y => y.service != k)
      carousels := s.pic.carousels.set k { c with
        current := none, last := none
        counters := { c.counters with
          flushes := bump c.counters.flushes
          cuts := if s.pic.table.any (fun y => y.service = k && y.state = .onAir) then bump c.counters.cuts
                  else c.counters.cuts } } } } := by
  unfold flushPictures
  simp only [bumpBy_bit]
  exact modifyPicCarousel_of_eq rfl

/-! ### The requests -/

/-- The command of a request that is taken: the request is acted on and answered. -/
theorem exec_of_taken {cmd : Instr} {k : RequestKind} {f : List Byte → State → Acted} {s r : State} {q : Request}
    {rs : List Request} {a : Acted} (hcmd : exec cmd s = .next (takeRequest k f (settle s))) (hr : settle s = r)
    (h : Taken k q rs r) (ha : f q.body (inHand q rs r) = a) :
    exec cmd s = .next (answered q a.kind a.data rs a.state) := by
  rw [hcmd, hr, takeRequest_of_taken h, ha]

section
variable {b : List Byte} {s : State}

theorem textFlush_of_none (h : serviceIx s (half b 0) = none) : textFlush b s = ⟨s, .refusedArg, .none⟩ := by
  unfold textFlush
  rw [h]
  rfl

theorem textFlush_of_service {k : ServiceIx} (h : serviceIx s (half b 0) = some k) :
    textFlush b s = ⟨modifyCarousel k flushText s, .done, .none⟩ := by
  unfold textFlush
  rw [h]
  rfl

theorem pictureFlush_of_none (h : serviceIx s (half b 0) = none) : pictureFlush b s = ⟨s, .refusedArg, .none⟩ := by
  unfold pictureFlush
  rw [h]
  rfl

theorem pictureFlush_of_service {k : ServiceIx} (h : serviceIx s (half b 0) = some k) :
    pictureFlush b s = ⟨flushPictures k s, .done, .none⟩ := by
  unfold pictureFlush
  rw [h]
  rfl

end

/-- Settles O51: the request is acted on by `exec_of_taken`, and what the flush makes of the carousel is `flushText_eq`
and `flushPictures_eq`. -/
theorem flushRequestsOutcome : Obligations.FlushRequestsOutcome := by
  unfold Obligations.FlushRequestsOutcome
  refine ⟨?texts, ?pictures⟩
  case texts =>
    intro s r q rs hr htaken x
    refine ⟨fun hk => exec_of_taken rfl hr htaken (textFlush_of_none hk), fun k hk => ?_⟩
    intro c
    refine ⟨flushText c, exec_of_taken rfl hr htaken (textFlush_of_service hk), ?_⟩
    rw [flushText_eq]
    exact ⟨mapAll_get emptySlot c.slots, rfl⟩
  case pictures =>
    intro s r q rs hr htaken x
    refine ⟨fun hk => exec_of_taken rfl hr htaken (pictureFlush_of_none hk), fun k hk => ?_⟩
    have hflush := pictureFlush_of_service (s := x) hk
    rw [flushPictures_eq] at hflush
    exact exec_of_taken rfl hr htaken hflush

end Sys2Proof.Machine
end

section
/-! PROOFS. Texts and pictures at a boundary: the production notice, and the records that expire or time out (R37, R123,
R125, R128, R139, R143, R146). -/

namespace Sys2Proof.Machine

/-! ### The notice at TXC (R123, R128) -/

theorem textSide_eq (side : Nat) (c : Carousel) : textSide side c = { c with
    suspended := decide (side = 0)
    current := if side = 0 then c.current.map (fun x => { x with next := 0 }) else c.current
    counters.restarts := if side = 0 ∧ ∃ x, c.current = some x ∧ 0 < x.next then bump c.counters.restarts
      else c.counters.restarts } := by
  unfold textSide
  by_cases hside : side = 0
  · simp only [hside, if_true, true_and, decide_true]
    cases hc : c.current with
    | none => simp
    | some t =>
      by_cases ht : 0 < t.next
      · simp [ht]
      · obtain ⟨slot, next⟩ := t
        obtain rfl : next = 0 := Nat.eq_zero_of_not_pos ht
        simp
  · simp [hside]

theorem ageTexts_eq (c : Carousel) : ageTexts c = { c with slots := mapAll ageText c.slots } := by
  rw [ageTexts, foldl_modifyAt_slotIxs]

theorem ageText_eq (x : TextSlot) : ageText x =
    if x.state = .active ∧ x.lifetime ≠ 0 then { x with remaining := x.remaining - 1 } else x := by
  simp [ageText]

/-! ### The notice at PIC (R143) -/

theorem pictureSide_eq (side : Nat) (c : PicCarousel) : pictureSide side c = { c with
    paused := decide (side = 0)
    counters.pauses := if side = 0 ∧ c.paused = false ∧ c.current.isSome then bump c.counters.pauses
      else c.counters.pauses } := by
  unfold pictureSide
  by_cases hside : side = 0
  · simp [hside]
  · simp [hside]

theorem ageLoads_eq (k : ServiceIx) (s : State) : ageLoads k s = { s with pic.table := s.pic.table.map (fun r =>
    if r.service = k ∧ r.state = .loading then { r with idle := min (r.idle + 1) 250 } else r) } := by
  simp [ageLoads, upTo]

theorem agePictures_eq (k : ServiceIx) (s : State) : agePictures k s = { s with pic.table := s.pic.table.map (fun r =>
    if r.service = k ∧ r.state ≠ .loading ∧ r.lifetime ≠ 0 ∧ r.expiring = false then
      { r with remaining := r.remaining - 1 } else r) } := by
  simp [agePictures, and_assoc]

/-! ### The side rate asked (R37) -/

theorem noticeSide_of_now {t : State} {k : ServiceIx} {n : FrameNo} {d : ServiceDef} (hn : t.ftu.now = some n)
    (hd : serviceDef t k = some d) : noticeSide t k = sideRateAt t.ple (selfOf t) d.id (plus n (leadOf t)) := by
  unfold noticeSide
  rw [hn, hd]

section
variable {p : Ple} {self : UnitId} {id : ServiceId} {n : FrameNo}

theorem sideRateAt_of_entry {l : Layout} {e : LayoutEntry} (hl : layoutAt p n = some l)
    (he : l.entries.find? (fun y => y.id = id && y.owner = self) = some e) :
    sideRateAt p self id n = if e.placement = .unplaced then 0 else e.side := by
  unfold sideRateAt
  rw [hl, Option.bind_some, he]
  simp [LayoutEntry.isPlaced]

theorem sideRateAt_of_absent
    (h : ∀ l, layoutAt p n = some l → ∀ e ∈ l.entries, ¬(e.id = id ∧ e.owner = self)) :
    sideRateAt p self id n = 0 := by
  unfold sideRateAt
  cases hl : layoutAt p n with
  | none => rfl
  | some l =>
    have habsent : l.entries.find? (fun y => y.id = id && y.owner = self) = none :=
      List.find?_eq_none.mpr fun e he => by simpa using h l hl e he
    rw [Option.bind_some, habsent]

end

/-! ### TEXT_EXPIRY (R125) -/

section
variable {i : SlotIx} {c : Carousel}

theorem expireText_started {n : Nat} (h : c.current = some ⟨i, n⟩) (hn : 1 ≤ n) : expireText i c = { c with
    slots := c.slots.set i { c.slots[i] with state := .expiring }
    counters.expiries := bump c.counters.expiries } := by
  unfold expireText
  rw [h]
  exact (if_pos rfl).trans (if_pos hn)

theorem expireText_not_begun (h : c.current = some ⟨i, 0⟩) : expireText i c = { c with
    slots := c.slots.set i (.empty c.slots[i].toggle), current := none
    counters.expiries := bump c.counters.expiries } := by
  unfold expireText
  rw [h]
  exact (if_pos rfl).trans (if_neg (Nat.lt_irrefl 0))

theorem expireText_other (h : ∀ n, c.current ≠ some ⟨i, n⟩) : expireText i c = { c with
    slots := c.slots.set i (.empty c.slots[i].toggle), counters.expiries := bump c.counters.expiries } := by
  unfold expireText
  cases hc : c.current with
  | none => rfl
  | some t =>
    have hother : t.slot ≠ i := by
      rintro rfl
      exact h t.next hc
    exact if_neg hother

end

/-! ### PICTURE_LOAD_TIMEOUT and PICTURE_EXPIRY (R139, R146) -/

/-- A load that times out leaves the table and is counted, and the flag is set. -/
theorem timeOutLoad_eq (k : ServiceIx) (o : ObjectId) (s : State) :
    let c := s.pic.carousels[k]
    timeOutLoad k o s = { s with
      pic := { s.pic with
        table := s.pic.table.filter (fun y => !(y.service = k && y.id = o))
        carousels := s.pic.carousels.set k { c with counters.loadTimeouts := bump c.counters.loadTimeouts } }
      sup := supWith .picLoadFail s } := rfl

section
variable {k : ServiceIx} {a b : List PicRecord} {x : PicRecord} {s : State} (h : ObjectAt k a x b s)
include h

/-- A READY object that expires is retired. -/
theorem expirePicture_ready (hx : x.state = .ready) :
    let c := s.pic.carousels[k]
    expirePicture k x.id s = { s with pic := { s.pic with
      table := s.pic.table.filter (fun y => !(y.service = k && y.id = x.id))
      carousels := s.pic.carousels.set k { c with counters := { c.counters with
        expiries := bump c.counters.expiries, retirements := bump c.counters.retirements } } } } := by
  unfold expirePicture
  rw [h.find]
  dsimp only
  rw [if_pos hx]
  simp only [countPic, removeObject, modifyPicCarousel, modifyAt_modifyAt]
  rfl

/-- An object ON_AIR keeps its turn, and gets the expiring mark. -/
theorem expirePicture_onAir (hx : x.state = .onAir) :
    let c := s.pic.carousels[k]
    expirePicture k x.id s = { s with pic := { s.pic with
      table := a ++ { x with expiring := true } :: b
      carousels := s.pic.carousels.set k { c with counters.expiries := bump c.counters.expiries } } } := by
  have hcounted : ObjectAt k a x b (countPic k (fun c => { c with expiries := bump c.expiries }) s) :=
    ⟨h.table, h.service, h.first⟩
  unfold expirePicture
  rw [h.find]
  dsimp only
  rw [if_neg (by rw [hx]; decide), hcounted.modify]
  rfl

end

/-- Settles O41: the events from `runEvent_due` and the `expireText_`, `timeOutLoad_eq` and `expirePicture_` lemmas; the
notice step by step from `textSide_eq` to `agePictures_eq`; the side rate from the `sideRateAt_` lemmas. -/
theorem contentEventsOutcome : Obligations.ContentEventsOutcome := by
  unfold Obligations.ContentEventsOutcome
  refine ⟨?text, ?timeout, ?expiry, ?notice, ?pictures, ?side⟩
  case text =>
    intro s t rest k i hturn c x hactive hlife hover
    have hexec {d : Carousel} (hd : expireText i c = d) : exec (.textExpiry k i) s =
        .next (advance rest { t with txc.carousels := t.txc.carousels.set k d }) := by
      have hdue := runEvent_due hturn ((due_textExpiry_iff t k i).mpr ⟨hactive, hlife, hover⟩)
      rw [fire_textExpiry, modifyCarousel_of_eq hd] at hdue
      exact congrArg _ hdue
    exact ⟨fun n hcurrent hn => hexec (expireText_started hcurrent hn),
      fun hcurrent => hexec (expireText_not_begun hcurrent), fun hother => hexec (expireText_other hother)⟩
  case timeout =>
    intro s t rest k o x hturn hx hloading hidle c
    exact congrArg _ (runEvent_due hturn ((due_pictureLoadTimeout_iff t k o).mpr ⟨x, hx, hloading, hidle⟩))
  case expiry =>
    intro s t rest k o a b x hturn htable hservice hid hfirst hlife hover hmark c
    subst hid
    have hat : ObjectAt k a x b t := ⟨htable, hservice, hfirst⟩
    have hexec (hshown : x.state ≠ .loading) :
        exec (.pictureExpiry k x.id) s = .next (advance rest (expirePicture k x.id t)) :=
      congrArg _ (runEvent_due hturn
        ((due_pictureExpiry_iff t k x.id).mpr ⟨x, hat.find, hshown, hlife, hover, hmark⟩))
    refine ⟨fun hready => ?_, fun hair => ?_⟩
    · rw [hexec (by rw [hready]; decide), expirePicture_ready hat hready]
    · rw [hexec (by rw [hair]; decide), expirePicture_onAir hat hair]
  case notice =>
    intro t k c none_ started
    refine ⟨?_, rfl⟩
    have hnotice : ageTexts (textSide (noticeSide t k) c) = { c with
        suspended := decide none_
        current := if none_ then c.current.map (fun x => { x with next := 0 }) else c.current
        slots := mapAll ageText c.slots
        counters.restarts := if none_ ∧ started then bump c.counters.restarts else c.counters.restarts } := by
      simp only [ageTexts_eq, textSide_eq, started, decide_eq_true_eq]
      rfl
    rw [funext ageText_eq] at hnotice
    exact modifyCarousel_of_eq hnotice
  case pictures =>
    intro t k c none_
    refine ⟨?_, agePictures_eq k t⟩
    show ageLoads k (modifyPicCarousel k (pictureSide (noticeSide t k)) t) = _
    rw [modifyPicCarousel_of_eq (pictureSide_eq _ _), ageLoads_eq]
  case side =>
    intro t k n d hn hd f
    rw [noticeSide_of_now hn hd]
    exact ⟨fun l e => sideRateAt_of_entry, sideRateAt_of_absent⟩

end Sys2Proof.Machine
end

section
/-! PROOFS. The page pool's memory (R133, log 8): every step keeps its canonical form. Every operation but three is quiet
or leaves PIC's bytes alone; the two resets of the whole unit and a soft reset leave no byte listed. -/

namespace Sys2Proof.Machine

/-- The form speaks of PIC alone. -/
theorem MemorySound.of_pic {s t : State} (h : MemorySound s) (e : t.pic = s.pic) : MemorySound t :=
  Quiet.memoryKept (congrArg Pic.memory e) h

theorem softClear_memory (s : State) : MemorySound (softClear s) := reset_memory_wf

theorem powerOn_memory (s : State) : MemorySound (powerOn s) := reset_memory_wf

theorem lineReset_memory (s : State) : MemorySound (lineReset s) := reset_memory_wf

section
variable {s : State} (h : MemorySound s)
include h

/-! ### The turns of a boundary -/

theorem takeTurn_memory (a : Act) : MemorySound (takeTurn a s) := by
  obtain ⟨-, -, -, -, hkeeps⟩ := takeTurn_keeps a s
  exact hkeeps h

theorem settle_memory : MemorySound (settle s) :=
  settle_keeps (P := MemorySound) (fun a _ ht => takeTurn_memory ht a) (fun _ _ ht => ht.of_pic rfl) h

theorem runEvent_memory (a : Act) : MemorySound (runEvent a s) :=
  runEvent_keeps (P := MemorySound) (fun a _ ht => takeTurn_memory ht a) (fun _ _ ht => ht.of_pic rfl) a h

/-! ### FTU -/

theorem raiseBoundary_memory (src : BoundarySource) (o : BoundaryOrder) : MemorySound (raiseBoundary src o s) :=
  advance_keeps (P := MemorySound) (fun a _ ht => takeTurn_memory ht a) (fun _ _ ht => ht.of_pic rfl) _ _
    (h.of_pic rfl)

theorem takePulse_memory (d : Nat) (o : BoundaryOrder) : MemorySound (takePulse d o s) := by
  unfold takePulse
  split
  · exact h.of_pic rfl
  · unfold matchPulse
    dsimp only
    split
    · exact (relocked_quiet (r := false) _).memory (h.of_pic rfl)
    · exact h.of_pic rfl
  · exact raiseBoundary_memory h _ o

theorem missPulse_memory : MemorySound (missPulse s) := by
  unfold missPulse
  split
  · dsimp only
    split
    · exact (enterListen_quiet (r := false) _).memory (h.of_pic rfl)
    · exact (breakListen_quiet (r := false) _).memory (h.of_pic rfl)
  · exact h

theorem takeTime_memory (bs : List Byte) : MemorySound (takeTime bs s) := by
  unfold takeTime
  split <;> exact h.of_pic rfl

/-! ### CFL -/

theorem acceptImage_memory (i : Image) : MemorySound (acceptImage i s) :=
  (((takeRoles_quiet _).trans (sampleLines_quiet _)).trans (enterListen_quiet _)).memory
    (h.of_pic rfl : MemorySound (takeImage i s))

theorem refuseImage_memory (c : FaultCause) (f : Option Nat) : MemorySound (refuseImage c f s) := h.of_pic rfl

theorem readComplete_memory (flash : List Byte) : MemorySound (readComplete flash s) := by
  unfold readComplete
  split
  · unfold judgeImage
    split
    · exact acceptImage_memory h _
    · exact refuseImage_memory h _ _
  · exact h

/-! ### The alert lines -/

theorem changeLine_memory (l : LineIx) (high : Bool) : MemorySound (changeLine l high s) := by
  have hmoved : MemorySound { s with lines := s.lines.set l high } := h.of_pic rfl
  unfold changeLine
  dsimp only
  split_ifs
  · exact hmoved
  · exact (sampleLevel_quiet (r := false) l _).memory hmoved
  · exact h.of_pic rfl
  · exact hmoved

/-! ### SUP -/

theorem serveBad_memory (rs : List Request) : MemorySound (serveBad rs s) := by
  induction rs generalizing s with
  | nil => exact h.of_pic rfl
  | cons r rs ih =>
    unfold serveBad
    split_ifs
    · exact ih (h.of_pic (hand_pic _ r _ _))
    · exact ih (h.of_pic (hand_pic _ r _ _))
    · exact h.of_pic rfl

theorem takeFrame_memory (r : RequestFrame) : MemorySound (takeFrame r s) := by
  unfold takeFrame
  split
  · exact serveBad_memory h _
  · exact h.of_pic rfl

/-- A request's row keeps the form where its action does. -/
theorem takeRequest_memory (k : RequestKind) {f : List Byte → State → Acted}
    (hf : ∀ b t, MemorySound t → MemorySound (f b t).state) : MemorySound (takeRequest k f s) := by
  unfold takeRequest
  split
  · exact h
  · rename_i r rs _
    have hhand : MemorySound { s with sup.queue := rs, sup.inHand := some r } := h.of_pic rfl
    split
    · refine serveBad_memory ?_ rs
      refine MemorySound.of_pic (s := (actOn k f r.body { s with sup.queue := rs, sup.inHand := some r }).state) ?_ rfl
      unfold actOn
      split_ifs
      · exact hhand
      · exact hhand
      · exact hf _ _ hhand
    · exact h

/-- A request that only reads keeps the form. -/
theorem takeRequest_memory_of_reads (k : RequestKind) {f : List Byte → State → Acted}
    (hf : ∀ b t, (f b t).state = t) : MemorySound (takeRequest k f s) :=
  takeRequest_memory h k (fun b t ht => by rw [hf]; exact ht)

omit h in
theorem readLayout_state (b : List Byte) (s : State) : (readLayout b s).state = s := by
  unfold readLayout
  split <;> rfl

omit h in
theorem readText_state (b : List Byte) (s : State) : (readText b s).state = s := by
  unfold readText
  split
  · rfl
  · split <;> rfl

omit h in
theorem readPictures_state (b : List Byte) (s : State) : (readPictures b s).state = s := by
  unfold readPictures
  split <;> rfl

theorem switchService_memory (on : Bool) (b : List Byte) : MemorySound (switchService on b s).state := by
  unfold switchService
  split
  · exact h
  · dsimp only
    split_ifs
    · exact h
    · exact (atNow_quiet (r := false) issueClaim_quiet _).memory (h.of_pic rfl)
    · exact h.of_pic rfl

theorem alertStart_memory (b : List Byte) : MemorySound (alertStart b s).state := by
  unfold alertStart
  split
  · exact (askSource_quiet (r := false) _ _ _ _ s).memory h
  · exact h

theorem alertTest_memory (b : List Byte) : MemorySound (alertTest b s).state := by
  unfold alertTest
  split
  · exact (askSource_quiet (r := false) _ _ _ _ s).memory h
  · exact h

theorem alertStop_memory (b : List Byte) : MemorySound (alertStop b s).state := by
  have hcleared : MemorySound (clearSources s) := (clearSources_quiet (r := false) s).memory h
  show MemorySound (if _ then _ else _)
  split
  · exact hcleared.of_pic rfl
  · exact hcleared

theorem textFlush_memory (b : List Byte) : MemorySound (textFlush b s).state := by
  unfold textFlush
  split
  · exact (modifyCarousel_quiet (r := false) _ _ s).memory h
  · exact h

/-- A flush frees the pages and leaves their bytes (R149). -/
theorem pictureFlush_memory (b : List Byte) : MemorySound (pictureFlush b s).state := by
  unfold pictureFlush
  split
  · exact Quiet.memoryKept rfl h
  · exact h

theorem clearFlags_memory (b : List Byte) : MemorySound (clearFlags b s).state :=
  (clearFlagSet_quiet (r := false) _ s).memory h

theorem clearOrdinary_memory : MemorySound (clearOrdinary s) := Quiet.memoryKept rfl h

theorem clearCounters_memory (b : List Byte) : MemorySound (clearCounters b s).state := by
  have hcleared := clearOrdinary_memory h
  unfold clearCounters done
  dsimp only
  generalize clearOrdinary s = t at hcleared ⊢
  exact Quiet.memoryKept rfl hcleared

theorem rejoin_memory (b : List Byte) : MemorySound (rejoin b s).state :=
  ((enterListen_quiet (r := false) s).memory h).of_pic rfl

omit h in
/-- A soft reset empties the pool, and none of the steps after that writes to it. -/
theorem softReset_memory (b : List Byte) (s : State) : MemorySound (softReset b s).state := by
  have hcleared : MemorySound (clearFlagSet (BitVec.allOnes 24) (enterListen (sampleLines (softClear s)))) :=
    (((sampleLines_quiet (r := false) _).trans (enterListen_quiet _)).trans (clearFlagSet_quiet _ _)).memory
      (softClear_memory s)
  replace hcleared := clearOrdinary_memory hcleared
  unfold softReset done
  dsimp only
  generalize clearOrdinary _ = t at hcleared ⊢
  exact Quiet.memoryKept rfl hcleared

theorem loadConfig_memory (b : List Byte) : MemorySound (loadConfig b s).state := by
  unfold loadConfig
  split
  · exact acceptImage_memory h _
  · exact refuseImage_memory h _ _

end

/-! ### Every command and every step -/

/-- Every command keeps the page memory's form. -/
theorem exec_memory (c : Instr) {s : State} (h : MemorySound s) : ∃ t, exec c s = .next t ∧ MemorySound t := by
  have hr := settle_memory h
  cases c with
  | powerOn => exact ⟨_, rfl, powerOn_memory s⟩
  | lineReset => exact ⟨_, rfl, lineReset_memory s⟩
  | configReadComplete flash => exact ⟨_, rfl, readComplete_memory hr flash⟩
  | timeMessage bytes => exact ⟨_, rfl, takeTime_memory hr bytes⟩
  | framePulse d o => exact ⟨_, rfl, takePulse_memory hr d o⟩
  | localTimerExpiry o => exact ⟨_, rfl, raiseBoundary_memory hr _ o⟩
  | missedPulse => exact ⟨_, rfl, missPulse_memory hr⟩
  | linkHuntPacket bytes | linkHeaderFailed bytes => exact ⟨_, rfl, (receiveBytes_quiet bytes _).memory hr⟩
  | presence p | claim p | contrib p | alert p | alertEnd p => exact ⟨_, rfl, (receive_quiet _ p _).memory hr⟩
  | transmitDone => exact ⟨_, rfl, (transmitterFree_quiet (r := false) _).memory hr⟩
  | feedHuntPacket p bytes | feedPacketFailed p bytes => exact ⟨_, rfl, (feedBytes_quiet p bytes _).memory hr⟩
  | feedPacketMalformed p code body => exact ⟨_, rfl, (feedPacket_quiet p code body _).memory hr⟩
  | audio p b | textSet p b | textClear p b | picBegin p b | picData p b | picEnd p b | picDelete p b | alertReq p b
  | alertClear p b | fill p b => exact ⟨_, rfl, (feedPacket_quiet p _ b _).memory hr⟩
  | alertLineChange l high => exact ⟨_, rfl, changeLine_memory hr l high⟩
  | requestReceived r => exact ⟨_, rfl, takeFrame_memory hr r⟩
  | readStatus | readCounters | readView | readAlerts =>
    exact ⟨_, rfl, takeRequest_memory_of_reads hr _ (fun _ _ => rfl)⟩
  | readLayout => exact ⟨_, rfl, takeRequest_memory_of_reads hr _ readLayout_state⟩
  | readText => exact ⟨_, rfl, takeRequest_memory_of_reads hr _ readText_state⟩
  | readPictures => exact ⟨_, rfl, takeRequest_memory_of_reads hr _ readPictures_state⟩
  | clearFlags => exact ⟨_, rfl, takeRequest_memory hr _ (fun b _ ht => clearFlags_memory ht b)⟩
  | clearCounters => exact ⟨_, rfl, takeRequest_memory hr _ (fun b _ ht => clearCounters_memory ht b)⟩
  | serviceOff => exact ⟨_, rfl, takeRequest_memory hr _ (fun b _ ht => switchService_memory ht _ b)⟩
  | serviceOn => exact ⟨_, rfl, takeRequest_memory hr _ (fun b _ ht => switchService_memory ht _ b)⟩
  | alertStart => exact ⟨_, rfl, takeRequest_memory hr _ (fun b _ ht => alertStart_memory ht b)⟩
  | alertTest => exact ⟨_, rfl, takeRequest_memory hr _ (fun b _ ht => alertTest_memory ht b)⟩
  | alertStop => exact ⟨_, rfl, takeRequest_memory hr _ (fun b _ ht => alertStop_memory ht b)⟩
  | textFlush => exact ⟨_, rfl, takeRequest_memory hr _ (fun b _ ht => textFlush_memory ht b)⟩
  | pictureFlush => exact ⟨_, rfl, takeRequest_memory hr _ (fun b _ ht => pictureFlush_memory ht b)⟩
  | rejoin => exact ⟨_, rfl, takeRequest_memory hr _ (fun b _ ht => rejoin_memory ht b)⟩
  | softReset => exact ⟨_, rfl, takeRequest_memory hr _ (fun b t _ => softReset_memory b t)⟩
  | loadConfig => exact ⟨_, rfl, takeRequest_memory hr _ (fun b _ ht => loadConfig_memory ht b)⟩
  | readFailed | holdoverExpired | frameJump | enterJoining | enterOnAir | enterIsolated | presenceSend | claimResend
  | peerSilent | slotRemoval | claimInForce | feedLost | feedSwitch | feedRevert | textExpiry | pictureLoadTimeout
  | pictureExpiry | alertDurationLimit | localAlertOn | localAlertIdle | alertRepeat | alertRecordStart
  | alertRecordEnded => exact ⟨_, rfl, runEvent_memory h _⟩

/-- Settles O8: an idle step runs the boundary (`settle_memory`), any other runs its command (`exec_memory`). -/
theorem pageMemoryInvariant : Obligations.PageMemoryInvariant := by
  unfold Obligations.PageMemoryInvariant
  intro s t h hstep
  unfold step at hstep
  split at hstep
  · obtain rfl := Host.Outcome.next.inj hstep
    exact settle_memory h
  · rename_i c cs _
    obtain ⟨u, hexec, hu⟩ := exec_memory c (s := { s with pending := cs }) (h.of_pic rfl)
    rw [hexec] at hstep
    obtain rfl := Host.Outcome.next.inj hstep
    exact hu

end Sys2Proof.Machine
end

section
/-! PROOFS. The records and pages of the pool, and the bytes of an object (R133, R134, R137). -/

namespace Sys2Proof.Machine

/-- A packet taken at a port of service `k` is handed on to that service's block (R107, R108). -/
theorem exec_forService {s r : State} {f : FeedKind} {p : PortId} {k : ServiceIx} {body : List Byte}
    (hs : settle s = r) (h : FeedTaken f p body r) (hport : FeedsService p k r) :
    exec (feedCommand f p body) s = .next (forService k p f body (tookFeed f p r)) :=
  (exec_feedTaken hs h).trans (congrArg _ (dispatchFeed_service (by exact hport)))

theorem keyAllows_iff (key owner : Nat) : keyAllows key owner = true ↔ key = 0 ∨ key = owner := by simp [keyAllows]

/-! ### A service's object in the table -/

theorem findObject_eq_none_iff (k : ServiceIx) (o : ObjectId) (s : State) :
    findObject k o s = none ↔ ∀ y ∈ s.pic.table, ¬(y.service = k ∧ y.id = o) := by
  simp only [findObject, List.find?_eq_none, isObject_iff]

theorem id_of_findObject {k : ServiceIx} {o : ObjectId} {s : State} {x : PicRecord} (h : findObject k o s = some x) :
    x.id = o := ((isObject_iff k o x).mp (List.find?_some h)).2

/-! ### The free pages (R133) -/

theorem mem_freePages (t : List PicRecord) (n : Nat) : n ∈ freePages t ↔ n < 384 ∧ ∀ y ∈ t, n ∉ y.pages := by
  simp [freePages, usedPages, Config.pages]

theorem freePages_pairwise (t : List PicRecord) : (freePages t).Pairwise (· < ·) :=
  List.pairwise_lt_range.filter _

/-! ### The address of an object's byte (R133) -/

/-- On distinct pages, two bytes within the pages have two addresses. -/
theorem byteAddress_inj {x : PicRecord} {i j : Nat} (hnodup : x.pages.Nodup) (hi : i < 512 * x.pages.length)
    (hj : j < 512 * x.pages.length) (h : byteAddress x i = byteAddress x j) : i = j := by
  have hi' : i / 512 < x.pages.length := Nat.div_lt_of_lt_mul hi
  have hj' : j / 512 < x.pages.length := Nat.div_lt_of_lt_mul hj
  simp only [byteAddress, Config.pageSize, List.getD_eq_getElem _ _ hi', List.getD_eq_getElem _ _ hj'] at h
  have hpage : x.pages[i / 512] = x.pages[j / 512] := by omega
  have hplace : i / 512 = j / 512 := (hnodup.getElem_inj_iff).mp hpage
  omega

/-! ### Bytes written to an object (R137) -/

/-- Writing an object's bytes leaves every other byte of the pool as it reads. -/
theorem memRead_writeObject_other (x : PicRecord) {n : Nat} (bs : List Byte) : ∀ {o : Nat} {m : List Host.Cell},
    Memory.wf m = true → (∀ j, j < bs.length → n ≠ byteAddress x (o + j)) →
    memRead (writeObject x o bs m) n = memRead m n := by
  induction bs with
  | nil => exact fun _ _ => rfl
  | cons b bs ih =>
    intro o m hm hother
    have hrest : ∀ j, j < bs.length → n ≠ byteAddress x (o + 1 + j) := fun j hj => by
      rw [Nat.add_right_comm, Nat.add_assoc]
      exact hother (j + 1) (Nat.succ_lt_succ hj)
    rw [writeObject, ih (memWrite_wf _ _ hm) hrest, memRead_memWrite _ _ _ hm]
    exact if_neg (hother 0 (Nat.succ_pos _))

/-- The bytes written are read back, where no two of them share an address. -/
theorem memRead_writeObject_self (x : PicRecord) (bs : List Byte) : ∀ {o : Nat} {m : List Host.Cell},
    Memory.wf m = true →
    (∀ i j, i < o + bs.length → j < o + bs.length → byteAddress x i = byteAddress x j → i = j) →
    ∀ j, j < bs.length → memRead (writeObject x o bs m) (byteAddress x (o + j)) = byteAt bs j := by
  induction bs with
  | nil => exact fun _ _ j hj => absurd hj (Nat.not_lt_zero j)
  | cons b bs ih =>
    intro o m hm hinj j hj
    have hm' := memWrite_wf (byteAddress x o) b hm
    simp only [List.length_cons] at hinj hj
    rw [writeObject]
    cases j with
    | zero =>
      have hfresh : ∀ i, i < bs.length → byteAddress x (o + 0) ≠ byteAddress x (o + 1 + i) := fun i hi h => by
        have hsame := hinj (o + 0) (o + 1 + i) (by omega) (by omega) h
        omega
      rw [memRead_writeObject_other x bs hm' hfresh, memRead_memWrite _ _ _ hm]
      exact if_pos rfl
    | succ j =>
      rw [Nat.add_comm j 1, ← Nat.add_assoc, Nat.add_comm 1 j]
      exact ih hm' (fun i j hi hj => hinj i j (by omega) (by omega)) j (by omega)

end Sys2Proof.Machine
end

section
/-! PROOFS. PIC_DATA and PIC_END: a load's bytes, and its end (R137, R138). -/

namespace Sys2Proof.Machine

section
variable {k : ServiceIx} {p : PortId} {body : List Byte} {s : State}

/-! ### PIC_DATA (R137) -/

theorem takePicData_of_none (h : findObject k (half body 0) s = none) :
    takePicData k p body s = countPic k (fun c => { c with strayData := bump c.strayData }) s := by
  rw [takePicData, h]

section
variable {x : PicRecord} (h : findObject k (half body 0) s = some x)
include h

theorem takePicData_of_notLoading (hx : x.state ≠ .loading) :
    takePicData k p body s = countPic k (fun c => { c with strayData := bump c.strayData }) s := by
  rw [takePicData, h]
  exact if_pos hx

variable (hx : x.state = .loading)
include hx

theorem takePicData_foreign (hp : x.port ≠ p) :
    takePicData k p body s = countPic k (fun c => { c with foreignData := bump c.foreignData }) s := by
  rw [takePicData, h]
  exact (if_neg (not_not.mpr hx)).trans (if_pos hp)

variable (hp : x.port = p)
include hp

theorem takePicData_gap (ho : beNat (slice body 2 2) ≠ x.received) :
    takePicData k p body s = countPic k (fun c => { c with gaps := bump c.gaps }) s := by
  rw [takePicData, h]
  exact (if_neg (not_not.mpr hx)).trans ((if_neg (not_not.mpr hp)).trans (if_pos ho))

variable (ho : beNat (slice body 2 2) = x.received)
include ho

theorem takePicData_overlength (hn : x.size < beNat (slice body 2 2) + (body.drop 4).length) :
    takePicData k p body s = countPic k (fun c => { c with overlengths := bump c.overlengths }) s := by
  rw [takePicData, h]
  exact (if_neg (not_not.mpr hx)).trans ((if_neg (not_not.mpr hp)).trans ((if_neg (not_not.mpr ho)).trans (if_pos hn)))

end

/-- Data that fits is written behind what the object has. -/
theorem takePicData_fits {a b : List PicRecord} {x : PicRecord} (h : ObjectAt k a x b s) (hid : x.id = half body 0)
    (hx : x.state = .loading) (hp : x.port = p) (ho : beNat (slice body 2 2) = x.received)
    (hn : beNat (slice body 2 2) + (body.drop 4).length ≤ x.size) : takePicData k p body s = { s with pic := { s.pic with
      memory := writeObject x (beNat (slice body 2 2)) (body.drop 4) s.pic.memory
      table := a ++ { x with
        received := x.received + (body.drop 4).length, crc := crc16From x.crc (body.drop 4), idle := 0 } :: b } } := by
  have hfind := h.find
  rw [hid] at hfind
  have hwritten : ObjectAt k a x b
      { s with pic.memory := writeObject x (beNat (slice body 2 2)) (body.drop 4) s.pic.memory } :=
    ⟨h.table, h.service, h.first⟩
  rw [takePicData, hfind]
  dsimp only
  rw [if_neg (not_not.mpr hx), if_neg (not_not.mpr hp), if_neg (not_not.mpr ho), if_neg (not_lt.mpr hn),
    hwritten.modify]

/-! ### PIC_END (R138) -/

theorem takePicEnd_of_none (h : findObject k (half body 0) s = none) :
    takePicEnd k p body s = countPic k (fun c => { c with strayEnds := bump c.strayEnds }) s := by
  rw [takePicEnd, h]

section
variable {x : PicRecord} (h : findObject k (half body 0) s = some x)
include h

theorem takePicEnd_of_notLoading (hx : x.state ≠ .loading) :
    takePicEnd k p body s = countPic k (fun c => { c with strayEnds := bump c.strayEnds }) s := by
  rw [takePicEnd, h]
  exact if_pos hx

variable (hx : x.state = .loading)
include hx

theorem takePicEnd_foreign (hp : x.port ≠ p) :
    takePicEnd k p body s = countPic k (fun c => { c with foreignEnds := bump c.foreignEnds }) s := by
  rw [takePicEnd, h]
  exact (if_neg (not_not.mpr hx)).trans (if_pos hp)

variable (hp : x.port = p)
include hp

/-- Bytes missing, or another check: the load leaves the table. -/
theorem takePicEnd_bad (hbad : x.received ≠ x.size ∨ x.crc ≠ half body 2) : takePicEnd k p body s =
    raiseFlag .picLoadFail (countPic k (fun c => { c with badEnds := bump c.badEnds }) (removeObject k x.id s)) := by
  have hincomplete : ¬(x.received = x.size && x.crc = half body 2) = true := by
    simpa only [Bool.and_eq_true, decide_eq_true_eq, not_and_or] using hbad
  rw [takePicEnd, h]
  exact (if_neg (not_not.mpr hx)).trans ((if_neg (not_not.mpr hp)).trans (if_neg hincomplete))

end

/-- A complete object with the right check becomes READY. -/
theorem takePicEnd_complete {a b : List PicRecord} {x : PicRecord} (h : ObjectAt k a x b s) (hid : x.id = half body 0)
    (hx : x.state = .loading) (hp : x.port = p) (hall : x.received = x.size) (hcrc : x.crc = half body 2) :
    takePicEnd k p body s = countPic k (fun c => { c with completed := bump c.completed })
      { s with pic.table := a ++ { x with state := .ready, remaining := x.lifetime } :: b } := by
  have hfind := h.find
  rw [hid] at hfind
  rw [takePicEnd, hfind]
  dsimp only
  rw [if_neg (not_not.mpr hx), if_neg (not_not.mpr hp), if_pos (by simp [hall, hcrc]), h.modify]

end

/-- Settles O36: each outcome is a `takePicData_` lemma; what the pool reads after the data is
`memRead_writeObject_other` and, by `byteAddress_inj`, `memRead_writeObject_self`. -/
theorem pictureDataOutcome : Obligations.PictureDataOutcome := by
  unfold Obligations.PictureDataOutcome
  intro s r p k body hs htaken hport q o data c stray
  have hexec : exec (.picData p body) s = .next (takePicData k p body q) := exec_forService hs htaken hport
  refine ⟨fun hnone => ?_, fun x hfind hx => ?_, fun a b x htable hservice hid hfirst hx => ?_⟩
  · rw [hexec, takePicData_of_none (by exact hnone)]
    rfl
  · rw [hexec, takePicData_of_notLoading (by exact hfind) hx]
    rfl
  have hat : ObjectAt k a x b q := ⟨htable, hservice, by rw [hid]; exact hfirst⟩
  have hfind : findObject k (half body 0) q = some x := hid ▸ hat.find
  refine ⟨fun hp => ?_, fun hp ho => ?_, fun hp ho hn => ?_, fun hp ho hn => ?_⟩
  · rw [hexec, takePicData_foreign hfind hx hp]
    rfl
  · rw [hexec, takePicData_gap hfind hx hp ho]
    rfl
  · rw [hexec, takePicData_overlength hfind hx hp ho hn]
    rfl
  · intro place
    refine ⟨writeObject x o data q.pic.memory, ?_, fun hm n hn => ?_, fun hm hnodup hpages => ?_⟩
    · rw [hexec, takePicData_fits hat hid hx hp ho hn]
    · exact memRead_writeObject_other x data hm hn
    · exact memRead_writeObject_self x data hm fun i j hi hj =>
        byteAddress_inj hnodup (by omega) (by omega)

/-- Settles O37: each outcome is a `takePicEnd_` lemma. -/
theorem pictureEndOutcome : Obligations.PictureEndOutcome := by
  unfold Obligations.PictureEndOutcome
  intro s r p k body hs htaken hport q c stray
  have hexec : exec (.picEnd p body) s = .next (takePicEnd k p body q) := exec_forService hs htaken hport
  refine ⟨fun hnone => ?_, fun x hfind hx => ?_, fun x hfind hx hp => ?_,
    fun a b x htable hservice hid hfirst hx hp hall hcrc => ?_, fun x hfind hx hp hbad => ?_⟩
  · rw [hexec, takePicEnd_of_none (by exact hnone)]
    rfl
  · rw [hexec, takePicEnd_of_notLoading (by exact hfind) hx]
    rfl
  · rw [hexec, takePicEnd_foreign (by exact hfind) hx hp]
    rfl
  · have hat : ObjectAt k a x b q := ⟨htable, hservice, by rw [hid]; exact hfirst⟩
    rw [hexec, takePicEnd_complete hat hid hx hp hall hcrc]
    rfl
  · rw [hexec, takePicEnd_bad (by exact hfind) hx hp hbad, id_of_findObject hfind]
    rfl

end Sys2Proof.Machine
end

section
/-! PROOFS. PIC_BEGIN and PIC_DELETE: the size test, the key test, room, replacement and removal (R134, R136, R141,
R147). -/

namespace Sys2Proof.Machine

/-! ### Admission (R136) -/

section
variable {k : ServiceIx} {p : PortId} {key : Nat} {body : List Byte} {s : State}

/-- R136's room test fails: too few pages are free, or the table holds 32 records. -/
theorem noRoom_iff (free need held : Nat) :
    (free < need || Config.objects ≤ held) = true ↔ free < need ∨ 32 ≤ held := by
  rw [Bool.or_eq_true, decide_eq_true_eq, decide_eq_true_eq]
  rfl

theorem admitObject_of_room (hpages : pagesNeeded (beNat (slice body 2 2)) ≤ (freePages s.pic.table).length)
    (hrecords : s.pic.table.length < 32) : admitObject k p key body s =
      countPic k (fun c => { c with begins := bump c.begins }) { s with
        pic.table := s.pic.table ++
          [newObject k p key body ((freePages s.pic.table).take (pagesNeeded (beNat (slice body 2 2))))]
        pic.lowestFree := min s.pic.lowestFree
          ((freePages s.pic.table).length - pagesNeeded (beNat (slice body 2 2))) } :=
  if_neg (mt (noRoom_iff _ _ _).mp (by omega))

theorem admitObject_of_noRoom (h : (freePages s.pic.table).length < pagesNeeded (beNat (slice body 2 2)) ∨
    32 ≤ s.pic.table.length) : admitObject k p key body s =
      raiseFlag .picLoadFail (countPic k (fun c => { c with noRoom := bump c.noRoom }) s) :=
  if_pos ((noRoom_iff _ _ _).mpr h)

/-! ### PIC_BEGIN (R136) -/

theorem takePicBegin_badSize (h : beNat (slice body 2 2) = 0 ∨ 65520 < beNat (slice body 2 2)) :
    takePicBegin k p key body s = countPic k (fun c => { c with badSizes := bump c.badSizes }) s :=
  if_pos (by simpa using h)

section
variable (hpos : 1 ≤ beNat (slice body 2 2)) (htop : beNat (slice body 2 2) ≤ 65520)
include hpos htop

theorem not_badSize : ¬(beNat (slice body 2 2) = 0 || 65520 < beNat (slice body 2 2)) = true := by
  simp only [Bool.or_eq_true, decide_eq_true_eq]
  omega

theorem takePicBegin_new (h : findObject k (half body 0) s = none) :
    takePicBegin k p key body s = admitObject k p key body s := by
  unfold takePicBegin
  rw [if_neg (not_badSize hpos htop), h]

variable {x : PicRecord} (h : findObject k (half body 0) s = some x)
include h

theorem takePicBegin_refused (hkey : ¬keyAllows key x.key = true) : takePicBegin k p key body s = refusePicture k s := by
  unfold takePicBegin
  rw [if_neg (not_badSize hpos htop), h]
  exact if_pos (by simp [hkey])

theorem takePicBegin_replaces (hkey : keyAllows key x.key = true) : takePicBegin k p key body s =
    admitObject k p key body (countPic k (fun c => { c with replacements := bump c.replacements })
      (cutIfOnAir k x (removeObject k x.id s))) := by
  unfold takePicBegin
  rw [if_neg (not_badSize hpos htop), h]
  exact if_neg (by simp [hkey])

end

/-! ### PIC_DELETE (R141) -/

theorem takePicDelete_of_none (h : findObject k (half body 0) s = none) :
    takePicDelete k key body s = countPic k (fun c => { c with unknownDelete := bump c.unknownDelete }) s := by
  rw [takePicDelete, h]

section
variable {x : PicRecord} (h : findObject k (half body 0) s = some x)
include h

theorem takePicDelete_refused (hkey : ¬keyAllows key x.key = true) :
    takePicDelete k key body s = refusePicture k s := by
  rw [takePicDelete, h]
  exact if_pos (by simp [hkey])

theorem takePicDelete_removes (hkey : keyAllows key x.key = true) : takePicDelete k key body s =
    countPic k (fun c => { c with deletes := bump c.deletes }) (cutIfOnAir k x (removeObject k x.id s)) := by
  rw [takePicDelete, h]
  exact if_neg (by simp [hkey])

end

end

/-! ### A record leaves the table (R133, R147) -/

/-- A record leaves the table, its turn is cut if it has one, and the carousel counts it by `f`. -/
theorem countPic_cutIfOnAir_removeObject (k : ServiceIx) (x : PicRecord) (f : PicCounters → PicCounters) (s : State) :
    let c := s.pic.carousels[k]
    countPic k f (cutIfOnAir k x (removeObject k x.id s)) = { s with pic := { s.pic with
      table := s.pic.table.filter (fun y => !(y.service = k && y.id = x.id))
      carousels := s.pic.carousels.set k { c with
        current := if x.state = .onAir then none else c.current
        counters := f { c.counters with
          cuts := if x.state = .onAir then bump c.counters.cuts else c.counters.cuts } } } } := by
  intro c
  unfold cutIfOnAir
  by_cases hx : x.state = .onAir
  · simp only [if_pos hx, countPic, modifyPicCarousel_modifyPicCarousel]
    exact modifyPicCarousel_of_eq rfl
  · simp only [if_neg hx]
    exact modifyPicCarousel_of_eq rfl

/-- Settles O35: the packets by the `takePicBegin_` and `takePicDelete_` lemmas, a record that leaves the table by
`countPic_cutIfOnAir_removeObject`, the admission by the `admitObject_of_` lemmas, the free pages by `mem_freePages`. -/
theorem pictureBeginAndDeleteOutcome : Obligations.PictureBeginAndDeleteOutcome := by
  unfold Obligations.PictureBeginAndDeleteOutcome
  refine ⟨?begin, ?admission, ?delete⟩
  case begin =>
    intro s r p k body hs htaken hport q size c
    have hexec : exec (.picBegin p body) s = .next (takePicBegin k p (keyOf r p) body q) :=
      exec_forService hs htaken hport
    refine ⟨fun hbad => ?_, fun hpos htop hnone => ?_, fun x hpos htop hfind => ⟨fun hzero hother => ?_, fun hkey => ?_⟩⟩
    · rw [hexec, takePicBegin_badSize hbad]
      rfl
    · have hfind : findObject k (half body 0) q = none := (findObject_eq_none_iff k _ q).mpr hnone
      rw [hexec, takePicBegin_new hpos htop hfind]
    · have hrefused : ¬keyAllows (keyOf r p) x.key = true := mt (keyAllows_iff _ _).mp (not_or.mpr ⟨hzero, hother⟩)
      rw [hexec, takePicBegin_refused hpos htop (by exact hfind) hrefused]
      rfl
    · rw [hexec, takePicBegin_replaces hpos htop (by exact hfind) ((keyAllows_iff _ _).mpr hkey),
        countPic_cutIfOnAir_removeObject, id_of_findObject hfind]
      rfl
  case admission =>
    intro q p k key body size need free c
    refine ⟨fun hpages hrecords => ?_, fun hfull => ?_, fun n => (mem_freePages _ n).mp, freePages_pairwise _,
      fun n hn hheld => (mem_freePages _ n).mpr ⟨hn, hheld⟩⟩
    · rw [admitObject_of_room (by exact hpages) hrecords]
      rfl
    · rw [admitObject_of_noRoom (by exact hfull)]
      rfl
  case delete =>
    intro s r p k body hs htaken hport q c
    have hexec : exec (.picDelete p body) s = .next (takePicDelete k (keyOf r p) body q) :=
      exec_forService hs htaken hport
    refine ⟨fun hnone => ?_, fun x hfind => ⟨fun hzero hother => ?_, fun hkey => ?_⟩⟩
    · have hfind : findObject k (half body 0) q = none := (findObject_eq_none_iff k _ q).mpr hnone
      rw [hexec, takePicDelete_of_none hfind]
      rfl
    · have hrefused : ¬keyAllows (keyOf r p) x.key = true := mt (keyAllows_iff _ _).mp (not_or.mpr ⟨hzero, hother⟩)
      rw [hexec, takePicDelete_refused (by exact hfind) hrefused]
      rfl
    · rw [hexec, takePicDelete_removes (by exact hfind) ((keyAllows_iff _ _).mpr hkey),
        countPic_cutIfOnAir_removeObject, id_of_findObject hfind]
      rfl

end Sys2Proof.Machine
end

section
/-! PROOFS. The alert sources and the alert lines: what the image gives of them, and every change of a mark (R152 to
R155). -/

namespace Sys2Proof.Machine

/-! ### What the image gives (R152, R153) -/

section
variable {s : State} {i : Image} (h : s.cfl.image = some i)
include h

theorem lineSettings_of_image (l : LineIx) : lineSettings s l = some i.lines[l] := by
  unfold lineSettings
  rw [h]
  rfl

theorem sourceEnabled_line (l : LineIx) : sourceEnabled s (lineSource l) = i.lines[l].enabled := by
  have hany : sourceEnabled s (lineSource l) = (lineSettings s l).any (·.enabled) := by fin_cases l <;> rfl
  rw [hany, lineSettings_of_image h]
  rfl

theorem sourceEnabled_feed : sourceEnabled s .feed = i.feedAlert := by
  show s.cfl.image.any (·.feedAlert) = _
  rw [h]
  rfl

theorem lineActive_of_image (l : LineIx) : lineActive s l = decide (s.lines[l] = i.lines[l].activeHigh) := by
  unfold lineActive
  rw [lineSettings_of_image h]
  rfl

theorem lineIsLevel_of_image (l : LineIx) : lineIsLevel s l = decide (i.lines[l].mode = .level) := by
  unfold lineIsLevel
  rw [lineSettings_of_image h]
  rfl

end

/-! ### A source written -/

theorem Sources.get_set (t : Sources) (x : Source) (i j : SourceId) :
    (t.set x i).get j = if j = i then x else t.get j := by
  cases i <;> cases j <;> rfl

theorem Sources.set_get (t : Sources) (i : SourceId) : t.set (t.get i) i = t := by cases i <;> rfl

@[simp] theorem modifySource_modifySource (i : SourceId) (f g : Source → Source) (s : State) :
    modifySource i g (modifySource i f s) = modifySource i (fun x => g (f x)) s := by
  cases i <;> rfl

/-- An update that leaves the source as it is leaves the state. -/
theorem modifySource_of_fixed {i : SourceId} {f : Source → Source} {s : State}
    (h : f (s.alc.sources.get i) = s.alc.sources.get i) : modifySource i f s = s := by
  unfold modifySource
  rw [h, Sources.set_get]

/-- A mark set by an event that is counted. -/
theorem lineEvent_setRaised (l : LineIx) (b : Bool) (s : State) : lineEvent l (setRaised (lineSource l) b s) =
    modifySource (lineSource l) (fun x => { x with
      raised := b, counters.lineEvents := bump x.counters.lineEvents }) s :=
  modifySource_modifySource _ _ _ s

/-- Urgencies are brought into 1 to 3 (R152, R164). -/
theorem clampUrgency_eq (n : Nat) : clampUrgency n = max 1 (min n 3) := by
  unfold clampUrgency
  split <;> omega

theorem clampUrgency_eq_self_iff (n : Nat) : clampUrgency n = n ↔ 1 ≤ n ∧ n ≤ 3 := by
  rw [clampUrgency_eq]
  omega

theorem askSource_eq (j : SourceId) (u : Nat) (m : Byte) (text : List Byte) (s : State) :
    askSource j u m text s = modifySource j (fun x => { x with
      values := some ⟨max 1 (min u 3), m, text⟩, raised := true
      counters.clamps := if 1 ≤ u ∧ u ≤ 3 then x.counters.clamps else bump x.counters.clamps }) s := by
  have hclamps (n : Nat) :
      bumpBy n (bit (clampUrgency u != u) 1) = if 1 ≤ u ∧ u ≤ 3 then n else bump n := by
    rw [bumpBy_bit]
    simp only [bne_iff_ne, ne_eq, clampUrgency_eq_self_iff, ite_not]
  unfold askSource
  simp only [hclamps]
  simp only [clampUrgency_eq]

/-! ### A line's mark (R153, R155) -/

/-- A line's source with its mark set to `on`, a change of it counted. -/
def remarked (on : Bool) (x : Source) : Source :=
  if x.raised = on then x else { x with raised := on, counters.lineEvents := bump x.counters.lineEvents }

theorem sampleLevel_eq (l : LineIx) (s : State) : sampleLevel l s =
    modifySource (lineSource l) (remarked (sourceEnabled s (lineSource l) && lineActive s l)) s := by
  unfold sampleLevel
  dsimp only
  split
  · rename_i h
    rw [modifySource_of_fixed]
    exact if_pos h
  · rename_i h
    unfold modifySource remarked
    rw [if_neg h, lineEvent_setRaised]
    rfl

/-- A line's source as a stop leaves it: in EDGE mode without its mark, in LEVEL mode sampled. -/
def stoppedLine (c : LineSettings) (high : Bool) (x : Source) : Source :=
  if c.mode = .edge then { x with raised := false } else remarked (c.enabled && decide (high = c.activeHigh)) x

theorem stopLine_eq {s : State} {i : Image} (h : s.cfl.image = some i) (l : LineIx) :
    stopLine l s = modifySource (lineSource l) (stoppedLine i.lines[l] s.lines[l]) s := by
  unfold stopLine
  rw [lineIsLevel_of_image h]
  cases hmode : i.lines[l].mode with
  | edge =>
    unfold stoppedLine
    rw [hmode]
    rfl
  | level =>
    unfold stoppedLine
    rw [hmode, decide_eq_true rfl, if_pos rfl, sampleLevel_eq, sourceEnabled_line h, lineActive_of_image h]
    rfl

/-- The unit with the sources as given. -/
def withSources (t : Sources) (s : State) : State := { s with alc.sources := t }

theorem setRaised_withSources (j : SourceId) (on : Bool) (t : Sources) (s : State) :
    setRaised j on (withSources t s) = withSources (t.set { t.get j with raised := on } j) s := rfl

theorem stopLine_withSources {s : State} {i : Image} (h : s.cfl.image = some i) (l : LineIx) (t : Sources) :
    stopLine l (withSources t s) =
      withSources (t.set (stoppedLine i.lines[l] s.lines[l] (t.get (lineSource l))) (lineSource l)) s :=
  stopLine_eq (s := withSources t s) h l

theorem clearSources_eq {s : State} {i : Image} (h : s.cfl.image = some i) : clearSources s = { s with
    alc.sources := ⟨stoppedLine i.lines[(0 : LineIx)] s.lines[(0 : LineIx)] s.alc.sources.al0,
      stoppedLine i.lines[(1 : LineIx)] s.lines[(1 : LineIx)] s.alc.sources.al1,
      { s.alc.sources.feed with raised := false }, { s.alc.sources.supv with raised := false },
      { s.alc.sources.test with raised := false }⟩ } := by
  show clearSources (withSources s.alc.sources s) = _
  unfold clearSources
  simp only [setRaised_withSources, stopLine_withSources h]
  rfl

/-! ### A change of a line's level (R153) -/

section
variable {s : State} {i : Image} {l : LineIx}

theorem changeLine_of_idle {high : Bool} (h : s.pvw.unit.running = false ∨ sourceEnabled s (lineSource l) = false) :
    changeLine l high s = { s with lines := s.lines.set l high } :=
  if_pos (by obtain h | h := h <;> simp [h])

theorem changeLine_of_followed (high : Bool) (hi : s.cfl.image = some i) (hu : s.pvw.unit.running = true)
    (he : i.lines[l].enabled = true) : changeLine l high s =
      let t := { s with lines := s.lines.set l high }
      let c := i.lines[l]
      if c.mode = .level then modifySource (lineSource l) (remarked (decide (high = c.activeHigh))) t
      else if high = c.activeHigh ∧ s.lines[l] ≠ c.activeHigh then lineEvent l (setRaised (lineSource l) true t)
      else t := by
  have ht : ({ s with lines := s.lines.set l high } : State).cfl.image = some i := hi
  have hlevel : (s.lines.set l high)[l] = high := by simp
  unfold changeLine
  dsimp only
  rw [sourceEnabled_line hi, he, hu, if_neg (by decide), sampleLevel_eq, sourceEnabled_line ht, he,
    lineActive_of_image ht, lineActive_of_image hi, lineIsLevel_of_image ht]
  dsimp only
  rw [hlevel]
  simp only [Bool.true_and, Bool.and_eq_true, Bool.not_eq_true', decide_eq_true_eq, decide_eq_false_iff_not]

end

/-- Settles O42: `changeLine_of_followed` in each mode, and `changeLine_of_idle`. -/
theorem alertLineOutcome : Obligations.AlertLineOutcome := by
  unfold Obligations.AlertLineOutcome
  refine ⟨?followed, ?idle⟩
  case followed =>
    intro s r l high i hs hi hu he c x on marked
    have hexec : exec (.alertLineChange l high) s = .next (changeLine l high r) := by subst hs; rfl
    rw [hexec, changeLine_of_followed high hi hu he]
    dsimp only
    refine ⟨fun hmode hmark => ?_, fun hmode hmark => ?_, fun hmode hactive hwas => ?_, fun hmode hno => ?_⟩
    · have hchange : remarked on x = { x with raised := on, counters.lineEvents := bump x.counters.lineEvents } :=
        if_neg hmark
      rw [if_pos hmode]
      show Host.Outcome.next (modifySource (lineSource l) (remarked on) _) = _
      unfold modifySource
      dsimp only
      rw [hchange]
    · rw [if_pos hmode, modifySource_of_fixed]
      exact if_pos hmark
    · rw [if_neg (by rw [hmode]; nofun), if_pos ⟨hactive, hwas⟩, lineEvent_setRaised]
      rfl
    · rw [if_neg (by rw [hmode]; nofun), if_neg (by rintro ⟨ha, hw⟩; exact hno.elim (· ha) hw)]
  case idle =>
    intro s r l high hs hidle
    have hexec : exec (.alertLineChange l high) s = .next (changeLine l high r) := by subst hs; rfl
    rw [hexec, changeLine_of_idle]
    exact hidle.imp_right fun ⟨i, hi, he⟩ => (sourceEnabled_line hi l).trans he

end Sys2Proof.Machine
end

section
/-! PROOFS. ALERT_REQ and ALERT_CLEAR at the ALERT port (R152, R154). -/

namespace Sys2Proof.Machine

theorem roleOf_of_image {s : State} {i : Image} (h : s.cfl.image = some i) (p : PortId) : roleOf s p = i.roles[p] := by
  unfold roleOf
  rw [h]
  rfl

/-- A packet taken at the ALERT port is handed to the alert blocks (R108). -/
theorem exec_forAlert {s r : State} {f : FeedKind} {p : PortId} {i : Image} {body : List Byte} (hs : settle s = r)
    (h : FeedTaken f p body r) (hi : r.cfl.image = some i) (hp : i.roles[p] = .alert) :
    exec (feedCommand f p body) s = .next (forAlert p f body (tookFeed f p r)) := by
  have hrole : roleOf (tookFeed f p r) p = .alert := (roleOf_of_image (s := tookFeed f p r) hi p).trans hp
  rw [exec_feedTaken hs h, dispatchFeed_alert hrole]

theorem takeAlertReq_of_enabled {body : List Byte} {s : State} (h : sourceEnabled s .feed = true) :
    takeAlertReq body s = askSource .feed (byteAt body 0).toNat (byteAt body 1) (body.drop 2) s := if_pos h

theorem takeAlertReq_of_disabled {body : List Byte} {s : State} (h : sourceEnabled s .feed = false) :
    takeAlertReq body s =
      modifySource .feed (fun x => { x with counters.disabledRequests := bump x.counters.disabledRequests }) s :=
  if_neg (by simp [h])

theorem clearEdge_eq {s : State} {i : Image} (h : s.cfl.image = some i) (l : LineIx) : clearEdge l s =
    modifySource (lineSource l) (fun x => { x with raised := decide (i.lines[l].mode = .level) && x.raised }) s := by
  unfold clearEdge
  rw [lineIsLevel_of_image h]
  by_cases hmode : i.lines[l].mode = .level
  · rw [decide_eq_true hmode, if_pos rfl, modifySource_of_fixed]
    rfl
  · rw [decide_eq_false hmode, if_neg Bool.false_ne_true]
    rfl

theorem takeAlertClear_eq {s : State} {i : Image} (h : s.cfl.image = some i) : takeAlertClear s = { s with
    alc.counters.clears := bump s.alc.counters.clears
    alc.sources.feed.raised := if i.feedAlert then false else s.alc.sources.feed.raised
    alc.sources.al0.raised := decide (i.lines[(0 : LineIx)].mode = .level) && s.alc.sources.al0.raised
    alc.sources.al1.raised := decide (i.lines[(1 : LineIx)].mode = .level) && s.alc.sources.al1.raised } := by
  have hedges (t : State) (ht : t.cfl.image = some i) : clearEdge 1 (clearEdge 0 t) = { t with
      alc.sources.al0.raised := decide (i.lines[(0 : LineIx)].mode = .level) && t.alc.sources.al0.raised
      alc.sources.al1.raised := decide (i.lines[(1 : LineIx)].mode = .level) && t.alc.sources.al1.raised } := by
    rw [clearEdge_eq ht 0]
    exact clearEdge_eq (s := modifySource (lineSource 0) _ t) ht 1
  unfold takeAlertClear
  dsimp only
  rw [sourceEnabled_feed h]
  cases i.feedAlert with
  | true => exact hedges { setRaised .feed false s with alc.counters.clears := bump s.alc.counters.clears } h
  | false => exact hedges { s with alc.counters.clears := bump s.alc.counters.clears } h

/-- Settles O38: the packet reaches ALC by `exec_forAlert`; the request is `askSource_eq`, the clear
`takeAlertClear_eq`. -/
theorem alertFeedOutcome : Obligations.AlertFeedOutcome := by
  unfold Obligations.AlertFeedOutcome
  refine ⟨?request, ?clear⟩
  case request =>
    intro s r p i body hs h hi hp q x u
    have hexec : exec (.alertReq p body) s = .next (takeAlertReq body q) := exec_forAlert hs h hi hp
    have henabled : sourceEnabled q .feed = i.feedAlert := sourceEnabled_feed (s := q) hi
    rw [hexec]
    refine ⟨fun hon => ?_, fun hoff => ?_⟩
    · rw [takeAlertReq_of_enabled (henabled.trans hon), askSource_eq]
      rfl
    · rw [takeAlertReq_of_disabled (henabled.trans hoff)]
      rfl
  case clear =>
    intro s r p i hs h hi hp q t
    have hexec : exec (.alertClear p []) s = .next (takeAlertClear q) := exec_forAlert hs h hi hp
    rw [hexec, takeAlertClear_eq (s := q) hi]
    rfl

end Sys2Proof.Machine
end

section
/-! PROOFS. ALERT_START, ALERT_TEST and ALERT_STOP (R152, R153, R155). -/

namespace Sys2Proof.Machine

theorem alertTextOk_iff (text : List Byte) : alertTextOk text = true ↔ 1 ≤ text.length ∧ text.length ≤ 128 := by
  simp [alertTextOk]

section
variable {b : List Byte} {s : State}

theorem alertStart_of_text (h : 1 ≤ (b.drop 2).length ∧ (b.drop 2).length ≤ 128) : alertStart b s =
    ⟨askSource .supv (byteAt b 0).toNat (byteAt b 1) (b.drop 2) s, .done, .none⟩ := if_pos ((alertTextOk_iff _).mpr h)

theorem alertStart_refused (h : (b.drop 2).length = 0 ∨ 128 < (b.drop 2).length) :
    alertStart b s = ⟨s, .refusedArg, .none⟩ := if_neg (by rw [alertTextOk_iff]; omega)

theorem alertTest_of_text (h : 1 ≤ (b.drop 1).length ∧ (b.drop 1).length ≤ 128) : alertTest b s =
    ⟨askSource .test 3 (byteAt b 0) (b.drop 1) s, .done, .none⟩ := if_pos ((alertTextOk_iff _).mpr h)

theorem alertTest_refused (h : (b.drop 1).length = 0 ∨ 128 < (b.drop 1).length) :
    alertTest b s = ⟨s, .refusedArg, .none⟩ := if_neg (by rw [alertTextOk_iff]; omega)

/-- A stop clears the marks, and marks a live alert to be stopped. -/
theorem alertStop_eq {i : Image} (h : s.cfl.image = some i) : alertStop b s = ⟨{ s with alc := { s.alc with
    stopMark := s.alc.stopMark || decide (s.alc.localAlert.state = .announced ∨ s.alc.localAlert.state = .on)
    sources := ⟨stoppedLine i.lines[(0 : LineIx)] s.lines[(0 : LineIx)] s.alc.sources.al0,
      stoppedLine i.lines[(1 : LineIx)] s.lines[(1 : LineIx)] s.alc.sources.al1,
      { s.alc.sources.feed with raised := false }, { s.alc.sources.supv with raised := false },
      { s.alc.sources.test with raised := false }⟩ } }, .done, .none⟩ := by
  unfold alertStop done
  rw [clearSources_eq h]
  dsimp only
  by_cases hlive : s.alc.localAlert.state = .announced ∨ s.alc.localAlert.state = .on
  · rw [if_pos ((isLive_iff _).mpr hlive), decide_eq_true hlive, Bool.or_true]
  · rw [if_neg (mt (isLive_iff _).mp hlive), decide_eq_false hlive, Bool.or_false]

end

/-- Settles O50: each request is acted on by `exec_of_taken`; a source asked is `askSource_eq`, a stop
`alertStop_eq`. -/
theorem alertRequestsOutcome : Obligations.AlertRequestsOutcome := by
  unfold Obligations.AlertRequestsOutcome
  refine ⟨?start, ?test, ?stop⟩
  case start =>
    intro s r q rs hr htaken x text u c
    refine ⟨fun h1 h128 => ?_, fun hbad => exec_of_taken rfl hr htaken (alertStart_refused hbad)⟩
    rw [exec_of_taken rfl hr htaken (alertStart_of_text ⟨h1, h128⟩), askSource_eq]
    rfl
  case test =>
    intro s r q rs hr htaken x text
    refine ⟨fun h1 h128 => ?_, fun hbad => exec_of_taken rfl hr htaken (alertTest_refused hbad)⟩
    rw [exec_of_taken rfl hr htaken (alertTest_of_text ⟨h1, h128⟩), askSource_eq]
    rfl
  case stop =>
    intro s r q rs i hr htaken hi x after
    rw [exec_of_taken rfl hr htaken (alertStop_eq (s := inHand q rs r) hi)]
    rfl

end Sys2Proof.Machine
end

section
/-! PROOFS. The records of the alert table: the first of an id, what a frame reached does to one, and ALERT_END (R158,
R162, R163, R167). -/

namespace Sys2Proof.Machine

/-! ### The first record of an id -/

/-- `x` is the first record of id `i` in the table `t`, behind `a` and before `b`. -/
structure FirstRecord (i : AlertId) (t a : List AlertRecord) (x : AlertRecord) (b : List AlertRecord) : Prop where
  table  : t = a ++ x :: b
  before : ∀ y ∈ a, y.id ≠ i
  id     : x.id = i

section
variable {i : AlertId} {t a b : List AlertRecord} {x : AlertRecord}

theorem FirstRecord.find (h : FirstRecord i t a x b) : t.find? (fun y => y.id = i) = some x := by
  rw [h.table, List.find?_append, List.find?_eq_none.mpr (fun y hy => by simp [h.before y hy]), Option.none_or,
    List.find?_cons_of_pos (by simp [h.id])]

theorem FirstRecord.modify (h : FirstRecord i t a x b) (f : AlertRecord → AlertRecord) :
    modifyFirst (fun y => y.id = i) f t = a ++ f x :: b := by
  rw [h.table]
  exact modifyFirst_append _ f a b x (fun y hy => decide_eq_false (h.before y hy)) (decide_eq_true h.id)

theorem FirstRecord.modifyRecord {s : State} (h : FirstRecord i s.alc.table a x b) (f : AlertRecord → AlertRecord) :
    modifyRecord i f s = { s with alc.table := a ++ f x :: b } := by
  rw [← h.modify f]
  rfl

end

theorem find_record_eq_none_iff (i : AlertId) (t : List AlertRecord) :
    t.find? (fun y => y.id = i) = none ↔ ∀ y ∈ t, y.id ≠ i := by
  simp [List.find?_eq_none]

/-- Where no record has the id there is none to change. -/
theorem modifyFirst_of_none {i : AlertId} {t : List AlertRecord} (h : ∀ y ∈ t, y.id ≠ i)
    (f : AlertRecord → AlertRecord) : modifyFirst (fun y => y.id = i) f t = t := by
  induction t with
  | nil => rfl
  | cons y t ih =>
    obtain ⟨hy, ht⟩ := List.forall_mem_cons.mp h
    rw [modifyFirst, if_neg (by simp [hy]), ih ht]

/-! ### A frame reached (R158, R162, R163) -/

theorem startRecord_eq (x : AlertRecord) :
    startRecord x = { x with state := if x.stop = none then .active else .ending } := by
  unfold startRecord
  cases x.stop <;> rfl

/-- Settles O43: each event is due (`due_…_iff`) and taken by `runEvent_due`; a record is found by
`FirstRecord.find`. -/
theorem alertRecordEventsOutcome : Obligations.AlertRecordEventsOutcome := by
  unfold Obligations.AlertRecordEventsOutcome
  refine ⟨?on, ?idle, ?start, ?ended⟩
  case on =>
    intro s t rest n f ht hstate hstart hn hl
    exact congrArg _ (runEvent_due ht ((due_localAlertOn_iff t).mpr ⟨hstate, f, hstart, n, hn, hl⟩))
  case idle =>
    intro s t rest n f ht hstate hstop hn hl c
    exact congrArg _ (runEvent_due ht ((due_localAlertIdle_iff t).mpr ⟨hstate, f, hstop, n, hn, hl⟩))
  case start =>
    intro s t rest i n a b x ht hv htable ha hid hstate hn hl
    have hx : FirstRecord i t.alc.table a x b := ⟨htable, ha, hid⟩
    have hdue : due (.alertRecordStart i) t = true :=
      (due_alertRecordStart_iff t i).mpr ⟨hv, x, hx.find, hstate, n, hn, hl⟩
    have hexec : exec (.alertRecordStart i) s = .next (advance rest (modifyRecord i startRecord t)) :=
      congrArg _ (runEvent_due ht hdue)
    rw [hexec, hx.modifyRecord, startRecord_eq]
  case ended =>
    intro s t rest i n a b x e ht hv htable ha hid hstop hn hl
    have hx : FirstRecord i t.alc.table a x b := ⟨htable, ha, hid⟩
    exact congrArg _ (runEvent_due ht ((due_alertRecordEnded_iff t i).mpr ⟨hv, x, e, hx.find, hstop, n, hn, hl⟩))

/-! ### ALERT_END (R167) -/

/-- The end frame a record takes: a removal that comes no later stands. -/
def endKept (stop : Option EndFrame) (given : FrameNo) : FrameNo :=
  stop.elim given (fun x => if x.byRemoval = true ∧ later x.frame given = false then x.frame else given)

theorem endTaken_eq (x : AlertRecord) (carried given : FrameNo) : endTaken x carried given = { x with
    stop := some ⟨endKept x.stop given, false⟩, receivedEnd := some carried
    state := if x.state = .active then .ending else x.state } := by
  unfold endTaken endKept
  cases x.stop <;> simp [withStop]

theorem endGiven_of_now {s : State} {n : FrameNo} (h : s.ftu.now = some n) (e : FrameNo) : endGiven s e =
    if later e (plus n (leadOf s)) then (e, false) else (plus n (leadOf s + 1), true) := by
  unfold endGiven
  rw [h]

section
variable {u : UnitId} {body : List Byte} {s : State}

theorem takeAlertEnd_ignored (hv : s.pvw.unit.viewing = false) : takeAlertEnd u body s =
    { s with alc.counters.ignoredByState := bump s.alc.counters.ignoredByState } := if_pos (by simp [hv])

theorem takeAlertEnd_foreign (hv : s.pvw.unit.viewing = true) (hu : (alertIdAt body 0).unit.toNat ≠ u.val) :
    takeAlertEnd u body s = { s with alc.counters.foreignAlerts := bump s.alc.counters.foreignAlerts } := by
  unfold takeAlertEnd
  dsimp only
  rw [if_neg (by simp [hv]), if_pos hu]

variable (hv : s.pvw.unit.viewing = true) (hu : (alertIdAt body 0).unit.toNat = u.val)
include hv hu

theorem takeAlertEnd_unknown (h : ∀ x ∈ s.alc.table, x.id ≠ alertIdAt body 0) : takeAlertEnd u body s =
    { s with alc.counters.unknownEnds := bump s.alc.counters.unknownEnds } := by
  unfold takeAlertEnd
  dsimp only
  rw [if_neg (by simp [hv]), if_neg (by simpa using hu), (find_record_eq_none_iff _ _).mpr h]

variable {a b : List AlertRecord} {x : AlertRecord} (hx : FirstRecord (alertIdAt body 0) s.alc.table a x b)
include hx

theorem takeAlertEnd_refresh (h : x.receivedEnd.isSome = true) : takeAlertEnd u body s =
    { s with alc.counters.endRefreshes := bump s.alc.counters.endRefreshes } := by
  unfold takeAlertEnd
  dsimp only
  rw [if_neg (by simp [hv]), if_neg (by simpa using hu), hx.find]
  exact if_pos h

theorem takeAlertEnd_taken (h : x.receivedEnd = none) : takeAlertEnd u body s =
    let given := endGiven s (frameAt body 2)
    { s with alc := { s.alc with
      table := a ++ { x with
        stop := some ⟨endKept x.stop given.1, false⟩, receivedEnd := some (frameAt body 2)
        state := if x.state = .active then .ending else x.state } :: b
      counters.endsClamped := if given.2 then bump s.alc.counters.endsClamped else s.alc.counters.endsClamped } } := by
  unfold takeAlertEnd
  dsimp only
  rw [if_neg (by simp [hv]), if_neg (by simpa using hu), hx.find]
  dsimp only
  rw [if_neg (by simp [h]), hx.modifyRecord, endTaken_eq, bumpBy_bit]

end

/-- Settles O31: the packet is handed on by `exec_good` and met by the cases of `takeAlertEnd`; the frame is
`endKept`. -/
theorem alertEndOutcome : Obligations.AlertEndOutcome := by
  unfold Obligations.AlertEndOutcome
  intro s r p u hs hp hc q i e
  have hexec : exec (.alertEnd p) s = .next (takeAlertEnd u p.body q) := exec_good hs hp hc rfl
  rw [hexec]
  refine ⟨fun hv => ?_, fun hv hu => ?_, fun hv hu hnone => ?_, fun a b x hv hu htable ha hid =>
    ⟨fun hheld => ?_, fun n hheld hn => ?_⟩⟩
  · rw [takeAlertEnd_ignored hv]
  · rw [takeAlertEnd_foreign hv hu]
  · rw [takeAlertEnd_unknown hv hu hnone]
  · rw [takeAlertEnd_refresh hv hu ⟨htable, ha, hid⟩ hheld]
  · intro given
    refine ⟨endKept x.stop given, ?_, fun h => by rw [h]; rfl, fun y h => by rw [h]; rfl⟩
    rw [takeAlertEnd_taken hv hu ⟨htable, ha, hid⟩ hheld, endGiven_of_now hn]
    dsimp only [given, e]
    cases later (frameAt p.body 2) (plus n (leadOf q)) <;> rfl

end Sys2Proof.Machine
end

section
/-! PROOFS. A packet of ALC's handed to LKP, and the end of the own alert (R160, R161). -/

namespace Sys2Proof.Machine

/-! ### A hand-in (R161) -/

/-- LKP once a packet has joined the queue last, where a place is free, and a free transmitter has taken what it may
serve. -/
def joinedLkp (p : TxPacket) (s : State) : Lkp := servedLkp s { s.lkp with queue := s.lkp.queue ++ [p] }

/-- In `t` the link, and what its transmitter reads of the other blocks, are as in `r`. -/
structure SameLink (r t : State) : Prop where
  lkp  : t.lkp = r.lkp
  unit : t.pvw.unit = r.pvw.unit
  ftu  : t.ftu = r.ftu
  cfl  : t.cfl = r.cfl

theorem SameLink.joinedLkp {r t : State} (h : SameLink r t) (p : TxPacket) : joinedLkp p t = joinedLkp p r := by
  unfold Machine.joinedLkp
  rw [h.lkp, servedLkp_congr _ h.unit h.ftu h.cfl]

section
variable (k : Kind) (body : List Byte) (s : State)

/-- A hand-in changes LKP, the flags and the count of refusals alone. -/
theorem handAlert_fields : ∃ l p c, handAlert k body s = { s with
    lkp := l, sup := p, alc.counters.refusedHandIns := c } := by
  unfold handAlert
  dsimp only
  rw [handIn_eq]
  split
  · exact ⟨_, _, s.alc.counters.refusedHandIns, rfl⟩
  · exact ⟨_, _, _, rfl⟩

variable {s}

theorem flagSet_handFirst {f : Flag} (h : flagSet f s = true) : flagSet f (handFirst k body s) = true := by
  have hkept := (handIn_supplied ⟨k, 0, 0, body⟩ { s with alc.repeatCount := 0, progress.alertSent := true }).flags f h
  unfold handFirst handAlert
  dsimp only
  split
  · exact hkept
  · exact hkept

variable {k} {r : State} (h : SameLink r s) (hk : k ≠ .presence) (hv : r.pvw.unit.viewing = true)
  (hroom : r.lkp.queue.length < 64)
include h hk hv hroom

theorem handAlert_of_room : handAlert k body s = { s with lkp := joinedLkp ⟨k, 0, 0, body⟩ r } := by
  have hqueue : supersede s.lkp.queue ⟨k, 0, 0, body⟩ = s.lkp.queue := if_neg hk
  have hin := handIn_of_enqueue (enqueue_of_room (p := ⟨k, 0, 0, body⟩) (h.unit ▸ hv)
    (by rw [hqueue, h.lkp]; exact hroom))
  unfold handAlert
  rw [hin, hqueue, ← h.joinedLkp]
  rfl

theorem handFirst_of_room : handFirst k body s = { s with
    lkp := joinedLkp ⟨k, 0, 0, body⟩ r, progress.alertSent := true, alc.repeatCount := 0 } :=
  handAlert_of_room (s := { s with alc.repeatCount := 0, progress.alertSent := true }) body
    ⟨h.lkp, h.unit, h.ftu, h.cfl⟩ hk hv hroom

omit hv hroom in
/-- What a packet that restarts the repeat count leaves; with a place free, LKP with the packet and no refusal. -/
theorem handFirst_fields : ∃ l p c, handFirst k body s = { s with
      lkp := l, sup := p, progress.alertSent := true, alc.repeatCount := 0, alc.counters.refusedHandIns := c } ∧
    (r.pvw.unit.viewing = true → r.lkp.queue.length < 64 →
      l = joinedLkp ⟨k, 0, 0, body⟩ r ∧ p = s.sup ∧ c = s.alc.counters.refusedHandIns) := by
  obtain ⟨l, p, c, e⟩ := handAlert_fields k body { s with alc.repeatCount := 0, progress.alertSent := true }
  refine ⟨l, p, c, e, fun hv hroom => ?_⟩
  have hsame := e.symm.trans (handFirst_of_room body h hk hv hroom)
  have hl := congrArg State.lkp hsame
  have hp := congrArg State.sup hsame
  have hc := congrArg (fun x => x.alc.counters.refusedHandIns) hsame
  exact ⟨hl, hp, hc⟩

end

/-! ### The end of the own alert (R160) -/

section
variable {i : AlertId} {s : State}

/-- ALC as the end of the own alert at `e` leaves it. -/
def endedAlc (i : AlertId) (e : FrameNo) (c : Alc) : Alc :=
  { c with
    localAlert := { c.localAlert with state := .ending, stop := some e }, repeatCount := 0
    table := modifyFirst (fun x => x.id = i) (withStop ⟨e, false⟩) c.table }

theorem endOwn_eq (h : s.alc.localAlert.id = some i) (n : FrameNo) : endOwn n s =
    handFirst .alertEnd (alertEndBytes i (plus n (leadOf s + 2)))
      { s with alc := { endedAlc i (plus n (leadOf s + 2)) s.alc with repeatCount := s.alc.repeatCount } } := by
  unfold endOwn
  rw [h]
  rfl

theorem endOwn_fields {r : State} (h : s.alc.localAlert.id = some i) (n : FrameNo) (hl : SameLink r s) :
    let e := plus n (leadOf s + 2)
    ∃ l p c, endOwn n s = { s with
      lkp := l, sup := p, progress.alertSent := true
      alc := { endedAlc i e s.alc with counters.refusedHandIns := c } } ∧
    (r.pvw.unit.viewing = true → r.lkp.queue.length < 64 →
      l = joinedLkp ⟨.alertEnd, 0, 0, alertEndBytes i e⟩ r ∧ p = s.sup ∧ c = s.alc.counters.refusedHandIns) := by
  intro e
  rw [endOwn_eq h]
  exact handFirst_fields (r := r) (s := { s with alc := { endedAlc i e s.alc with repeatCount := s.alc.repeatCount } })
    _ ⟨hl.lkp, hl.unit, hl.ftu, hl.cfl⟩ (by decide)

end

end Sys2Proof.Machine
end

section
/-! PROOFS. The search for the first of the least, by which the winner of the sources and the worst record are found
(R157, R165). -/

namespace Sys2Proof.Machine

/-! ### The first of the least -/

section
variable {α : Type} {p : α → α → Bool}

/-- One step of the search: an element stands until one is `p`-before it. -/
def leastSoFar (p : α → α → Bool) (acc : Option α) (x : α) : Option α :=
  acc.elim (some x) (fun a => if p x a then some x else some a)

theorem foldl_leastSoFar_eq_none_iff (l : List α) : l.foldl (leastSoFar p) none = none ↔ l = [] := by
  induction l using List.reverseRecOn with
  | nil => simp
  | append_singleton l x _ =>
    rw [List.foldl_append, List.foldl_cons, List.foldl_nil]
    cases l.foldl (leastSoFar p) none with
    | none => simp [leastSoFar]
    | some a => simp [leastSoFar, ← apply_ite some]

/-- Where `p` compares a key, what is found has a key below those before it and not above those behind it. -/
theorem foldl_leastSoFar_least {K : Type} [LinearOrder K] {key : α → K} {x : α} (l : List α) :
    (∀ y ∈ l, ∀ z ∈ l, p y z = true ↔ key y < key z) → l.foldl (leastSoFar p) none = some x →
    ∃ a b, l = a ++ x :: b ∧ (∀ y ∈ a, key x < key y) ∧ ∀ y ∈ b, key x ≤ key y := by
  induction l using List.reverseRecOn generalizing x with
  | nil => exact fun _ hx => nomatch hx
  | append_singleton l r ih =>
    intro h hx
    rw [List.foldl_append, List.foldl_cons, List.foldl_nil] at hx
    have hl : ∀ y ∈ l, y ∈ l ++ [r] := fun y hy => List.mem_append_left [r] hy
    have hr : r ∈ l ++ [r] := by simp
    cases hfold : l.foldl (leastSoFar p) none with
    | none =>
      obtain rfl := (foldl_leastSoFar_eq_none_iff l).mp hfold
      obtain rfl := Option.some.inj hx
      exact ⟨[], [], rfl, by simp, by simp⟩
    | some w =>
      obtain ⟨a, b, rfl, ha, hb⟩ := ih (fun y hy z hz => h y (hl y hy) z (hl z hz)) hfold
      have hw : p r w = true ↔ key r < key w := h r hr w (hl w (by simp))
      rw [hfold, leastSoFar, Option.elim_some] at hx
      by_cases hlt : p r w = true
      · rw [if_pos hlt] at hx
        obtain rfl := Option.some.inj hx
        refine ⟨a ++ w :: b, [], rfl, fun y hy => ?_, by simp⟩
        obtain hy | rfl | hy : y ∈ a ∨ y = w ∨ y ∈ b := by simpa using hy
        · exact (hw.mp hlt).trans (ha y hy)
        · exact hw.mp hlt
        · exact (hw.mp hlt).trans_le (hb y hy)
      · rw [if_neg hlt] at hx
        obtain rfl := Option.some.inj hx
        refine ⟨a, b ++ [r], by simp, ha, fun y hy => ?_⟩
        obtain hy | rfl : y ∈ b ∨ y = r := by simpa using hy
        · exact hb y hy
        · exact not_lt.mp (mt hw.mpr hlt)

end

/-! ### The winner (R157) -/

theorem winner_eq (l : List (SourceId × SourceValues)) :
    winner l = l.foldl (leastSoFar (fun x a => x.2.urgency < a.2.urgency)) none := by
  unfold winner
  congr 1
  funext acc x
  cases acc with
  | none => rfl
  | some a => simp [leastSoFar]

theorem winner_eq_none_iff (l : List (SourceId × SourceValues)) : winner l = none ↔ l = [] := by
  rw [winner_eq, foldl_leastSoFar_eq_none_iff]

theorem winner_least {l : List (SourceId × SourceValues)} {x : SourceId × SourceValues} (h : winner l = some x) :
    ∃ a b, l = a ++ x :: b ∧ (∀ y ∈ a, x.2.urgency < y.2.urgency) ∧ ∀ y ∈ b, x.2.urgency ≤ y.2.urgency := by
  rw [winner_eq] at h
  exact foldl_leastSoFar_least (key := fun y => y.2.urgency) l (fun _ _ _ _ => decide_eq_true_iff) h

/-! ### The worst record (R165) -/

theorem idBefore_iff (a b : AlertId) : idBefore a b = true ↔
    a.unit.toNat < b.unit.toNat ∨ (a.unit = b.unit ∧ a.serial.toNat < b.serial.toNat) := by
  simp [idBefore]

theorem worstRecord_eq_none_iff (now : Option FrameNo) (t : List AlertRecord) : worstRecord now t = none ↔ t = [] := by
  rw [worstRecord_eq]
  exact foldl_leastSoFar_eq_none_iff t

/-- R165's order of records as a key, starts counted from a frame `base` not later than any; the worst has the
greatest. -/
def worstKey (now : Option FrameNo) (base : FrameNo) (r : AlertRecord) : ℕ ×ₗ ℕ ×ₗ ℕ ×ₗ ℕ :=
  toLex ((valuesNow r now).urgency, toLex ((r.start - base).toNat, toLex (r.id.unit.toNat, r.id.serial.toNat)))

theorem worseThan_iff_key {now : Option FrameNo} {base : FrameNo} {a b : AlertRecord}
    (ha : (a.start - base).toNat < 8388608) (hb : (b.start - base).toNat < 8388608) :
    worseThan now a b = true ↔ worstKey now base b < worstKey now base a := by
  have hstart : a.start = b.start ↔ (b.start - base).toNat = (a.start - base).toNat := by
    rw [BitVec.toNat_inj, sub_left_inj, eq_comm]
  unfold worseThan worstKey
  simp only [Prod.Lex.toLex_lt_toLex, Bool.or_eq_true, Bool.and_eq_true, decide_eq_true_eq, beq_iff_eq, idBefore_iff,
    later_iff_of_within hb ha, hstart, BitVec.toNat_inj, eq_comm (a := (valuesNow a now).urgency)]

/-- Of the records of a table the worst has the greatest key. -/
theorem worstRecord_greatest {now : Option FrameNo} {base : FrameNo} {t : List AlertRecord} {w : AlertRecord}
    (h : worstRecord now t = some w) (hbase : ∀ y ∈ t, (y.start - base).toNat < 8388608) :
    ∀ y ∈ t, worstKey now base y ≤ worstKey now base w := by
  rw [worstRecord_eq] at h
  obtain ⟨a, b, rfl, ha, hb⟩ := foldl_leastSoFar_least (key := fun r => OrderDual.toDual (worstKey now base r)) t
    (fun y hy z hz => worseThan_iff_key (hbase y hy) (hbase z hz)) h
  intro y hy
  obtain hy | rfl | hy : y ∈ a ∨ y = w ∨ y ∈ b := by simpa using hy
  · exact (ha y hy).le
  · exact le_refl _
  · exact hb y hy

/-- What the greatest key says: the highest urgency number, then the latest start, then the highest id. -/
theorem worstKey_le {now : Option FrameNo} {base : FrameNo} {y w : AlertRecord}
    (hy : (y.start - base).toNat < 8388608) (hw : (w.start - base).toNat < 8388608)
    (h : worstKey now base y ≤ worstKey now base w) :
    (valuesNow y now).urgency ≤ (valuesNow w now).urgency ∧
      ((valuesNow y now).urgency = (valuesNow w now).urgency → later y.start w.start = false ∧
        (y.start = w.start → y.id.unit.toNat < w.id.unit.toNat ∨
          (y.id.unit = w.id.unit ∧ y.id.serial.toNat ≤ w.id.serial.toNat))) := by
  simp only [worstKey, Prod.Lex.toLex_le_toLex] at h
  refine ⟨by omega, fun hu => ?_⟩
  rw [hu] at h
  rw [← Bool.not_eq_true, later_iff_of_within hw hy]
  refine ⟨by omega, fun hs => ?_⟩
  rw [hs] at h
  rw [← BitVec.toNat_inj]
  omega

/-! ### The room rule (R165) -/

/-- A new record ranks above a held one: a lower urgency number now, then an earlier start, then a lower id. -/
theorem ranksAbove_iff (now : Option FrameNo) (x w : AlertRecord) :
    let v := (valuesNow w now).urgency
    ranksAbove now x w = true ↔ x.base.urgency < v ∨ (x.base.urgency = v ∧ (later w.start x.start = true ∨
      (x.start = w.start ∧ (x.id.unit.toNat < w.id.unit.toNat ∨
        (x.id.unit = w.id.unit ∧ x.id.serial.toNat < w.id.serial.toNat))))) := by
  simp [ranksAbove, idBefore_iff]

section
variable {x w : AlertRecord} {s : State}

theorem enterRecord_of_room (h : s.alc.table.length < 4) :
    enterRecord x s = some { s with alc.table := s.alc.table ++ [x] } := if_pos h

theorem enterRecord_of_full (h : 4 ≤ s.alc.table.length) (hw : worstRecord s.ftu.now s.alc.table = some w) :
    enterRecord x s = if ranksAbove s.ftu.now x w then
      some { evict w s with alc.table := (evict w s).alc.table ++ [x] } else none := by
  unfold enterRecord
  rw [if_neg (by omega), hw]

/-- The state as the worst record has left the table, before an own alert is ended. -/
def evicting (w : AlertRecord) (s : State) : State :=
  { s with
    alc := { s.alc with
      table := s.alc.table.filter (fun r => r.id != w.id), counters.evictions := bump s.alc.counters.evictions }
    sup := supWith .alertTableFull s }

@[inherit_doc evicting]
def evictingOwn (w : AlertRecord) (s : State) : State :=
  { evicting w s with alc.counters.endsByEviction := bump s.alc.counters.endsByEviction }

theorem evict_of_other (h : ¬(s.alc.localAlert.id = some w.id ∧ isLive s.alc.localAlert.state = true)) :
    evict w s = evicting w s := by
  unfold evict
  exact if_neg (by simpa using h)

theorem evict_of_own {n : FrameNo} (hid : s.alc.localAlert.id = some w.id)
    (hlive : isLive s.alc.localAlert.state = true)
    (hn : s.ftu.now = some n) : evict w s = endOwn n (evictingOwn w s) := by
  unfold evict
  dsimp only
  rw [if_pos (by simp [hid, hlive]), hn]
  rfl

/-- The state as the record `x` has taken the place of the worst, which is no own live alert's. -/
def replacing (w x : AlertRecord) (s : State) : State :=
  { s with
    alc := { s.alc with
      table := s.alc.table.filter (fun r => r.id != w.id) ++ [x]
      counters := { s.alc.counters with evictions := bump s.alc.counters.evictions } }
    sup := supWith .alertTableFull s }

theorem enterRecord_replaces (h : 4 ≤ s.alc.table.length) (hw : worstRecord s.ftu.now s.alc.table = some w)
    (hx : ranksAbove s.ftu.now x w = true)
    (hother : ¬(s.alc.localAlert.id = some w.id ∧ isLive s.alc.localAlert.state = true)) :
    enterRecord x s = some (replacing w x s) := by
  rw [enterRecord_of_full h hw, if_pos hx, evict_of_other hother]
  rfl

end

end Sys2Proof.Machine
end

section
/-! PROOFS. ALERT: a new id clamped, refused late or full, entered or entered for the worst record; a held id refreshed
or updated (R160, R164 to R166). -/

namespace Sys2Proof.Machine

/-! ### What a new record holds (R164) -/

theorem clampUrgency_range (n : Nat) : 1 ≤ clampUrgency n ∧ clampUrgency n ≤ 3 := by
  rw [clampUrgency_eq]
  omega

theorem clampAlertRate_range (n : Nat) : clampAlertRate n = 0 ∨
    (16 ≤ clampAlertRate n ∧ clampAlertRate n ≤ 192 ∧ clampAlertRate n % 8 = 0) := by
  unfold clampAlertRate ceilDiv
  split_ifs <;> omega

section
variable {b : AlertBody} {s : State}

theorem acceptedRecord_waiting_iff : (acceptedRecord b s).state = .waiting ↔
    ∀ n, s.ftu.now = some n → later b.start n = true := by
  rw [← Option.all_eq_true]
  unfold acceptedRecord
  dsimp only
  split
  · simp [*]
  · split <;> simp [*]

theorem acceptedRecord_stop_isSome {u : UnitId} (hu : b.id.unit.toNat = u.val) :
    (acceptedRecord b s).stop.isSome = s.alc.removals[u].isSome := by
  have hremoval : removalOf s b.id.unit = s.alc.removals[u] := by
    unfold removalOf
    rw [dif_pos (by omega)]
    simp only [hu, Fin.getElem_fin]
  show ((removalOf s b.id.unit).map _).isSome = _
  rw [Option.isSome_map, hremoval]

end

/-! ### Too late for a layout (R164, R166) -/

/-- ON_AIR or ISOLATED, and not later than now + L. -/
def TooLate (s : State) (f : FrameNo) : Prop :=
  (s.pvw.unit = .onAir ∨ s.pvw.unit = .isolated) ∧ ¬∃ n, s.ftu.now = some n ∧ later f (plus n (leadOf s)) = true

theorem tooLate_iff (s : State) (f : FrameNo) : (refusesLate s && !beyondLead s f) = true ↔ TooLate s f := by
  have hbeyond : beyondLead s f = true ↔ ∃ n, s.ftu.now = some n ∧ later f (plus n (leadOf s)) = true :=
    Option.any_eq_true ..
  rw [Bool.and_eq_true, Bool.not_eq_true', ← Bool.not_eq_true, hbeyond]
  exact and_congr_left' (emitting_iff _)

/-! ### The cases of an ALERT (R164 to R166, R169) -/

section
variable {u : UnitId} {body : List Byte} {s : State}

theorem takeAlert_ignored (hv : s.pvw.unit.viewing = false) : takeAlert u body s =
    { s with alc.counters.ignoredByState := bump s.alc.counters.ignoredByState } := if_pos (by simp [hv])

theorem takeAlert_foreign (hv : s.pvw.unit.viewing = true) (hu : (parseAlert body).id.unit.toNat ≠ u.val) :
    takeAlert u body s = { s with alc.counters.foreignAlerts := bump s.alc.counters.foreignAlerts } := by
  unfold takeAlert
  dsimp only
  rw [if_neg (by simp [hv]), if_pos hu]

variable (hv : s.pvw.unit.viewing = true) (hu : (parseAlert body).id.unit.toNat = u.val)
include hv hu

theorem takeAlert_new (h : ∀ x ∈ s.alc.table, x.id ≠ (parseAlert body).id) :
    takeAlert u body s = newAlert (parseAlert body) s := by
  unfold takeAlert
  dsimp only
  rw [if_neg (by simp [hv]), if_neg (by simpa using hu), (find_record_eq_none_iff _ _).mpr h]

theorem takeAlert_held {x : AlertRecord} (h : s.alc.table.find? (fun y => y.id = (parseAlert body).id) = some x) :
    takeAlert u body s = heldAlert (parseAlert body) x s := by
  unfold takeAlert
  dsimp only
  rw [if_neg (by simp [hv]), if_neg (by simpa using hu), h]

end

section
variable {b : AlertBody} {s : State}

theorem newAlert_late (h : TooLate s b.start) : newAlert b s = { s with
    alc.counters.lateAlerts := bump s.alc.counters.lateAlerts, sup := supWith .alertLate s } :=
  if_pos ((tooLate_iff s b.start).mpr h)

theorem newAlert_entered {t : State} (h : ¬TooLate s b.start) (ht : enterRecord (acceptedRecord b s) s = some t) :
    newAlert b s = { t with alc.counters.accepted := bump t.alc.counters.accepted } := by
  unfold newAlert
  rw [if_neg (mt (tooLate_iff s b.start).mp h), ht]

theorem newAlert_refused (h : ¬TooLate s b.start) (ht : enterRecord (acceptedRecord b s) s = none) :
    newAlert b s = { s with
      alc.counters.refusedFull := bump s.alc.counters.refusedFull, sup := supWith .alertTableFull s } := by
  unfold newAlert
  rw [if_neg (mt (tooLate_iff s b.start).mp h), ht]
  rfl

/-- The new record takes the place of the worst, whose alert is no own live one. -/
theorem newAlert_replaces {w : AlertRecord} (h : ¬TooLate s b.start) (hfull : 4 ≤ s.alc.table.length)
    (hw : worstRecord s.ftu.now s.alc.table = some w) (hx : ranksAbove s.ftu.now (acceptedRecord b s) w = true)
    (hother : ¬(s.alc.localAlert.id = some w.id ∧ isLive s.alc.localAlert.state = true)) : newAlert b s = { s with
      alc := { s.alc with
        table := s.alc.table.filter (fun y => y.id != w.id) ++ [acceptedRecord b s]
        counters := { s.alc.counters with
          accepted := bump s.alc.counters.accepted, evictions := bump s.alc.counters.evictions } }
      sup := supWith .alertTableFull s } := by
  rw [newAlert_entered h (enterRecord_replaces hfull hw hx hother)]
  rfl

variable {x : AlertRecord}

theorem heldAlert_refresh
    (h : b.update = none ∨ ∃ v w, b.update = some v ∧ x.update = some w ∧ w.frame = v.frame) :
    heldAlert b x s = { s with alc.counters.refreshes := bump s.alc.counters.refreshes } := by
  unfold heldAlert
  obtain h | ⟨v, w, hv, hw, hf⟩ := h
  · rw [h]
  · rw [hv, hw]
    exact if_pos (decide_eq_true hf)

variable {v : AlertUpdate} (hv : b.update = some v) (hother : ∀ w, x.update = some w → w.frame ≠ v.frame)
include hv hother

theorem heldAlert_of_other : heldAlert b x s =
    if refusesLate s && !beyondLead s v.frame then
      { s with alc.counters.lateUpdates := bump s.alc.counters.lateUpdates }
    else { modifyRecord x.id (fun y => { storeUpdate { v with values.urgency := clampUrgency v.values.urgency } y with
        clamped := y.clamped || clampUrgency v.values.urgency != v.values.urgency }) s with
      alc.counters.updatesStored := bump s.alc.counters.updatesStored } := by
  unfold heldAlert
  rw [hv]
  exact if_neg (by simpa [Option.any_eq_true] using hother)

theorem heldAlert_late (h : TooLate s v.frame) :
    heldAlert b x s = { s with alc.counters.lateUpdates := bump s.alc.counters.lateUpdates } := by
  rw [heldAlert_of_other hv hother, if_pos ((tooLate_iff s v.frame).mpr h)]

theorem heldAlert_stored {a d : List AlertRecord} (h : ¬TooLate s v.frame)
    (hx : FirstRecord x.id s.alc.table a x d) : heldAlert b x s = { s with alc := { s.alc with
      table := a ++ { x with
        base := (x.update.map (·.values)).getD x.base
        update := some ⟨v.frame, { v.values with urgency := max 1 (min v.values.urgency 3) }⟩
        clamped := x.clamped || decide (v.values.urgency = 0 ∨ 3 < v.values.urgency) } :: d
      counters.updatesStored := bump s.alc.counters.updatesStored } } := by
  have hclamped : (clampUrgency v.values.urgency != v.values.urgency) =
      decide (v.values.urgency = 0 ∨ 3 < v.values.urgency) := by
    rw [Bool.eq_iff_iff, bne_iff_ne, decide_eq_true_iff, ne_eq, clampUrgency_eq_self_iff]
    omega
  rw [heldAlert_of_other hv hother, if_neg (mt (tooLate_iff s v.frame).mp h), hx.modifyRecord, hclamped,
    clampUrgency_eq]
  rfl

end

/-! ### An own alert evicted (R160, R165) -/

/-- The own alert whose record is the worst ends as its record leaves: ALC and the flags after it, and LKP where a place
is free. -/
theorem evict_own_facts {w : AlertRecord} {s : State} {n : FrameNo} (hid : s.alc.localAlert.id = some w.id)
    (hlive : isLive s.alc.localAlert.state = true) (hn : s.ftu.now = some n) :
    let e := plus n (leadOf s + 2)
    let t := evict w s
    t.alc.table = s.alc.table.filter (fun y => y.id != w.id) ∧
    t.alc.localAlert = { s.alc.localAlert with state := .ending, stop := some e } ∧
    t.alc.counters.accepted = s.alc.counters.accepted ∧
    t.alc.counters.evictions = bump s.alc.counters.evictions ∧
    t.alc.counters.endsByEviction = bump s.alc.counters.endsByEviction ∧
    flagSet .alertTableFull t = true ∧
    (s.pvw.unit.viewing = true → s.lkp.queue.length < 64 →
      t.lkp = joinedLkp ⟨.alertEnd, 0, 0, alertEndBytes w.id e⟩ s) := by
  intro e t
  have ht : t = endOwn n (evictingOwn w s) := evict_of_own hid hlive hn
  have hx : (evictingOwn w s).alc.localAlert.id = some w.id := hid
  have hflag : flagSet .alertTableFull t = true := by
    rw [ht, endOwn_eq hx]
    exact flagSet_handFirst _ _ (flagSet_raiseFlag_self .alertTableFull s)
  have hgone : modifyFirst (fun y => y.id = w.id) (withStop ⟨e, false⟩) (evictingOwn w s).alc.table =
      (evictingOwn w s).alc.table := modifyFirst_of_none (fun y hy => by simpa using (List.mem_filter.mp hy).2) _
  obtain ⟨l, p, c, hfields, hroom⟩ := endOwn_fields (r := s) hx n ⟨rfl, rfl, rfl, rfl⟩
  rw [← ht] at hfields
  refine ⟨?_, by rw [hfields]; rfl, by rw [hfields]; rfl, by rw [hfields]; rfl, by rw [hfields]; rfl, hflag,
    fun hv hq => ?_⟩
  · rw [hfields]
    exact hgone
  · rw [hfields]
    exact (hroom hv hq).1

/-- Settles O30: the packet is handed on by `exec_good` and met by the cases of `takeAlert`, `newAlert` and `heldAlert`;
the room rule is `enterRecord_of_room` and `enterRecord_of_full`, the worst record `worstRecord_greatest`. -/
theorem alertOutcome : Obligations.AlertOutcome := by
  unfold Obligations.AlertOutcome
  refine ⟨?packet, fun now t => ⟨worstRecord_eq_none_iff now t, fun w hw => ⟨worstRecord_mem hw, fun base hbase y hy =>
    worstKey_le (hbase y hy) (hbase w (worstRecord_mem hw)) (worstRecord_greatest hw hbase y hy)⟩⟩⟩
  intro s r p u hs hp hc hb q b tooLate
  have hexec : exec (.alert p) s = .next (takeAlert u p.body q) := exec_good hs hp hc hb
  rw [hexec]
  refine ⟨fun hv => ?_, fun hv hu => ?_, fun hv hu hnew => ?new, fun x hv hu hx hsame => ?_,
    fun a d x v hv hu htable ha hid hupdate hother => ?_⟩
  · rw [takeAlert_ignored hv]
  · rw [takeAlert_foreign hv hu]
  case new =>
    rw [takeAlert_new hv hu hnew]
    refine ⟨fun hlate => ?_, fun hlate hroom => ?_, fun w hlate hfull hw => ?full⟩
    · rw [newAlert_late hlate]
    · rw [newAlert_entered hlate (enterRecord_of_room hroom)]
      obtain ⟨h1, h3⟩ := clampUrgency_range b.base.urgency
      exact ⟨_, rfl, rfl, rfl, rfl, rfl, rfl, h1, h3, fun hge hle => (clampUrgency_eq_self_iff _).mpr ⟨hge, hle⟩,
        clampAlertRate_range _, acceptedRecord_waiting_iff, by rw [acceptedRecord_stop_isSome hu]⟩
    case full =>
      intro x v above own rest
      have habove : ranksAbove q.ftu.now x w = true ↔ above := ranksAbove_iff q.ftu.now x w
      have hown : own ↔ q.alc.localAlert.id = some w.id ∧ isLive q.alc.localAlert.state = true :=
        and_congr_right' (isLive_iff _).symm
      refine ⟨fun hno => ?_, fun hyes hother => ?_, fun n hyes hmine hn => ?_⟩
      · rw [newAlert_refused hlate ((enterRecord_of_full hfull hw).trans (if_neg (mt habove.mp hno)))]
      · rw [newAlert_replaces hlate hfull hw (habove.mpr hyes) (mt hown.mpr hother)]
      · obtain ⟨hid, hlive⟩ := hown.mp hmine
        obtain ⟨htable, hlocal, haccepted, hevictions, hends, hflag, hlkp⟩ := evict_own_facts hid hlive hn
        have hentered := newAlert_entered hlate ((enterRecord_of_full hfull hw).trans (if_pos (habove.mpr hyes)))
        exact ⟨_, congrArg _ hentered, congrArg (· ++ [x]) htable, hlocal, congrArg bump haccepted, hevictions, hends,
          hflag, hlkp hv⟩
  · rw [takeAlert_held hv hu hx, heldAlert_refresh hsame]
  · have hx : FirstRecord b.id q.alc.table a x d := ⟨htable, ha, hid⟩
    rw [takeAlert_held hv hu hx.find]
    refine ⟨fun h => ?_, fun h => ?_⟩
    · rw [heldAlert_late hupdate hother h]
    · rw [heldAlert_stored hupdate hother h (hid ▸ hx)]

end Sys2Proof.Machine
end

section
/-! PROOFS. The own alert at a boundary: its sources and their winner, originated, escalated, ended and repeated (R152,
R155 to R161, R165). -/

namespace Sys2Proof.Machine

/-! ### The pending sources (R152, R157) -/

theorem mem_pendingSources (t : State) (i : SourceId) (v : SourceValues) : (i, v) ∈ pendingSources t ↔
    (t.alc.sources.get i).raised = true ∧ sourceEnabled t i = true ∧ sourceValues t i = some v := by
  have hall : i ∈ sourceIds := by cases i <;> decide
  simp [pendingSources, List.mem_filterMap, hall, and_assoc]

/-- Entries that keep their key stand in the order of the keys. -/
theorem filterMap_fst_sublist {α β : Type} {f : α → Option (α × β)} (h : ∀ i x, f i = some x → x.1 = i) (l : List α) :
    ((l.filterMap f).map (·.1)).Sublist l := by
  induction l with
  | nil => exact List.Sublist.refl _
  | cons i l ih =>
    rw [List.filterMap_cons]
    split
    · exact ih.cons i
    · rename_i x hx
      rw [List.map_cons, h i x hx]
      exact ih.cons_cons i

theorem pendingSources_sublist (t : State) : ((pendingSources t).map (·.1)).Sublist sourceIds := by
  refine filterMap_fst_sublist (fun i x hx => ?_) _
  obtain ⟨-, hmap⟩ := Option.ite_none_right_eq_some.mp hx
  obtain ⟨v, -, rfl⟩ := Option.map_eq_some_iff.mp hmap
  rfl

/-- The sources with one of them carried. -/
def carrying (i : SourceId) (t : Sources) : Sources := t.set { t.get i with carried := true } i

theorem carrying_get (i j : SourceId) (t : Sources) : (carrying i t).get j =
    if j = i then { t.get j with carried := true } else t.get j := by
  unfold carrying
  rw [Sources.get_set]
  split
  · rename_i h
    rw [h]
  · rfl

theorem onlyTestCarried_carrying (i : SourceId) (t : Sources) : onlyTestCarried (carrying i t) =
    (decide (i = .test) &&
      ([.al0, .al1, .feed, .supv] : List SourceId).all (fun j => !(t.get j).carried)) := by
  cases i <;> simp [onlyTestCarried, carrying, Sources.get, Sources.set, Bool.and_assoc]

theorem carriedPending_iff (t : Sources) : carriedPending t = true ↔
    ∃ i : SourceId, (t.get i).carried = true ∧ (t.get i).raised = true := by
  have hall (i : SourceId) : i ∈ sourceIds := by cases i <;> decide
  simp [carriedPending, List.any_eq_true, hall]

/-! ### The alert audio rate (R157) -/

section
variable {t : State} {m : Image} (h : t.cfl.image = some m)
include h

theorem originationRate_of_port {p : PortId} (hp : m.roles[p] = .alert)
    (hone : ∀ q : PortId, m.roles[q] = .alert → q = p) :
    originationRate t = if t.sin.ports[p].state = .locked then m.alertAudioRate else 0 := by
  have hport : alertPort t = some p := by
    obtain ⟨q, hq⟩ : ∃ q, alertPort t = some q := by
      rw [← Option.isSome_iff_exists]
      unfold alertPort
      rw [List.find?_isSome]
      exact ⟨p, by fin_cases p <;> decide, decide_eq_true ((roleOf_of_image h p).trans hp)⟩
    have hrole : roleOf t q = .alert :=
      of_decide_eq_true (List.find?_some (p := fun p => decide (roleOf t p = .alert)) hq)
    rw [hq, hone q ((roleOf_of_image h q).symm.trans hrole)]
  unfold originationRate
  rw [hport, h]
  rfl

theorem originationRate_of_none (hno : ∀ p : PortId, m.roles[p] ≠ .alert) : originationRate t = 0 := by
  have hport : alertPort t = none :=
    List.find?_eq_none.mpr fun p _ => by simpa [roleOf_of_image h] using hno p
  unfold originationRate
  rw [hport]

end

/-! ### The tests that end it (R160) -/

section
variable {t : State} {n : FrameNo} (hn : t.ftu.now = some n)
include hn

theorem takeTurn_alertStopTest : takeTurn .alertStopTest t =
    if isLive t.alc.localAlert.state && t.alc.stopMark then
      endOwn n { t with alc.counters.endsByStop := bump t.alc.counters.endsByStop } else t := atNow_of_now hn stopTest

theorem alertStopTest_ends (h : t.alc.localAlert.state = .announced ∨ t.alc.localAlert.state = .on)
    (hstop : t.alc.stopMark = true) : takeTurn .alertStopTest t =
      endOwn n { t with alc.counters.endsByStop := bump t.alc.counters.endsByStop } := by
  rw [takeTurn_alertStopTest hn, if_pos (by rw [(isLive_iff _).mpr h, hstop]; rfl)]

theorem alertStopTest_stands
    (h : ¬(t.alc.localAlert.state = .announced ∨ t.alc.localAlert.state = .on) ∨ t.alc.stopMark = false) :
    takeTurn .alertStopTest t = t := by
  rw [← isLive_iff] at h
  rw [takeTurn_alertStopTest hn, if_neg (by obtain h | h := h <;> simp [h])]

theorem takeTurn_alertSourcesTest : takeTurn .alertSourcesTest t =
    if isLive t.alc.localAlert.state && !carriedPending t.alc.sources then
      endOwn n { t with alc.counters.endsBySources := bump t.alc.counters.endsBySources } else t :=
  atNow_of_now hn sourcesTest

theorem alertSourcesTest_ends (h : t.alc.localAlert.state = .announced ∨ t.alc.localAlert.state = .on)
    (hnone : ¬∃ i : SourceId, (t.alc.sources.get i).carried = true ∧ (t.alc.sources.get i).raised = true) :
    takeTurn .alertSourcesTest t =
      endOwn n { t with alc.counters.endsBySources := bump t.alc.counters.endsBySources } := by
  rw [← carriedPending_iff] at hnone
  rw [takeTurn_alertSourcesTest hn, if_pos (by simp [(isLive_iff _).mpr h, hnone])]

theorem alertSourcesTest_stands (h : ¬(t.alc.localAlert.state = .announced ∨ t.alc.localAlert.state = .on) ∨
    ∃ i : SourceId, (t.alc.sources.get i).carried = true ∧ (t.alc.sources.get i).raised = true) :
    takeTurn .alertSourcesTest t = t := by
  rw [← isLive_iff, ← carriedPending_iff] at h
  rw [takeTurn_alertSourcesTest hn, if_neg (by obtain h | h := h <;> simp [h])]

end

/-- The state as the duration limit is met: the end counted and the marks cleared. -/
def timedOut (m : Image) (t : State) : State :=
  { t with alc := { t.alc with
    sources := ⟨stoppedLine m.lines[(0 : LineIx)] t.lines[(0 : LineIx)] t.alc.sources.al0,
      stoppedLine m.lines[(1 : LineIx)] t.lines[(1 : LineIx)] t.alc.sources.al1,
      { t.alc.sources.feed with raised := false }, { t.alc.sources.supv with raised := false },
      { t.alc.sources.test with raised := false }⟩
    counters.endsByDuration := bump t.alc.counters.endsByDuration } }

theorem durationEnd_eq {t : State} {m : Image} (hm : t.cfl.image = some m) (n : FrameNo) :
    durationEnd n t = endOwn n (timedOut m t) :=
  congrArg (endOwn n)
    (clearSources_eq (s := { t with alc.counters.endsByDuration := bump t.alc.counters.endsByDuration }) hm)

theorem exec_alertDurationLimit {s t : State} {rest : List Act} {n f : FrameNo} {m : Image}
    (ht : EventTurn .alertDurationLimit s t rest) (hn : t.ftu.now = some n) (hm : t.cfl.image = some m)
    (hlimit : 1 ≤ m.durationLimit) (hstate : t.alc.localAlert.state = .on) (hstart : t.alc.localAlert.start = some f)
    (hl : later (plus f (25 * m.durationLimit)) n = false) :
    exec .alertDurationLimit s = .next (advance rest (endOwn n (timedOut m t))) := by
  rw [← durationEnd_eq hm, ← atNow_of_now hn durationEnd]
  exact congrArg _ (runEvent_due ht ((due_alertDurationLimit_iff t).mpr ⟨hstate, n, f, m, hn, hstart, hm, hlimit, hl⟩))

/-! ### The repeats (R161) -/

theorem exec_alertRepeat {s t : State} {rest : List Act} (ht : EventTurn .alertRepeat s t rest)
    (hstate : t.alc.localAlert.state ≠ .idle) (hsent : t.progress.alertSent = false) (hcount : t.alc.repeatCount = 4) :
    exec .alertRepeat s = .next (advance rest (repeatAlert t)) :=
  congrArg _ (runEvent_due ht ((due_alertRepeat_iff t).mpr ⟨hstate, hsent, hcount⟩))

section
variable {t : State}

/-- The state as a repeat is counted, before LKP has it. -/
def repeating (s : State) : State :=
  { s with alc.repeatCount := 0, alc.counters.repeatsSent := bump s.alc.counters.repeatsSent }

theorem handAlert_repeating {k : Kind} (body : List Byte) (hk : k ≠ .presence) (hv : t.pvw.unit.viewing = true)
    (hroom : t.lkp.queue.length < 64) :
    handAlert k body (repeating t) = { repeating t with lkp := joinedLkp ⟨k, 0, 0, body⟩ t } :=
  handAlert_of_room (s := repeating t) body ⟨rfl, rfl, rfl, rfl⟩ hk hv hroom

theorem repeatAlert_ending {i : AlertId} {e : FrameNo} (h : t.alc.localAlert.state = .ending)
    (hi : t.alc.localAlert.id = some i) (he : t.alc.localAlert.stop = some e) :
    repeatAlert t = handAlert .alertEnd (alertEndBytes i e) (repeating t) := by
  unfold repeatAlert
  dsimp only
  rw [if_pos h, hi, he]
  rfl

theorem repeatAlert_live {x : AlertRecord} (h : t.alc.localAlert.state = .announced ∨ t.alc.localAlert.state = .on)
    (hx : ownRecord t = some x) : repeatAlert t = handAlert .alert (alertBytes x) (repeating t) := by
  unfold repeatAlert
  dsimp only
  rw [if_neg (by obtain h | h := h <;> rw [h] <;> decide), hx]
  rfl

theorem pass_alertRepeat (s : State) : pass .alertRepeat s =
    if s.alc.localAlert.state != .idle && !s.progress.alertSent then
      { s with alc.repeatCount := upTo 4 s.alc.repeatCount }
    else s := rfl

theorem takeTurn_alertRepeat_counts (h : t.alc.localAlert.state ≠ .idle) (hp : t.progress.alertSent = false)
    (hc : t.alc.repeatCount ≠ 4) :
    takeTurn .alertRepeat t = { t with alc.repeatCount := min (t.alc.repeatCount + 1) 4 } := by
  rw [takeTurn_of_not_due (by simp [hc]), pass_alertRepeat, if_pos (by simp [h, hp])]
  rfl

theorem takeTurn_alertRepeat_stands (h : t.alc.localAlert.state = .idle ∨ t.progress.alertSent = true) :
    takeTurn .alertRepeat t = t := by
  have hno : (t.alc.localAlert.state != .idle && !t.progress.alertSent) = false := by obtain h | h := h <;> simp [h]
  rw [takeTurn_of_not_due (by rw [due_alertRepeat, hno]; rfl), pass_alertRepeat, hno]
  rfl

end

/-! ### Origination (R157, R165) -/

section
variable {t : State} {n : FrameNo}

theorem originate_stands
    (h : ¬(t.alc.localAlert.state = .idle ∧ t.pvw.unit = .onAir) ∨ pendingSources t = []) : originate n t = t := by
  unfold originate
  obtain h | h := h
  · exact if_neg (by simpa using h)
  · rw [(winner_eq_none_iff _).mpr h]
    exact ite_self t

variable {w : SourceId × SourceValues} (hidle : t.alc.localAlert.state = .idle ∧ t.pvw.unit = .onAir)
  (hw : winner (pendingSources t) = some w)
include hidle hw

theorem originate_deferred (h : enterRecord (originRecord n w t) t = none) :
    originate n t = { t with alc.counters.deferrals := bump t.alc.counters.deferrals } := by
  unfold originate
  rw [if_pos (by simpa using hidle), hw]
  dsimp only
  rw [h]

/-- The unit with the own alert `x` announced, of source `i`, the table as `u` has it. -/
def announcing (i : SourceId) (x : AlertRecord) (u : State) : State :=
  { u with alc := { u.alc with
    sources := carrying i u.alc.sources, serial := u.alc.serial + 1
    localAlert := ⟨.announced, some x.id, some x.start, none⟩
    counters.originations := bump u.alc.counters.originations } }

theorem originate_entered {u : State} (h : enterRecord (originRecord n w t) t = some u) : originate n t =
    handFirst .alert (alertBytes (originRecord n w t)) (announcing w.1 (originRecord n w t) u) := by
  unfold originate
  rw [if_pos (by simpa using hidle), hw]
  dsimp only
  rw [h]
  rfl

end

/-! ### Escalation (R159) -/

theorem ownRecord_eq {t : State} {i : AlertId} {a b : List AlertRecord} {x : AlertRecord}
    (hi : t.alc.localAlert.id = some i) (hx : FirstRecord i t.alc.table a x b) : ownRecord t = some x := by
  unfold ownRecord
  rw [hi]
  exact hx.find

/-- The update of an escalation by the source `y`: the lowest urgency number, the masks joined, a test only while TEST
alone is carried, the text of `y`. -/
def escalation (n : FrameNo) (y : SourceId × SourceValues) (x : AlertRecord) (t : State) : AlertUpdate :=
  let v := valuesAt x n
  ⟨plus n (leadOf t + 2), ⟨min v.urgency y.2.urgency, allIfZero v.mask ||| allIfZero y.2.mask,
    onlyTestCarried (carrying y.1 t.alc.sources), y.2.text⟩⟩

/-- The unit with an escalation by the source `i` counted, the table as given. -/
def escalating (i : SourceId) (table : List AlertRecord) (t : State) : State :=
  { t with alc := { t.alc with
    sources := carrying i t.alc.sources, table := table
    counters := { t.alc.counters with
      escalations := bump t.alc.counters.escalations, updatesStored := bump t.alc.counters.updatesStored } } }

section
variable {t : State} {n : FrameNo} {a b : List AlertRecord} {x : AlertRecord}
  (hlive : t.alc.localAlert.state = .announced ∨ t.alc.localAlert.state = .on) (hi : t.alc.localAlert.id = some x.id)
  (hx : FirstRecord x.id t.alc.table a x b)
include hlive hi hx

theorem escalate_stands (h : (∃ w, x.update = some w ∧ later w.frame n = true) ∨
    (pendingSources t).filter (escalates (valuesAt x n)) = []) : escalate n t = t := by
  unfold escalate
  rw [(isLive_iff _).mpr hlive, ownRecord_eq hi hx]
  dsimp only
  obtain ⟨w, hw, hl⟩ | h := h
  · exact if_neg (by simp [hw, hl])
  · rw [h]
    exact ite_self t

theorem escalate_of_winner {y : SourceId × SourceValues} (hu : ∀ w, x.update = some w → later w.frame n = false)
    (hw : winner ((pendingSources t).filter (escalates (valuesAt x n))) = some y) :
    let z := storeUpdate (escalation n y x t) x
    escalate n t = handFirst .alert (alertBytes z) (escalating y.1 (a ++ z :: b) t) := by
  intro z
  have hstored : modifyRecord x.id (fun _ => z) (modifySource y.1 (fun c => { c with carried := true }) t) =
      { t with alc := { t.alc with sources := carrying y.1 t.alc.sources, table := a ++ z :: b } } :=
    FirstRecord.modifyRecord (s := modifySource y.1 _ t) hx (fun _ => z)
  unfold escalate
  rw [(isLive_iff _).mpr hlive, ownRecord_eq hi hx]
  dsimp only
  rw [if_pos (by simpa [Option.all_eq_true] using hu), hw]
  exact congrArg (fun s : State => handFirst .alert (alertBytes z) { s with alc.counters := { t.alc.counters with
    escalations := bump t.alc.counters.escalations, updatesStored := bump t.alc.counters.updatesStored } }) hstored

end

/-- Settles O44: an end is `endOwn_fields`, an origination `originate_entered`, an escalation `escalate_of_winner`, what
LKP makes of their packets `handFirst_fields`; the repeats are `handAlert_repeating` and the `takeTurn_alertRepeat_`
lemmas, the choice of a source `winner_least` and `mem_pendingSources`. -/
theorem ownAlertPacketsOutcome : Obligations.OwnAlertPacketsOutcome := by
  unfold Obligations.OwnAlertPacketsOutcome
  refine ⟨?duration, ?repeatEnd, ?repeatAlert, ?ends, fun t n hn =>
    ⟨alertStopTest_ends hn, alertStopTest_stands hn, alertSourcesTest_ends hn, alertSourcesTest_stands hn⟩,
    ?origination, ?escalation, mem_pendingSources,
    fun l x => winner_least, ranksAbove_iff, pendingSources_sublist, winner_eq_none_iff,
    fun t m hm => ⟨fun p => originationRate_of_port hm, originationRate_of_none hm⟩,
    fun t => ⟨takeTurn_alertRepeat_counts, takeTurn_alertRepeat_stands⟩⟩
  case duration =>
    intro s t rest n f i m ht hn hm hlimit hstate hstart hid hl e
    have hexec := exec_alertDurationLimit ht hn hm hlimit hstate hstart hl
    obtain ⟨l, p, c, hends, hroom⟩ := endOwn_fields (r := t) (s := timedOut m t) hid n ⟨rfl, rfl, rfl, rfl⟩
    rw [hends] at hexec
    refine ⟨_, hexec, ?_, rfl, rfl, rfl, fun h => if_pos h, fun h => if_pos h, rfl, rfl,
      fun a b x htable ha hx => FirstRecord.modify ⟨htable, ha, hx⟩ _, fun hv hq => ?_, rfl⟩
    · rw [← hid, ← hstart]
      rfl
    · obtain ⟨hl, hp, -⟩ := hroom hv hq
      exact ⟨hl, hp⟩
  case repeatEnd =>
    intro s t rest i e ht hsent hcount hstate hid hstop hv hroom
    rw [exec_alertRepeat ht (by rw [hstate]; decide) hsent hcount, repeatAlert_ending hstate hid hstop,
      handAlert_repeating _ (by decide) hv hroom]
    rfl
  case repeatAlert =>
    intro s t rest x ht hsent hcount hstate hown hv hroom
    have hactive : t.alc.localAlert.state ≠ .idle := by obtain h | h := hstate <;> rw [h] <;> decide
    rw [exec_alertRepeat ht hactive hsent hcount, repeatAlert_live hstate hown,
      handAlert_repeating _ (by decide) hv hroom]
    rfl
  case ends =>
    intro t n i hid e
    obtain ⟨l, p, c, hends, hroom⟩ := endOwn_fields (r := t) hid n ⟨rfl, rfl, rfl, rfl⟩
    refine ⟨_, hends, rfl, rfl, rfl, fun a b x htable ha hx => FirstRecord.modify ⟨htable, ha, hx⟩ _, fun hv hq => ?_,
      rfl⟩
    obtain ⟨hl, hp, hc⟩ := hroom hv hq
    exact ⟨by rw [hc]; rfl, hp, hl⟩
  case origination =>
    intro t n hn idle
    have hturn : takeTurn .originate t = originate n t := atNow_of_now hn originate
    rw [hturn]
    refine ⟨originate_stands, fun i v hidle hw => ?_⟩
    intro x
    have hv : t.pvw.unit.viewing = true := by rw [hidle.2]; rfl
    have hentered {u : State} (hu : enterRecord x t = some u) :
        originate n t = handFirst .alert (alertBytes x) (announcing i x u) := originate_entered hidle hw hu
    refine ⟨fun hroom => ?_, fun w hfull hworst hrank => ?_, fun w hfull hworst hrank => ?_⟩
    · obtain ⟨l, p, c, hfirst, hjoin⟩ := handFirst_fields (r := t) (alertBytes x)
        (s := announcing i x { t with alc.table := t.alc.table ++ [x] }) ⟨rfl, rfl, rfl, rfl⟩
        (by decide : Kind.alert ≠ .presence)
      refine ⟨_, (hentered (enterRecord_of_room hroom)).trans hfirst, rfl, rfl, rfl, rfl, rfl,
        fun j => carrying_get i j t.alc.sources, fun hq => ?_, rfl⟩
      obtain ⟨hl, hp, -⟩ := hjoin hv hq
      exact ⟨hp, hl⟩
    · have hreplaced : enterRecord x t = some (replacing w x t) :=
        enterRecord_replaces hfull hworst hrank (by rw [hidle.1]; rintro ⟨-, h⟩; cases h)
      have hflag :
          flagSet .alertTableFull (handFirst .alert (alertBytes x) (announcing i x (replacing w x t))) = true :=
        flagSet_handFirst _ _ (flagSet_raiseFlag_self .alertTableFull t)
      obtain ⟨l, p, c, hfirst, hjoin⟩ := handFirst_fields (r := t) (alertBytes x)
        (s := announcing i x (replacing w x t)) ⟨rfl, rfl, rfl, rfl⟩ (by decide : Kind.alert ≠ .presence)
      rw [hfirst] at hflag
      refine ⟨_, (hentered hreplaced).trans hfirst, rfl, rfl, rfl, rfl, rfl, rfl, rfl, hflag,
        fun j => carrying_get i j t.alc.sources, fun hq => ?_, rfl⟩
      obtain ⟨hl, hp, -⟩ := hjoin hv hq
      exact ⟨hp, hl⟩
    · exact originate_deferred hidle hw ((enterRecord_of_full hfull hworst).trans (if_neg (ne_true_of_eq_false hrank)))
  case escalation =>
    intro t n a b x hn hlive hid htable ha v raising
    have hturn : takeTurn .escalate t = escalate n t := atNow_of_now hn escalate
    have hx : FirstRecord x.id t.alc.table a x b := ⟨htable, ha, rfl⟩
    rw [hturn]
    refine ⟨escalate_stands hlive hid hx, fun i y hu hw => ?_⟩
    intro test z
    have hz : storeUpdate (escalation n (i, y) x t) x = z := by
      unfold escalation
      rw [onlyTestCarried_carrying]
      rfl
    have hescalated := escalate_of_winner hlive hid hx hu hw
    dsimp only at hescalated
    rw [hz] at hescalated
    obtain ⟨l, p, c, hfirst, hjoin⟩ := handFirst_fields (r := t) (alertBytes z)
      (s := escalating i (a ++ z :: b) t) ⟨rfl, rfl, rfl, rfl⟩ (by decide : Kind.alert ≠ .presence)
    refine ⟨_, hescalated.trans hfirst, rfl, rfl, rfl, rfl, rfl, fun j => carrying_get i j t.alc.sources,
      fun hv hq => ?_, rfl⟩
    obtain ⟨hl, hp, -⟩ := hjoin hv hq
    exact ⟨hp, hl⟩

end Sys2Proof.Machine
end

section
/-! PROOFS. What holds right after reset, and the two resets of the whole unit (R175, R185, R187). -/

namespace Sys2Proof.Machine

/-- No flag is set after reset, so none is enabled (R185). -/
theorem reset_attention : AttentionFollows State.reset := rfl

/-- The reset state is what power-on makes of it. -/
theorem reset_mode : ModeSound State.reset := powerOn_mode State.reset

/-- Settles O6: each invariant at reset by its own lemma. -/
theorem invariantsHoldAtReset : Obligations.InvariantsHoldAtReset :=
  ⟨reset_attention, reset_memory_wf, reset_mode, reset_stores⟩

theorem exec_powerOn (s : State) : exec .powerOn s = .next (powerOn s) := rfl

theorem exec_lineReset (s : State) : exec .lineReset s = .next (lineReset s) := rfl

/-- Settles O11: `powerOn` and `lineReset` are the reset state with what they keep written over it. -/
theorem powerAndLineReset : Obligations.PowerAndLineReset :=
  ⟨exec_powerOn, exec_lineReset⟩

end Sys2Proof.Machine
end

section
/-! PROOFS. What SUP makes of the oldest request (R180, R181): the action of each kind, and the command that takes it. -/

namespace Sys2Proof.Machine

/-- What SUP does for a request of each kind that the unit state takes. -/
def requestAction : RequestKind → List Byte → State → Acted
  | .readStatus => readStatus
  | .readCounters => readCounters
  | .readView => readView
  | .readLayout => readLayout
  | .readAlerts => readAlerts
  | .readText => readText
  | .readPictures => readPictures
  | .clearFlags => clearFlags
  | .clearCounters => clearCounters
  | .serviceOff => switchService false
  | .serviceOn => switchService true
  | .alertStart => alertStart
  | .alertTest => alertTest
  | .alertStop => alertStop
  | .textFlush => textFlush
  | .pictureFlush => pictureFlush
  | .rejoin => rejoin
  | .softReset => softReset
  | .loadConfig => loadConfig

/-- A request's command settles the boundary, then takes the request. -/
theorem exec_requestCommand (k : RequestKind) (s : State) :
    exec (requestCommand k) s = .next (takeRequest k (requestAction k) (settle s)) := by
  cases k <;> rfl

/-- With another request at the head of the queue, or none, the command does nothing (log 11). -/
theorem takeRequest_of_not_asked {k : RequestKind} {r : State} (h : ∀ q rs, ¬Asked k q rs r)
    (f : List Byte → State → Acted) : takeRequest k f r = r := by
  unfold takeRequest
  split
  · rfl
  · rename_i q rs hqueue
    refine if_neg fun hq => ?_
    obtain ⟨hgood, hkind⟩ := (Bool.and_eq_true _ _).mp hq
    exact h q rs ⟨hqueue, hgood, of_decide_eq_true hkind⟩

end Sys2Proof.Machine
end

section
/-! PROOFS. The attention line follows the flags and the mask in force at every state (R185). Every operation but a change
of the image is quiet or leaves the line, the flags and the image alone; a change of the image drives the line anew. -/

namespace Sys2Proof.Machine

/-- What R185 speaks of: the line, the flags and the image that holds the mask. -/
def attentionView (s : State) : Bool × BitVec 24 × Option Image := (s.sup.attention, s.sup.flags, s.cfl.image)

theorem AttentionFollows.same {s t : State} (h : AttentionFollows s) (e : attentionView t = attentionView s) :
    AttentionFollows t := by
  unfold attentionView at e
  simp only [Prod.mk.injEq] at e
  obtain ⟨hline, hflags, himage⟩ := e
  unfold AttentionFollows attentionDue maskInForce at h ⊢
  rw [hline, hflags, himage]
  exact h

theorem AttentionFollows.quiet {s t : State} (h : AttentionFollows s) (q : Quiet false s t) : AttentionFollows t :=
  q.attention h

/-- A line that has just been driven follows. -/
theorem driveAttention_follows (s : State) : AttentionFollows (driveAttention s) := rfl

theorem clearFlagSet_follows (m : BitVec 24) (s : State) : AttentionFollows (clearFlagSet m s) :=
  driveAttention_follows _

theorem acceptImage_attention (i : Image) (s : State) : AttentionFollows (acceptImage i s) :=
  (driveAttention_follows _).quiet
    (((takeRoles_quiet (takeImage i s)).trans (sampleLines_quiet _)).trans (enterListen_quiet _))

theorem refuseImage_attention (c : FaultCause) (f : Option Nat) (s : State) : AttentionFollows (refuseImage c f s) :=
  driveAttention_follows _

theorem judgeImage_attention (c : ImageCheck) (s : State) : AttentionFollows (judgeImage c s) := by
  cases c with
  | good i => exact acceptImage_attention i s
  | bad cause field => exact refuseImage_attention cause field s

theorem powerOn_attention (s : State) : AttentionFollows (powerOn s) := reset_attention.same rfl

theorem lineReset_attention (s : State) : AttentionFollows (lineReset s) := by
  unfold AttentionFollows attentionDue
  show false = ((0 : BitVec 24) &&& _ != 0)
  simp

section
variable {s : State} (h : AttentionFollows s)
include h

/-! ### The turns of a boundary -/

theorem takeTurn_attention (a : Act) : AttentionFollows (takeTurn a s) := by
  obtain ⟨-, -, -, hkeeps, -⟩ := takeTurn_keeps a s
  exact hkeeps h

theorem settle_attention : AttentionFollows (settle s) :=
  settle_keeps (P := AttentionFollows) (fun a _ ht => takeTurn_attention ht a) (fun _ _ ht => ht.same rfl) h

theorem runEvent_attention (a : Act) : AttentionFollows (runEvent a s) :=
  runEvent_keeps (P := AttentionFollows) (fun a _ ht => takeTurn_attention ht a) (fun _ _ ht => ht.same rfl) a h

/-! ### FTU -/

theorem raiseBoundary_attention (src : BoundarySource) (o : BoundaryOrder) :
    AttentionFollows (raiseBoundary src o s) :=
  advance_keeps (P := AttentionFollows) (fun a _ ht => takeTurn_attention ht a) (fun _ _ ht => ht.same rfl) _ _
    (h.same rfl)

theorem takePulse_attention (d : Nat) (o : BoundaryOrder) : AttentionFollows (takePulse d o s) := by
  unfold takePulse
  split
  · exact h.same rfl
  · unfold matchPulse
    dsimp only
    split
    · exact (relocked_quiet (r := false) _).attention (h.same rfl)
    · exact h.same rfl
  · exact raiseBoundary_attention h _ o

theorem missPulse_attention : AttentionFollows (missPulse s) := by
  unfold missPulse
  split
  · dsimp only
    split
    · exact (enterListen_quiet (r := false) _).attention (h.same rfl)
    · exact (breakListen_quiet (r := false) _).attention (h.same rfl)
  · exact h

theorem takeTime_attention (bs : List Byte) : AttentionFollows (takeTime bs s) := by
  unfold takeTime
  split <;> exact h.same rfl

/-! ### The read, and the alert lines -/

theorem readComplete_attention (flash : List Byte) : AttentionFollows (readComplete flash s) := by
  unfold readComplete
  split
  · exact judgeImage_attention _ s
  · exact h

theorem changeLine_attention (l : LineIx) (high : Bool) : AttentionFollows (changeLine l high s) := by
  have hmoved : AttentionFollows { s with lines := s.lines.set l high } := h.same rfl
  unfold changeLine
  dsimp only
  split_ifs
  · exact hmoved
  · exact hmoved.quiet (sampleLevel_quiet l _)
  · exact hmoved.same rfl
  · exact hmoved

/-! ### SUP -/

theorem serveBad_attention (rs : List Request) : AttentionFollows (serveBad rs s) := by
  induction rs generalizing s with
  | nil => exact h.same rfl
  | cons r rs ih =>
    unfold serveBad
    split_ifs
    · exact ih (h.same rfl)
    · exact ih (h.same rfl)
    · exact h.same rfl

theorem takeFrame_attention (r : RequestFrame) : AttentionFollows (takeFrame r s) := by
  unfold takeFrame
  split
  · exact serveBad_attention h _
  · exact driveAttention_follows _

theorem switchService_attention (on : Bool) (b : List Byte) : AttentionFollows (switchService on b s).state := by
  unfold switchService
  split
  · exact h
  · dsimp only
    split_ifs
    · exact h
    · exact (atNow_quiet (r := false) issueClaim_quiet _).attention (h.same rfl)
    · exact h.same rfl

theorem alertStop_attention (b : List Byte) : AttentionFollows (alertStop b s).state := by
  have hcleared : AttentionFollows (clearSources s) := h.quiet (clearSources_quiet s)
  show AttentionFollows (if _ then _ else _)
  split
  · exact hcleared.same rfl
  · exact hcleared

theorem clearOrdinary_attention : AttentionFollows (clearOrdinary s) := h.same rfl

omit h in
theorem softReset_attention (b : List Byte) (s : State) : AttentionFollows (softReset b s).state := by
  have hcleared := clearOrdinary_attention
    (clearFlagSet_follows (BitVec.allOnes 24) (enterListen (sampleLines (softClear s))))
  exact hcleared.same rfl

/-- The action of every kind of request keeps the line. -/
theorem requestAction_attention (k : RequestKind) (b : List Byte) : AttentionFollows (requestAction k b s).state := by
  cases k with
  | readStatus | readCounters | readView | readAlerts => exact h
  | readLayout => exact (readLayout_state b s).symm ▸ h
  | readText => exact (readText_state b s).symm ▸ h
  | readPictures => exact (readPictures_state b s).symm ▸ h
  | clearFlags => exact clearFlagSet_follows _ s
  | clearCounters => exact (clearOrdinary_attention h).same rfl
  | serviceOff => exact switchService_attention h false b
  | serviceOn => exact switchService_attention h true b
  | alertStart =>
    show AttentionFollows (alertStart b s).state
    unfold alertStart
    split
    · exact h.quiet (askSource_quiet _ _ _ _ s)
    · exact h
  | alertTest =>
    show AttentionFollows (alertTest b s).state
    unfold alertTest
    split
    · exact h.quiet (askSource_quiet _ _ _ _ s)
    · exact h
  | alertStop => exact alertStop_attention h b
  | textFlush =>
    show AttentionFollows (textFlush b s).state
    unfold textFlush
    split
    · exact h.same rfl
    · exact h
  | pictureFlush =>
    show AttentionFollows (pictureFlush b s).state
    unfold pictureFlush
    split
    · exact h.same rfl
    · exact h
  | rejoin => exact (h.quiet (enterListen_quiet s)).same rfl
  | softReset => exact softReset_attention b s
  | loadConfig =>
    show AttentionFollows (loadConfig b s).state
    unfold loadConfig
    split
    · exact acceptImage_attention _ s
    · exact refuseImage_attention _ _ s

theorem answered_attention (q : Request) (k : AnswerKind) (d : AnswerData) (rs : List Request) :
    AttentionFollows (answered q k d rs s) := by
  unfold answered
  refine serveBad_attention ?_ rs
  exact h.same rfl

theorem takeRequest_attention (k : RequestKind) : AttentionFollows (takeRequest k (requestAction k) s) := by
  by_cases hasked : ∃ q rs, Asked k q rs s
  · obtain ⟨q, rs, hq⟩ := hasked
    have hhand : AttentionFollows (inHand q rs s) := h.same rfl
    rw [takeRequest_of_asked hq]
    refine answered_attention ?_ _ _ _ _
    unfold actOn
    split_ifs
    · exact hhand
    · exact hhand
    · exact requestAction_attention hhand k _
  · rw [takeRequest_of_not_asked fun q rs hq => hasked ⟨q, rs, hq⟩]
    exact h

end

/-! ### Every command and every step -/

/-- Every command keeps the attention line at what the flags and the mask in force give. -/
theorem exec_attention (c : Instr) {s : State} (h : AttentionFollows s) :
    ∃ t, exec c s = .next t ∧ AttentionFollows t := by
  have hr := settle_attention h
  cases c with
  | powerOn => exact ⟨_, rfl, powerOn_attention s⟩
  | lineReset => exact ⟨_, rfl, lineReset_attention s⟩
  | configReadComplete flash => exact ⟨_, rfl, readComplete_attention hr flash⟩
  | timeMessage bytes => exact ⟨_, rfl, takeTime_attention hr bytes⟩
  | framePulse d o => exact ⟨_, rfl, takePulse_attention hr d o⟩
  | localTimerExpiry o => exact ⟨_, rfl, raiseBoundary_attention hr _ o⟩
  | missedPulse => exact ⟨_, rfl, missPulse_attention hr⟩
  | linkHuntPacket bytes | linkHeaderFailed bytes => exact ⟨_, rfl, hr.quiet (receiveBytes_quiet bytes _)⟩
  | presence p | claim p | contrib p | alert p | alertEnd p => exact ⟨_, rfl, hr.quiet (receive_quiet _ p _)⟩
  | transmitDone => exact ⟨_, rfl, hr.quiet (transmitterFree_quiet _)⟩
  | feedHuntPacket p bytes | feedPacketFailed p bytes => exact ⟨_, rfl, hr.quiet (feedBytes_quiet p bytes _)⟩
  | feedPacketMalformed p code body => exact ⟨_, rfl, hr.quiet (feedPacket_quiet p code body _)⟩
  | audio p b | textSet p b | textClear p b | picBegin p b | picData p b | picEnd p b | picDelete p b | alertReq p b
  | alertClear p b | fill p b => exact ⟨_, rfl, hr.quiet (feedPacket_quiet p _ b _)⟩
  | alertLineChange l high => exact ⟨_, rfl, changeLine_attention hr l high⟩
  | requestReceived r => exact ⟨_, rfl, takeFrame_attention hr r⟩
  | readStatus | readCounters | readView | readLayout | readAlerts | readText | readPictures | clearFlags
  | clearCounters | serviceOff | serviceOn | alertStart | alertTest | alertStop | textFlush | pictureFlush | rejoin
  | softReset | loadConfig => exact ⟨_, rfl, takeRequest_attention hr _⟩
  | readFailed | holdoverExpired | frameJump | enterJoining | enterOnAir | enterIsolated | presenceSend | claimResend
  | peerSilent | slotRemoval | claimInForce | feedLost | feedSwitch | feedRevert | textExpiry | pictureLoadTimeout
  | pictureExpiry | alertDurationLimit | localAlertOn | localAlertIdle | alertRepeat | alertRecordStart
  | alertRecordEnded => exact ⟨_, rfl, runEvent_attention h _⟩

/-- Settles O7: an idle step runs the boundary (`settle_attention`), any other runs its command (`exec_attention`). -/
theorem attentionInvariant : Obligations.AttentionInvariant := by
  unfold Obligations.AttentionInvariant
  intro s t h hstep
  unfold step at hstep
  split at hstep
  · obtain rfl := Host.Outcome.next.inj hstep
    exact settle_attention h
  · rename_i c cs _
    obtain ⟨u, hexec, hu⟩ := exec_attention c (s := { s with pending := cs }) (h.same rfl)
    rw [hexec] at hstep
    obtain rfl := Host.Outcome.next.inj hstep
    exact hu

end Sys2Proof.Machine
end

section
/-! PROOFS. The request queue and the bytes of an answer (R180, R188, R195). -/

namespace Sys2Proof.Machine

/-- A request that is answered as it reaches the head: its check is bad, or its code names no request. -/
def unservable (x : Request) : Bool := !x.checkGood || (requestOf x.code).isNone

theorem unservable_iff (x : Request) : unservable x = true ↔ x.checkGood = false ∨ requestOf x.code = none := by
  simp [unservable]

theorem unservable_eq_false_iff (x : Request) :
    unservable x = false ↔ x.checkGood = true ∧ (requestOf x.code).isSome = true := by
  simp [unservable, Option.isSome_iff_ne_none]

/-- The answer to a request that is not served. -/
def refusal (x : Request) : Answer :=
  let kind := if x.checkGood then AnswerKind.unknown else .badCheck
  ⟨x.tag, x.code, kind, .none, answerBytes x.tag x.code kind .none⟩

/-- The head's requests that are not served are answered, and the first that is good waits with those behind it. -/
theorem serveBad_eq (rs : List Request) (s : State) : serveBad rs s = { s with sup := { s.sup with
    queue := rs.dropWhile unservable
    answers := s.sup.answers ++ (rs.takeWhile unservable).map refusal } } := by
  induction rs generalizing s with
  | nil => simp [serveBad]
  | cons x rs ih =>
    unfold serveBad
    split_ifs with hcheck hcode
    · have hx : unservable x = true := by simp [unservable, hcheck]
      have hgood : x.checkGood = false := by simpa using hcheck
      rw [ih]
      simp [hx, hand, refusal, hgood]
    · have hx : unservable x = true := by simp [unservable, hcode]
      have hgood : x.checkGood = true := by simpa using hcheck
      rw [ih]
      simp [hx, hand, refusal, hgood]
    · have hx : unservable x = false := by simp [unservable, hcheck, hcode]
      simp [hx]

/-- What `serveBad` answers, and what it leaves, as parts of the queue. -/
theorem serveBad_split (rs : List Request) (s : State) : ∃ front back, rs = front ++ back ∧
    (∀ x ∈ front, x.checkGood = false ∨ requestOf x.code = none) ∧
    (∀ x, back.head? = some x → x.checkGood = true ∧ (requestOf x.code).isSome = true) ∧
    serveBad rs s = { s with sup := { s.sup with queue := back, answers := s.sup.answers ++ front.map refusal } } := by
  refine ⟨rs.takeWhile unservable, rs.dropWhile unservable, List.takeWhile_append_dropWhile.symm, fun x hx => ?_,
    fun x hx => ?_, serveBad_eq rs s⟩
  · exact (unservable_iff x).mp (List.mem_takeWhile_imp hx)
  · have hhead := List.head?_dropWhile_not unservable rs
    rw [hx] at hhead
    exact (unservable_eq_false_iff x).mp (by simpa using hhead)

/-- A request that finds room joins the queue last. -/
theorem takeFrame_of_room (f : RequestFrame) {s : State} (h : s.sup.queue.length < 4) :
    takeFrame f s = serveBad (s.sup.queue ++ [⟨f.tag, f.code, f.body, requestCheckGood f⟩]) s := if_pos h

theorem takeFrame_of_full (f : RequestFrame) {s : State} (h : 4 ≤ s.sup.queue.length) :
    takeFrame f s = loseRequest s := if_neg (by omega)

theorem loseRequest_eq (s : State) : loseRequest s = { s with
    sup := supWith .requestLost { s with sup.lost := bump s.sup.lost } } := rfl

/-- Settles O45: what is answered and what waits is `serveBad_split`, for a request received and behind one answered. -/
theorem requestQueueOutcome : Obligations.RequestQueueOutcome := by
  unfold Obligations.RequestQueueOutcome
  refine ⟨?room, ?full, ?behind, ?bytes, ?data⟩
  case room =>
    intro s r f hs hroom good
    obtain ⟨front, back, hparts, hfront, hback, hserve⟩ :=
      serveBad_split (r.sup.queue ++ [⟨f.tag, f.code, f.body, good⟩]) r
    refine ⟨front, back, hparts, hfront, hback, ?_⟩
    show Host.Outcome.next (takeFrame f (settle s)) = _
    rw [hs, takeFrame_of_room f hroom]
    exact congrArg Host.Outcome.next hserve
  case full =>
    intro s r f hs hfull
    show Host.Outcome.next (takeFrame f (settle s)) = _
    rw [hs, takeFrame_of_full f hfull, loseRequest_eq]
  case behind =>
    intro q k d rs t
    unfold answered
    exact serveBad_split rs _
  case bytes =>
    intro tag code k d data kind core
    have hkind : kind = k.code := by cases k <;> rfl
    have hcore : core = answerCore tag code k d := by
      show [tag, code, kind] ++ _ ++ _ = _
      rw [hkind]
      rfl
    rw [hcore, answerBytes_eq]
  case data =>
    refine fun code => ⟨dataBytes_none code, dataBytes_flags code, fun cause field => ?_⟩
    rw [dataBytes_fault]
    refine congrArg₂ List.cons ?_ ?_
    · cases cause <;> rfl
    · cases field <;> rfl

end Sys2Proof.Machine
end

section
/-! PROOFS. The requests that are refused (R180, R181). -/

namespace Sys2Proof.Machine

/-- A request that the unit state does not take is refused, whatever its body. -/
theorem takeRequest_of_refusedState {k : RequestKind} {q : Request} {rs : List Request} {r : State} (h : Asked k q rs r)
    (hstate : k.takenIn r.pvw.unit = false) (f : List Byte → State → Acted) :
    takeRequest k f r = answered q .refusedState .none rs (inHand q rs r) := by
  have hacted : actOn k f q.body (inHand q rs r) = ⟨inHand q rs r, .refusedState, .none⟩ :=
    if_pos (by simp [inHand, hstate])
  rw [takeRequest_of_asked h, hacted]

/-- A request of the wrong length is refused. -/
theorem takeRequest_of_refusedArg {k : RequestKind} {q : Request} {rs : List Request} {r : State} (h : Asked k q rs r)
    (hstate : k.takenIn r.pvw.unit = true) (hlength : k.lengthOk q.body.length = false)
    (f : List Byte → State → Acted) : takeRequest k f r = answered q .refusedArg .none rs (inHand q rs r) := by
  have hacted : actOn k f q.body (inHand q rs r) = ⟨inHand q rs r, .refusedArg, .none⟩ := by
    unfold actOn
    rw [if_neg (by simp [inHand, hstate]), if_pos (by simp [hlength])]
  rw [takeRequest_of_asked h, hacted]

/-! ### The states in which a request is taken (R181) -/

theorem takenIn_loading (k : RequestKind) : k.takenIn .loading = false := by cases k <;> rfl

theorem loadConfig_takenIn_iff (u : UnitState) : RequestKind.loadConfig.takenIn u = true ↔ u = .halted :=
  decide_eq_true_iff

theorem takenIn_halted_iff (k : RequestKind) : k.takenIn .halted = true ↔
    k ∈ ([.readStatus, .readCounters, .readView, .readLayout, .readAlerts, .readText, .readPictures, .clearFlags,
      .clearCounters, .loadConfig] : List RequestKind) := by
  cases k <;> decide

/-- A running unit takes every request but LOAD_CONFIG, a switch outside LISTEN, JOINING and ON_AIR, and REJOIN in
OFF_AIR. -/
theorem takenIn_running_iff (k : RequestKind) {u : UnitState} (hl : u ≠ .loading) (hh : u ≠ .halted) :
    k.takenIn u = false ↔ k = .loadConfig ∨
      ((k = .serviceOff ∨ k = .serviceOn) ∧ (u = .isolated ∨ u = .clash ∨ u = .offAir)) ∨ (k = .rejoin ∧ u = .offAir) := by
  cases u with
  | loading => exact absurd rfl hl
  | halted => exact absurd rfl hh
  | listen | joining | onAir | isolated | clash | offAir => cases k <;> decide

/-- Settles O46: the refusals by `takeRequest_of_refusedState` and `takeRequest_of_refusedArg`, another head of the queue
by `takeRequest_of_not_asked`, the table of states by the `takenIn_` lemmas. -/
theorem requestRefusals : Obligations.RequestRefusals := by
  unfold Obligations.RequestRefusals
  refine ⟨fun s r k q rs hs hasked => ?_, fun s r k hs hnot => ?_, takenIn_loading, loadConfig_takenIn_iff,
    takenIn_halted_iff, fun k u => takenIn_running_iff k⟩
  · rw [exec_requestCommand, hs]
    exact ⟨fun hstate => congrArg Host.Outcome.next (takeRequest_of_refusedState hasked hstate _),
      fun hstate hlength => congrArg Host.Outcome.next (takeRequest_of_refusedArg hasked hstate hlength _)⟩
  · rw [exec_requestCommand, hs, takeRequest_of_not_asked hnot]

end Sys2Proof.Machine
end

section
/-! PROOFS. CLEAR_FLAGS and CLEAR_COUNTERS (R184 to R186). -/

namespace Sys2Proof.Machine

/-- The line as R185 gives it, as a proposition decided. -/
theorem attentionDue_eq (s : State) : attentionDue s = decide (s.sup.flags &&& maskInForce s ≠ 0) := by
  unfold attentionDue
  rw [Bool.eq_iff_iff, bne_iff_ne, decide_eq_true_iff]

theorem clearFlagSet_eq (m : BitVec 24) (s : State) : clearFlagSet m s = { s with sup := { s.sup with
    flags := s.sup.flags &&& ~~~ m
    attention := decide (s.sup.flags &&& ~~~ m &&& maskInForce s ≠ 0) } } := by
  unfold clearFlagSet driveAttention
  rw [attentionDue_eq]
  rfl

theorem clearSource_get (t : Sources) (i : SourceId) :
    (clearSourceCounters t).get i = { t.get i with counters := ⟨0, 0, 0⟩ } := by
  cases i <;> rfl

/-- Settles O48: each request is acted on by `exec_of_taken`; the flags cleared are `clearFlagSet_eq`, and the counters
are cleared table by table (`getElem_mapAll`, `clearSource_get`). -/
theorem clearRequestsOutcome : Obligations.ClearRequestsOutcome := by
  unfold Obligations.ClearRequestsOutcome
  refine ⟨fun s r q rs hs htaken => ?_, fun s r q rs hs htaken => ?_⟩
  · intro x kept
    rw [exec_of_taken (cmd := .clearFlags) rfl hs htaken rfl]
    show Host.Outcome.next (answered q .done _ rs (clearFlagSet _ x)) = _
    rw [clearFlagSet_eq]
    rfl
  · refine ⟨_, exec_of_taken (cmd := .clearCounters) rfl hs htaken rfl, rfl, rfl, rfl, rfl, fun u => ?_, rfl,
      fun u => ?_, rfl, rfl, rfl, fun k => ?_, rfl, fun p => ?_, fun k => ?_, rfl, rfl, fun k => ?_, rfl, fun k => ?_,
      rfl, rfl, rfl, rfl, fun i => ?_, rfl, rfl, rfl, rfl, rfl, rfl, rfl⟩
    · exact getElem_mapAll _ u _
    · exact getElem_mapAll _ u _
    · exact Vector.getElem_replicate ..
    · exact getElem_mapAll _ p _
    · exact getElem_mapAll _ k _
    · exact getElem_mapAll _ k _
    · exact getElem_mapAll _ k _
    · exact clearSource_get _ i

end Sys2Proof.Machine
end

section
/-! PROOFS. The seven reading requests: the values reported, and the items that carry them (R34, R80, R130, R150, R172,
R182, R186, R195). -/

namespace Sys2Proof.Machine

/-! ### What is reported by place -/

theorem toList_getElem?_fin {α : Type} {n : Nat} (v : Vector α n) (i : Fin n) : v.toList[i.val]? = some v[i] := by
  simp

theorem map_toList_getElem?_fin {α β : Type} {n : Nat} (f : α → β) (v : Vector α n) (i : Fin n) :
    (v.toList.map f)[i.val]? = some (f v[i]) := by
  simp

theorem map_portIds_getElem? {α : Type} (f : PortId → α) (p : PortId) : (portIds.map f)[p.val]? = some (f p) := by
  fin_cases p <;> rfl

theorem map_lineIxs_getElem? {α : Type} (f : LineIx → α) (l : LineIx) : (lineIxs.map f)[l.val]? = some (f l) := by
  fin_cases l <;> rfl

/-! ### READ_COUNTERS: the source of each filing (R89) -/

theorem mem_filingSources (x : FrameSlot) (f : FrameNo) (id : ServiceId) (u : UnitId) :
    (f, id, u) ∈ filingSources x ↔ ∃ l es e, x = .opened f l es ∧ e ∈ es ∧ e.service = id ∧
      (e.filing = .void u ∨ ∃ a b, e.filing = .filled u a b) := by
  cases x with
  | opened n l es =>
    simp only [filingSources, List.mem_filterMap, FrameSlot.opened.injEq]
    constructor
    · rintro ⟨e, he, hfiling⟩
      cases hx : e.filing with
      | empty => simp [hx] at hfiling
      | filled v a b =>
        simp only [hx, Option.some.injEq, Prod.mk.injEq] at hfiling
        obtain ⟨rfl, hid, rfl⟩ := hfiling
        exact ⟨l, es, e, ⟨rfl, rfl, rfl⟩, he, hid, .inr ⟨a, b, hx⟩⟩
      | void v =>
        simp only [hx, Option.some.injEq, Prod.mk.injEq] at hfiling
        obtain ⟨rfl, hid, rfl⟩ := hfiling
        exact ⟨l, es, e, ⟨rfl, rfl, rfl⟩, he, hid, .inl hx⟩
    · rintro ⟨l, es, e, ⟨rfl, rfl, rfl⟩, he, rfl, hx | ⟨a, b, hx⟩⟩
      · exact ⟨e, he, by rw [hx]⟩
      · exact ⟨e, he, by rw [hx]⟩
  | _ => simp [filingSources]

theorem mem_filings (s : State) (f : FrameNo) (id : ServiceId) (u : UnitId) :
    (f, id, u) ∈ (countersData s).filings ↔ ∃ (i : Fin 16) (l : Layout) (es : List StoreEntry) (e : StoreEntry),
      s.asm.slots[i] = .opened f l es ∧ e ∈ es ∧ e.service = id ∧
        (e.filing = .void u ∨ ∃ a b, e.filing = .filled u a b) := by
  show _ ∈ s.asm.slots.toList.flatMap filingSources ↔ _
  simp only [List.mem_flatMap, Vector.mem_toList_iff, mem_filingSources]
  constructor
  · rintro ⟨x, hx, l, es, e, rfl, hentry⟩
    obtain ⟨i, hi, hslot⟩ := Vector.getElem_of_mem hx
    exact ⟨⟨i, hi⟩, l, es, e, hslot, hentry⟩
  · rintro ⟨i, l, es, e, hslot, hentry⟩
    exact ⟨s.asm.slots[i], Vector.getElem_mem i.isLt, l, es, e, hslot, hentry⟩

/-! ### READ_ALERTS (R152, R153, R172) -/

theorem lineData_eq (s : State) (l : LineIx) : lineData s l = (lineSettings s l).map (fun c =>
    (c.mode, c.activeHigh, decide (s.lines[l] = c.activeHigh))) := by
  unfold lineData lineActive
  cases lineSettings s l <;> rfl

theorem enabledMarks_of_image {s : State} {i : Image} (h : s.cfl.image = some i) : sourceIds.map (enabledMark s) =
    [some i.lines[0].enabled, some i.lines[1].enabled, some i.feedAlert, some true, some true] := by
  have hmark (j : SourceId) (hj : ¬(j = .supv ∨ j = .test)) : enabledMark s j = some (sourceEnabled s j) := by
    unfold enabledMark
    rw [if_neg (by simpa using hj), h]
    rfl
  show [enabledMark s .al0, enabledMark s .al1, enabledMark s .feed, some true, some true] = _
  rw [hmark .al0 (by decide), hmark .al1 (by decide), hmark .feed (by decide), sourceEnabled_feed h,
    show sourceEnabled s .al0 = _ from sourceEnabled_line h 0, show sourceEnabled s .al1 = _ from sourceEnabled_line h 1]
  rfl

theorem enabledMarks_of_none {s : State} (h : s.cfl.image = none) :
    sourceIds.map (enabledMark s) = [none, none, none, some true, some true] := by
  show [s.cfl.image.map _, s.cfl.image.map _, s.cfl.image.map _, some true, some true] = _
  rw [h]
  rfl

theorem governing_id (t : List AlertRecord) (now : Option FrameNo) :
    (now.bind (governing t)).map (·.id) = now.bind (fun n => (governingRecord t n).map (·.id)) := by
  cases now with
  | none => rfl
  | some n =>
    show (governing t n).map (·.id) = (governingRecord t n).map (·.id)
    unfold governing
    rw [Option.map_map]
    rfl

/-! ### READ_LAYOUT (R34) -/

/-- The chain's answer for a frame it covers: the newest pair whose frame is not later. -/
theorem chainPair_of_split {p : Ple} {m h f : FrameNo} {l : Layout} {a b : List (FrameNo × Layout)}
    (hlast : p.last = some h) (hm : later m h = false) (hfirst : ∀ x, p.chain.head? = some x → later x.1 m = false)
    (hchain : p.chain = a ++ (f, l) :: b) (hf : later f m = false) (hb : ∀ x ∈ b, later x.1 m = true) :
    chainPair p m = some (f, l) := by
  have hcovers : covers p m = true := by
    unfold covers
    rw [hlast]
    cases hhead : p.chain.head? with
    | none => simp [hchain] at hhead
    | some x => simp [hfirst x hhead, hm]
  have hrest : b.filter (fun x => !later x.1 m) = [] := List.filter_eq_nil_iff.mpr fun x hx => by simp [hb x hx]
  unfold chainPair
  rw [if_pos hcovers, hchain, List.filter_append, List.filter_cons_of_pos (by simp [hf]), hrest]
  simp

/-- A frame above H, below the oldest pair, or of a chain without pairs, is not covered. -/
theorem chainPair_of_uncovered {p : Ple} {m : FrameNo} (h : p.last = none ∨ (∃ h, p.last = some h ∧ later m h = true) ∨
    ∀ x, p.chain.head? = some x → later x.1 m = true) : chainPair p m = none := by
  refine chainPair_none ?_
  unfold covers
  obtain hnone | ⟨x, hlast, hx⟩ | hfirst := h
  · simp [hnone]
  · simp [hlast, hx]
  · cases hhead : p.chain.head? with
    | none => rfl
    | some x => simp [hfirst x hhead]

theorem readLayout_of_some {b : List Byte} {s : State} {x : FrameNo × Layout}
    (h : chainPair s.ple (frameAt b 0) = some x) : readLayout b s = ⟨s, .done, .layout x.1 x.2⟩ := by
  unfold readLayout
  rw [h]

theorem readLayout_of_none {b : List Byte} {s : State} (h : chainPair s.ple (frameAt b 0) = none) :
    readLayout b s = ⟨s, .refusedArg, .none⟩ := by
  unfold readLayout
  rw [h]
  rfl

/-! ### READ_TEXT and READ_PICTURES (R130, R150, R181) -/

section
variable {b : List Byte} {s : State}

theorem namesAlertChannel_iff (s : State) (id : ServiceId) : namesAlertChannel s id = true ↔
    s.cfl.image.isSome = true ∧ id = BitVec.ofNat 16 (0xFF00 + (selfOf s).val) := by
  unfold namesAlertChannel
  rw [Bool.and_eq_true, decide_eq_true_iff]
  rfl

theorem readText_of_service {k : ServiceIx} (h : serviceIx s (half b 0) = some k) :
    readText b s = ⟨s, .done, .text s.txc.carousels[k]⟩ := by
  unfold readText
  rw [h]

theorem readText_of_alertChannel (h : serviceIx s (half b 0) = none) (hid : namesAlertChannel s (half b 0) = true) :
    readText b s = ⟨s, .done, .alertText s.txc.alert⟩ := by
  unfold readText
  rw [h]
  exact if_pos hid

theorem readText_of_none (h : serviceIx s (half b 0) = none) (hid : ¬namesAlertChannel s (half b 0) = true) :
    readText b s = ⟨s, .refusedArg, .none⟩ := by
  unfold readText
  rw [h]
  exact if_neg hid

theorem readPictures_of_service {k : ServiceIx} (h : serviceIx s (half b 0) = some k) :
    readPictures b s = ⟨s, .done, .pictures (picturesData s k)⟩ := by
  unfold readPictures
  rw [h]

theorem readPictures_of_none (h : serviceIx s (half b 0) = none) : readPictures b s = ⟨s, .refusedArg, .none⟩ := by
  unfold readPictures
  rw [h]
  rfl

end

/-! ### The items of READ_STATUS and READ_COUNTERS (R182, R186) -/

/-- READ_STATUS's items before those of the services. -/
def statusOpening (d : StatusData) : List Item :=
  [openItem d.unit, optionItem frameItem d.joinFrame, openItem d.ref, optionItem frameItem d.now, openItem d.holdover,
   openItem d.receiver, openItem d.queuedAlert, openItem d.queuedClaim, openItem d.queuedPresence,
   openItem d.queuedContrib, openItem d.seq, openItem d.peerAge, openItem d.echoAge] ++
  d.lastProduction.map (optionItem frameItem) ++ [optionItem frameItem d.alertProduction] ++
  d.ports.flatMap (fun p =>
    [optionItem (fun x => openItem x.1) p.1, optionItem (fun x => openItem x.2) p.1, openItem p.2])

/-- READ_STATUS's items of the services: the selections and counts, then the queue fills. -/
def statusServices (d : StatusData) : List Item :=
  d.services.flatMap (fun x => [openItem x.1, openItem x.2.1, openItem x.2.2.1, openItem x.2.2.2.1]) ++
    d.services.map (fun x => openItem x.2.2.2.2)

/-- READ_STATUS's last items: the lock, the held image, the flags and the line. -/
def statusClosing (d : StatusData) : List Item :=
  [optionItem (fun l => openItem l.1) d.lock, optionItem (fun l => openItem l.2) d.lock,
   optionItem (fun h => openItem h.1) d.held, optionItem (fun h => openItem h.2.1) d.held,
   optionItem (fun h => openItem h.2.2.1) d.held, optionItem (fun h => openItem h.2.2.2) d.held,
   flagsItem d.flags, openItem d.attention]

theorem statusItems_eq (d : StatusData) : statusItems d = statusOpening d ++ statusServices d ++
    [openItem d.alertQueueFill, openItem d.reading] ++
    [bytesItem [d.cause.code], bytesItem (faultFieldBytes d.faultField)] ++ statusClosing d := by
  simp only [statusItems, statusOpening, statusServices, statusClosing, List.append_assoc, List.cons_append,
    List.nil_append]

theorem statusOpening_length (d : StatusData) :
    (statusOpening d).length = 14 + d.lastProduction.length + 3 * d.ports.length := by
  simp [statusOpening, List.length_flatMap]
  omega

theorem statusOpening_eq (d : StatusData) : statusOpening d = [openItem d.unit, optionItem frameItem d.joinFrame,
    openItem d.ref, optionItem frameItem d.now] ++ (statusOpening d).drop 4 := rfl

/-- READ_COUNTERS's items before PVW's: those of FTU, OFR, PLE and LKP. -/
def countersOpening (d : CountersData) : List Item :=
  (d.ftu.list ++ d.ofr.list ++ d.ple.list ++ d.lkp.list ++ d.senders.flatMap (·.list)).map counterItem

theorem countersOpening_length (d : CountersData) : (countersOpening d).length = 28 + 4 * d.senders.length := by
  simp [countersOpening, List.length_flatMap, FtuCounters.list, OfrCounters.list, PleCounters.list, LkpCounters.list,
    SenderRecord.list]
  omega

theorem countersItems_split (d : CountersData) : ∃ b, countersItems d =
    countersOpening d ++ (d.slots.flatMap (·.list) ++ d.pvw.list).map counterItem ++ b := by
  unfold countersItems countersOpening
  simp only [List.map_append, List.append_assoc]
  exact ⟨_, rfl⟩

/-- An answer that is a run of items: each with its code and its length before it (R195). -/
theorem dataBytes_items {d : AnswerData} (code : Byte) (h : d ≠ .none ∧ (∀ v, d ≠ .flags v) ∧ ∀ c f, d ≠ .fault c f) :
    dataBytes code d = ((itemsOf d).zipIdx 1).flatMap (fun x =>
      let n := BitVec.ofNat 16 x.2
      be16 n ++ be16 (BitVec.ofNat 16 (x.1 code n).length) ++ x.1 code n) := by
  obtain ⟨hnone, hflags, hfault⟩ := h
  rw [dataBytes_report code hnone hflags hfault, itemRun, itemRunFrom_eq]
  rfl

/-! ### The requests -/

/-- Settles O47: every request is acted on by `exec_of_taken`; the values by place are `configured_getElem?` and the
lemmas above, the items of an answer the lemmas on `statusItems`, `countersItems` and `textSlotItems`. -/
theorem readingRequestsOutcome : Obligations.ReadingRequestsOutcome := by
  unfold Obligations.ReadingRequestsOutcome
  refine ⟨?status, ?counters, ?view, ?alerts, ?layout, ?text, ?pictures, fun code d => dataBytes_items code,
    ?forms, ?statusEnds, ?statusServices, ?textSlots, ?countersItems⟩
  case status =>
    intro s r q rs hs htaken
    refine ⟨statusData (inHand q rs r), exec_of_taken (cmd := .readStatus) rfl hs htaken rfl, rfl, rfl, rfl, rfl, rfl,
      rfl, rfl, rfl, rfl, rfl, rfl, rfl, rfl, rfl, rfl, rfl, rfl, rfl, rfl, rfl, fun k => ⟨?_, ?_⟩, ?_, ?_, fun p => ?_,
      rfl, rfl⟩
    · exact configured_getElem? r _ k
    · exact (congrArg (·[k.val]?) List.map_map).trans (configured_getElem? r _ k)
    · exact List.length_map _
    · exact (List.length_map _).trans (List.length_map _)
    · exact map_portIds_getElem? (fun p => (r.cfl.image.map (fun i => (i.roles[p], i.keys[p])), r.sin.ports[p].state)) p
  case counters =>
    intro s r q rs hs htaken
    exact ⟨countersData (inHand q rs r), exec_of_taken (cmd := .readCounters) rfl hs htaken rfl, rfl, rfl, rfl, rfl, rfl,
      rfl, rfl, rfl, rfl, rfl, fun u => toList_getElem?_fin _ u, rfl, rfl, rfl, rfl, fun u => map_toList_getElem?_fin _ _ u, rfl,
      fun p => map_toList_getElem?_fin _ _ p, rfl, rfl, rfl, rfl, rfl, mem_filings _⟩
  case view =>
    intro s r q rs hs htaken
    exact ⟨viewData (inHand q rs r), exec_of_taken (cmd := .readView) rfl hs htaken rfl, rfl, rfl, rfl, rfl,
      fun u => ⟨toList_getElem?_fin _ u, toList_getElem?_fin _ u⟩, configured_getElem? r _, List.length_map _⟩
  case alerts =>
    intro s r q rs hs htaken
    refine ⟨alertsData (inHand q rs r), exec_of_taken (cmd := .readAlerts) rfl hs htaken rfl, rfl, rfl, rfl, rfl,
      fun u => toList_getElem?_fin _ u, rfl, fun l => ?_, rfl, fun i hi => enabledMarks_of_image hi,
      fun hi => enabledMarks_of_none hi, governing_id _ _⟩
    exact (map_lineIxs_getElem? _ l).trans (congrArg some (lineData_eq _ l))
  case layout =>
    intro s r q rs hs htaken m
    have hread (a : Acted) (ha : readLayout q.body (inHand q rs r) = a) :
        exec .readLayout s = .next (answered q a.kind a.data rs a.state) :=
      exec_of_taken (cmd := .readLayout) rfl hs htaken ha
    exact ⟨fun h f l a b hlast hm hfirst hchain hf hb =>
        hread _ (readLayout_of_some (chainPair_of_split hlast hm hfirst hchain hf hb)),
      fun h => hread _ (readLayout_of_none (chainPair_of_uncovered h))⟩
  case text =>
    intro s r q rs hs htaken
    have hread (a : Acted) (ha : readText q.body (inHand q rs r) = a) :
        exec .readText s = .next (answered q a.kind a.data rs a.state) :=
      exec_of_taken (cmd := .readText) rfl hs htaken ha
    refine ⟨fun k hk => hread _ (readText_of_service hk),
      fun hnone hheld hid => hread _ (readText_of_alertChannel hnone ((namesAlertChannel_iff _ _).mpr ⟨hheld, hid⟩)),
      fun hnone hother => hread _ (readText_of_none hnone fun hnames => ?_)⟩
    obtain ⟨hheld, hid⟩ := (namesAlertChannel_iff _ _).mp hnames
    obtain himage | hid' := hother
    · exact absurd hheld (by simp [inHand, himage])
    · exact hid' hid
  case pictures =>
    intro s r q rs hs htaken
    exact ⟨fun k hk => ⟨picturesData (inHand q rs r) k,
        exec_of_taken (cmd := .readPictures) rfl hs htaken (readPictures_of_service hk), rfl, rfl, rfl, rfl⟩,
      fun hnone => exec_of_taken (cmd := .readPictures) rfl hs htaken (readPictures_of_none hnone)⟩
  case forms =>
    exact fun code n => ⟨fun v => rfl, fun f => rfl, fun f => rfl, fun α g => rfl, fun α g v => rfl⟩
  case statusEnds =>
    intro d
    refine ⟨(statusOpening d).drop 4 ++ statusServices d ++ [openItem d.alertQueueFill, openItem d.reading],
      statusClosing d, (statusItems_eq d).trans ?_, rfl⟩
    rw [statusOpening_eq d]
    simp only [List.append_assoc]
    rfl
  case statusServices =>
    intro d
    refine ⟨statusOpening d, [openItem d.alertQueueFill, openItem d.reading] ++
      [bytesItem [d.cause.code], bytesItem (faultFieldBytes d.faultField)] ++ statusClosing d,
      (statusItems_eq d).trans ?_, statusOpening_length d, rfl⟩
    unfold statusServices
    simp only [List.append_assoc]
  case textSlots =>
    exact fun x => ⟨textSlotItems_empty, textSlotItems_filled⟩
  case countersItems =>
    intro d
    obtain ⟨b, hb⟩ := countersItems_split d
    exact ⟨countersOpening d, b, hb, countersOpening_length d⟩

end Sys2Proof.Machine
end

section
/-! PROOFS. What the unit takes from an image: SIN's roles, the lines' marks, and the entry to LISTEN; and an image that
is refused (R101, R153, R176 to R179). -/

namespace Sys2Proof.Machine

/-- The waiting commands outlast a boundary. -/
theorem settle_pending (s : State) : (settle s).pending = s.pending :=
  settle_keeps (P := fun t => t.pending = s.pending)
    (fun a t h => by
      obtain ⟨hpending, -⟩ := takeTurn_keeps a t
      exact hpending.trans h)
    (fun _ _ h => h) rfl

/-! ### The entry to LISTEN, block by block -/

theorem handIn_lifetime (p : TxPacket) (s : State) : (handIn p s).1.sup.lifetime = s.sup.lifetime := by
  show (serve (enqueue p s).1).sup.lifetime = _
  rw [serve_eq]
  unfold enqueue
  dsimp only
  split_ifs <;> rfl

theorem enterListen_lifetime (s : State) : (enterListen s).sup.lifetime = s.sup.lifetime := by
  rw [enterListen_eq, sendPresence_eq]
  exact handIn_lifetime _ _

section
variable (s : State)

theorem enterListen_ftu : (enterListen s).ftu = s.ftu := by rw [enterListen_listening]; rfl
theorem enterListen_pvw : (enterListen s).pvw = (listening s).pvw := by rw [enterListen_listening]; rfl
theorem enterListen_cpr : (enterListen s).cpr = (listening s).cpr := by rw [enterListen_listening]
theorem enterListen_asm : (enterListen s).asm = (listening s).asm := by rw [enterListen_listening]
theorem enterListen_sin : (enterListen s).sin = s.sin := by rw [enterListen_listening]; rfl
theorem enterListen_txc : (enterListen s).txc = s.txc := by rw [enterListen_listening]; rfl
theorem enterListen_pic : (enterListen s).pic = s.pic := by rw [enterListen_listening]; rfl
theorem enterListen_alc : (enterListen s).alc = (listening s).alc := by rw [enterListen_listening]
theorem enterListen_cfl : (enterListen s).cfl = s.cfl := (enterListen_quiet (r := false) s).cfl
theorem enterListen_lines : (enterListen s).lines = s.lines := (enterListen_quiet (r := false) s).lines
theorem enterListen_pending : (enterListen s).pending = s.pending := (enterListen_quiet (r := false) s).pending

theorem enterListen_source (j : SourceId) :
    (enterListen s).alc.sources.get j = { s.alc.sources.get j with carried := false } := by
  rw [enterListen_alc]
  exact clearForListen_source _ j

end

/-! ### SIN's roles (R101) -/

theorem foldl_modifyPort_eq (f : PortId → Port → Port) (l : List PortId) (s : State) :
    l.foldl (fun t p => modifyPort p (f p) t) s =
      { s with sin.ports := (l.foldl (fun t p => modifyPort p (f p) t) s).sin.ports } := by
  induction l generalizing s with
  | nil => rfl
  | cons p l ih => exact ih _

theorem foldl_modifyPort_port (f : PortId → Port → Port) (s : State) (q : PortId) :
    (portIds.foldl (fun t p => modifyPort p (f p) t) s).sin.ports[q] = f q s.sin.ports[q] := by
  simp only [portIds, List.foldl_cons, List.foldl_nil, modifyPort_ports]
  fin_cases q <;> simp [modifyAt]

theorem takeRoles_eq (s : State) : takeRoles s = { s with sin := { s.sin with
    ports := Vector.ofFn fun p => portAtRoles (roleOf s p) s.sin.ports[p]
    services := mapAll (fun x : Intake =>
      { x with selection := .onMain, mainDown := 0, mainUp := 0, backupDown := 0, queue := [] }) s.sin.services
    alertQueue := [] } } := by
  have hports : (portIds.foldl (fun t p => modifyPort p (portAtRoles (roleOf s p)) t) s).sin.ports =
      Vector.ofFn fun p => portAtRoles (roleOf s p) s.sin.ports[p] := by
    ext q hq
    rw [Vector.getElem_ofFn]
    exact foldl_modifyPort_port _ s ⟨q, hq⟩
  unfold takeRoles
  rw [foldl_modifyPort_eq, hports]

/-! ### The lines' marks (R153) -/

theorem sampleLines_eq {s : State} {i : Image} (h : s.cfl.image = some i) : sampleLines s = { s with
    alc.sources := { s.alc.sources with
      al0 := stoppedLine i.lines[(0 : LineIx)] s.lines[(0 : LineIx)] s.alc.sources.al0
      al1 := stoppedLine i.lines[(1 : LineIx)] s.lines[(1 : LineIx)] s.alc.sources.al1 } } := by
  show stopLine 1 (stopLine 0 (withSources s.alc.sources s)) = _
  rw [stopLine_withSources h, stopLine_withSources h]
  rfl

/-! ### A good image (R177 to R179) -/

/-- The unit as it stands when it enters LISTEN on a good image: CFL, SUP, SIN and ALC have taken their values. -/
def installed (i : Image) (s : State) : State :=
  { s with
    cfl := { s.cfl with image := some i, reading := false, cause := .none, faultField := none,
                        lock := s.cfl.lock.or (some (i.unitId, i.ensembleId)) }
    sup := (takeImage i s).sup
    sin := { s.sin with
      ports := Vector.ofFn fun p => portAtRoles i.roles[p] s.sin.ports[p]
      services := mapAll (fun x : Intake =>
        { x with selection := .onMain, mainDown := 0, mainUp := 0, backupDown := 0, queue := [] }) s.sin.services
      alertQueue := [] }
    alc.sources := { s.alc.sources with
      al0 := stoppedLine i.lines[(0 : LineIx)] s.lines[(0 : LineIx)] s.alc.sources.al0
      al1 := stoppedLine i.lines[(1 : LineIx)] s.lines[(1 : LineIx)] s.alc.sources.al1 } }

theorem acceptImage_eq (i : Image) (s : State) : acceptImage i s = enterListen (installed i s) := by
  unfold acceptImage
  rw [takeRoles_eq, sampleLines_eq (i := i) rfl]
  rfl

theorem installed_port (i : Image) (s : State) (p : PortId) :
    (installed i s).sin.ports[p] = portAtRoles i.roles[p] s.sin.ports[p] := by
  unfold installed
  simp

theorem installed_intake (i : Image) (s : State) (k : ServiceIx) : (installed i s).sin.services[k] =
    { s.sin.services[k] with selection := .onMain, mainDown := 0, mainUp := 0, backupDown := 0, queue := [] } :=
  getElem_mapAll _ k _

theorem installed_lineSource (i : Image) (s : State) (l : LineIx) : (installed i s).alc.sources.get (lineSource l) =
    stoppedLine i.lines[l] s.lines[l] (s.alc.sources.get (lineSource l)) := by
  fin_cases l <;> rfl

/-- A line's source once the unit is in LISTEN: sampled in LEVEL mode, without its mark in EDGE mode, and not carried. -/
theorem stoppedLine_carried (c : LineSettings) (high : Bool) (x : Source) :
    ({ stoppedLine c high x with carried := false } : Source) =
      if c.mode = .edge then { x with raised := false, carried := false }
      else if x.raised = (c.enabled && decide (high = c.activeHigh)) then { x with carried := false }
      else { x with raised := c.enabled && decide (high = c.activeHigh), carried := false,
                    counters.lineEvents := bump x.counters.lineEvents } := by
  unfold stoppedLine remarked
  split_ifs <;> rfl

/-! ### A bad image (R177 to R179) -/

theorem refuseImage_eq (c : FaultCause) (field : Option Nat) (s : State) : refuseImage c field s = { s with
    pvw := { s.pvw with unit := .halted }
    cfl := { s.cfl with image := none, reading := false, cause := c, faultField := field }
    sup := { s.sup with flags := s.sup.flags ||| 1#24, attention := true,
                        lifetime := countRefused c s.sup.lifetime } } := by
  have hasserted : (refuseImage c field s).sup.attention = true := flagSet_raiseFlag_self .configFault s
  have hrest : refuseImage c field s = { s with
      pvw := { s.pvw with unit := .halted }
      cfl := { s.cfl with image := none, reading := false, cause := c, faultField := field }
      sup := { s.sup with flags := s.sup.flags ||| 1#24, attention := (refuseImage c field s).sup.attention,
                          lifetime := countRefused c s.sup.lifetime } } := rfl
  rw [hrest, hasserted]

end Sys2Proof.Machine
end

section
/-! PROOFS. CONFIG_READ_COMPLETE, READ_FAILED and LOAD_CONFIG (R175, R178, R179). -/

namespace Sys2Proof.Machine

theorem exec_configReadComplete (flash : List Byte) (s : State) :
    exec (.configReadComplete flash) s = .next (readComplete flash (settle s)) := rfl

theorem exec_readFailed (s : State) : exec .readFailed s = .next (runEvent .readFailed s) := rfl

/-! ### The end of a read (R175) -/

section
variable {flash : List Byte} {s : State}

theorem readComplete_of_ends (hreading : s.cfl.reading = true) (hends : flashEnds flash = true) :
    readComplete flash s = judgeImage (checkFlash s.cfl.lock flash) s :=
  if_pos (by rw [hreading, hends]; rfl)

theorem readComplete_of_notReading (h : s.cfl.reading = false) : readComplete flash s = s :=
  if_neg (by simp [h])

theorem readComplete_of_goesOn (h : flashEnds flash = false) : readComplete flash s = s :=
  if_neg (by simp [h])

end

/-- A read goes on until the length field is there, and then, for a length in range, until that many bytes are. -/
theorem flashEnds_eq_false {flash : List Byte} (h : flash.length < 2 ∨ (296 ≤ beNat (slice flash 0 2) ∧
    beNat (slice flash 0 2) ≤ 4096 ∧ flash.length < beNat (slice flash 0 2))) : flashEnds flash = false := by
  unfold flashEnds badLength imageLength
  obtain hshort | ⟨hlow, hhigh, hmissing⟩ := h
  · simp [Nat.not_le.mpr hshort]
  · simp [Nat.not_lt.mpr hlow, Nat.not_lt.mpr hhigh, Nat.not_le.mpr hmissing]

theorem checkBody_of_badLength {b : List Byte} (lock : Option (UnitId × BitVec 16))
    (h : b.length < 296 ∨ 4096 < b.length ∨ beNat (slice b 0 2) ≠ b.length) : checkBody lock b = .bad .length none := by
  unfold checkBody badLength imageLength
  refine if_pos ?_
  simp only [Bool.or_eq_true, decide_eq_true_eq]
  omega

theorem loadConfig_of_good {b : List Byte} {s : State} {i : Image} (h : checkBody s.cfl.lock b = .good i) :
    loadConfig b s = ⟨acceptImage i s, .done, .none⟩ := by
  unfold loadConfig
  rw [h]
  rfl

theorem loadConfig_of_bad {b : List Byte} {s : State} {cause : FaultCause} {field : Option Nat}
    (h : checkBody s.cfl.lock b = .bad cause field) :
    loadConfig b s = ⟨refuseImage cause field s, .refusedArg, .fault cause field⟩ := by
  unfold loadConfig
  rw [h]

/-! ### A good image held -/

section
variable (i : Image) (s : State)

theorem acceptImage_unit : (acceptImage i s).pvw.unit = .listen := by rw [acceptImage_eq, enterListen_unit]

theorem acceptImage_cfl : (acceptImage i s).cfl = { s.cfl with
    image := some i, reading := false, cause := .none, faultField := none
    lock := s.cfl.lock.or (some (i.unitId, i.ensembleId)) } := by
  rw [acceptImage_eq, enterListen_cfl]
  rfl

theorem acceptImage_lifetime : (acceptImage i s).sup.lifetime =
    { s.sup.lifetime with imagesAccepted := bump s.sup.lifetime.imagesAccepted } := by
  rw [acceptImage_eq, enterListen_lifetime]
  rfl

theorem acceptImage_port (p : PortId) : (acceptImage i s).sin.ports[p] = portAtRoles i.roles[p] s.sin.ports[p] := by
  rw [acceptImage_eq, enterListen_sin, installed_port]

theorem acceptImage_intake (k : ServiceIx) : (acceptImage i s).sin.services[k] =
    { s.sin.services[k] with selection := .onMain, mainDown := 0, mainUp := 0, backupDown := 0, queue := [] } := by
  rw [acceptImage_eq, enterListen_sin, installed_intake]

theorem acceptImage_lineSource (l : LineIx) : (acceptImage i s).alc.sources.get (lineSource l) =
    { stoppedLine i.lines[l] s.lines[l] (s.alc.sources.get (lineSource l)) with carried := false } := by
  rw [acceptImage_eq, enterListen_source, installed_lineSource]

/-- The line follows the image's mask. -/
theorem acceptImage_line : (acceptImage i s).sup.attention =
    decide ((acceptImage i s).sup.flags &&& i.attentionMask ≠ 0) := by
  have hmask : maskInForce (acceptImage i s) = i.attentionMask := by
    unfold maskInForce
    rw [acceptImage_cfl]
    rfl
  have hfollows : (acceptImage i s).sup.attention = attentionDue (acceptImage i s) := acceptImage_attention i s
  rw [hfollows, attentionDue_eq, hmask]

/-- With a place free for its PRESENCE, the entry to LISTEN raises no flag. -/
theorem acceptImage_flags (h : (s.lkp.queue.filter (fun p => p.kind.cls = .alert)).length < 64) :
    (acceptImage i s).sup.flags = s.sup.flags := by
  obtain ⟨hsup, -⟩ := enterListen_of_room (s := installed i s) h
  rw [acceptImage_eq, hsup]
  rfl

theorem acceptImage_alertQueue : (acceptImage i s).sin.alertQueue = [] := by
  rw [acceptImage_eq, enterListen_sin]
  rfl

theorem acceptImage_switches : (acceptImage i s).pvw.switches = s.pvw.switches := by
  rw [acceptImage_eq, enterListen_pvw]
  rfl

/-- FTU, TXC, PIC and the waiting commands are as they were. -/
theorem acceptImage_kept : (acceptImage i s).ftu = s.ftu ∧ (acceptImage i s).txc = s.txc ∧
    (acceptImage i s).pic = s.pic ∧ (acceptImage i s).pending = s.pending := by
  rw [acceptImage_eq, enterListen_ftu, enterListen_txc, enterListen_pic, enterListen_pending]
  exact ⟨rfl, rfl, rfl, rfl⟩

end

/-- Settles O12: a read that ends is judged (`readComplete_of_ends`); a good image is held by the `acceptImage_` lemmas, a
bad one refused by `refuseImage_eq`. -/
theorem configurationReadOutcome : Obligations.ConfigurationReadOutcome := by
  unfold Obligations.ConfigurationReadOutcome
  refine ⟨?good, ?bad, ?notReading, ?goesOn, ?failed⟩
  case good =>
    intro s r flash i hs hreading hends hcheck
    obtain ⟨hftu, htxc, hpic, hpending⟩ := acceptImage_kept i r
    refine ⟨acceptImage i r, ?_, acceptImage_unit i r, acceptImage_cfl i r, acceptImage_lifetime i r,
      acceptImage_port i r, acceptImage_intake i r, acceptImage_alertQueue i r, acceptImage_switches i r,
      fun l => (acceptImage_lineSource i r l).trans (stoppedLine_carried _ _ _), acceptImage_line i r,
      acceptImage_flags i r, hftu, htxc, hpic, ?_⟩
    · rw [exec_configReadComplete, hs, readComplete_of_ends hreading hends, hcheck]
      rfl
    · rw [hpending, ← hs, settle_pending]
  case bad =>
    intro s r flash cause field hs hreading hends hcheck
    rw [exec_configReadComplete, hs, readComplete_of_ends hreading hends, hcheck]
    exact congrArg Host.Outcome.next (refuseImage_eq cause field r)
  case notReading =>
    intro s r flash hs hreading
    rw [exec_configReadComplete, hs, readComplete_of_notReading hreading]
  case goesOn =>
    intro s r flash hs hmissing
    rw [exec_configReadComplete, hs, readComplete_of_goesOn (flashEnds_eq_false hmissing)]
  case failed =>
    intro s t rest hturn hreading hage
    have hdue : due .readFailed t = true := by simp [hreading, hage]
    rw [exec_readFailed, runEvent_due hturn hdue, fire_readFailed, refuseImage_eq]
    rfl

/-- Settles O53: as O12, for an image in a request; what SUP has in hand is no other block's. -/
theorem loadConfigOutcome : Obligations.LoadConfigOutcome := by
  unfold Obligations.LoadConfigOutcome
  intro s r q rs hs htaken x
  refine ⟨fun i hcheck => ?_, checkBody_of_badLength _, fun cause field hcheck => ?_⟩
  · obtain ⟨hftu, htxc, hpic, hpending⟩ := acceptImage_kept i x
    refine ⟨acceptImage i x, exec_of_taken (cmd := .loadConfig) rfl hs htaken (loadConfig_of_good hcheck),
      acceptImage_unit i x, acceptImage_cfl i x, fun p => ?_, fun k => ?_, acceptImage_lifetime i x, hftu, htxc, hpic, ?_⟩
    · rw [acceptImage_port]
      rfl
    · rw [acceptImage_intake]
      exact ⟨rfl, rfl⟩
    · rw [hpending, ← settle_pending s, hs]
      rfl
  · rw [exec_of_taken (cmd := .loadConfig) rfl hs htaken (loadConfig_of_bad hcheck), refuseImage_eq]

end Sys2Proof.Machine
end

section
/-! PROOFS. REJOIN and SOFT_RESET (R183, R187, and the reset tables). -/

namespace Sys2Proof.Machine

theorem rejoin_eq (b : List Byte) (s : State) : rejoin b s = ⟨{ enterListen s with
    sup := { (enterListen s).sup with
      lifetime := { (enterListen s).sup.lifetime with rejoins := bump s.sup.lifetime.rejoins } } }, .done, .none⟩ := by
  unfold rejoin done
  dsimp only
  rw [enterListen_lifetime]

/-! ### What a soft reset clears once the unit is in LISTEN -/

/-- The flags and the ordinary counters cleared, and the soft reset counted. -/
def restarted (w : State) : State :=
  let t := clearOrdinary (clearFlagSet (BitVec.allOnes 24) w)
  { t with pic.lowestFree := Config.pages, sup.lifetime.softResets := bump t.sup.lifetime.softResets }

theorem mapAll_replicate {α β : Type} {n : Nat} (f : α → β) (x : α) :
    mapAll f (Vector.replicate n x) = Vector.replicate n (f x) := by
  ext i hi
  simp [mapAll]

section
variable (w : State)

theorem restarted_ftu : (restarted w).ftu = { w.ftu with counters := ⟨0, 0, 0, 0, 0⟩ } := rfl

theorem restarted_ple : (restarted w).ple = { w.ple with counters := ⟨0, 0, 0, 0⟩ } := rfl

theorem restarted_lkp : (restarted w).lkp =
    { w.lkp with counters := .zero, senders := mapAll clearSender w.lkp.senders } := rfl

/-- What a free transmitter takes does not depend on the counters. -/
theorem servedLkp_restarted (l : Lkp) : servedLkp (restarted w) l = servedLkp w l := by
  have hunit : (restarted w).pvw.unit = w.pvw.unit := rfl
  unfold servedLkp serve arbitrate
  dsimp only
  rw [hunit]
  split
  · split <;> rfl
  · rfl

theorem restarted_pvw : (restarted w).pvw =
    { w.pvw with counters := .zero, slots := mapAll clearSlotCounters w.pvw.slots } := rfl

theorem restarted_cpr : (restarted w).cpr =
    { w.cpr with counters := Vector.replicate 5 ⟨0, 0⟩, alertCounters := ⟨0, 0⟩ } := rfl

theorem restarted_asm : (restarted w).asm =
    { w.asm with counters := .zero, rows := [], otherRow := ⟨0, 0, 0, 0⟩ } := rfl

theorem restarted_sin : (restarted w).sin = { w.sin with
    ports := mapAll (fun x : Port => { x with counters := .zero }) w.sin.ports
    services := mapAll (fun x : Intake => { x with counters := .zero }) w.sin.services
    alertCounters := ⟨0, 0, 0, 0⟩ } := rfl

theorem restarted_alc : (restarted w).alc =
    { w.alc with counters := .zero, sources := clearSourceCounters w.alc.sources } := rfl

theorem restarted_cfl : (restarted w).cfl = w.cfl := rfl

theorem restarted_lines : (restarted w).lines = w.lines := rfl

theorem restarted_txc (h : w.txc = .reset) : (restarted w).txc = State.reset.txc := by
  show ({ carousels := mapAll (fun c : Carousel => { c with counters := .zero }) w.txc.carousels,
          alert := { w.txc.alert with cells := 0, replacements := 0 } } : Txc) = _
  rw [h]
  exact congrArg (Txc.mk · _) (mapAll_replicate _ _)

theorem restarted_pic (h : w.pic = .reset) : (restarted w).pic = State.reset.pic := by
  show ({ w.pic with
          carousels := mapAll (fun c : PicCarousel => { c with counters := .zero }) w.pic.carousels,
          lowestFree := Config.pages } : Pic) = _
  rw [h]
  exact congrArg (Pic.mk _ _ · _) (mapAll_replicate _ _)

/-- No flag is left set, so the line is deasserted whatever the mask. -/
theorem restarted_sup : (restarted w).sup = { w.sup with
    flags := 0, attention := false, lost := 0
    lifetime := { w.sup.lifetime with softResets := bump w.sup.lifetime.softResets } } := by
  have hflags : w.sup.flags &&& ~~~ BitVec.allOnes 24 = 0 := by simp
  show ({ (clearFlagSet (BitVec.allOnes 24) w).sup with
    lost := 0, lifetime := { w.sup.lifetime with softResets := bump w.sup.lifetime.softResets } } : Sup) = _
  rw [clearFlagSet_eq, hflags]
  simp

end

/-! ### What it clears before -/

/-- The lines are sampled; no other source changes. -/
theorem sampleLine_fields (l : LineIx) (s : State) : ∃ f, sampleLine l s = modifySource (lineSource l) f s := by
  unfold sampleLine
  split
  · exact ⟨_, sampleLevel_eq l s⟩
  · exact ⟨_, rfl⟩

theorem sampleLines_fields (s : State) : ∃ x y, sampleLines s =
    { s with alc.sources := { s.alc.sources with al0 := x, al1 := y } } := by
  unfold sampleLines
  obtain ⟨f, hf⟩ := sampleLine_fields 0 s
  obtain ⟨g, hg⟩ := sampleLine_fields 1 (sampleLine 0 s)
  rw [hg, hf]
  exact ⟨_, _, rfl⟩

/-- The unit as it enters LISTEN in a soft reset. -/
def softCleared (s : State) : State := sampleLines (softClear s)

theorem softCleared_fields (s : State) : ∃ x y, softCleared s =
    { softClear s with alc.sources := { (softClear s).alc.sources with al0 := x, al1 := y } } :=
  sampleLines_fields (softClear s)

/-- A line's source after a soft reset: what the line says in LEVEL mode, and no mark in EDGE mode (R153). -/
theorem stoppedLine_cleared (c : LineSettings) (high : Bool) (x : Source) :
    ({ stoppedLine c high x with carried := false, counters := ⟨0, 0, 0⟩ } : Source) = { x with
      raised := decide (c.mode = .level) && c.enabled && decide (high = c.activeHigh)
      carried := false, counters := ⟨0, 0, 0⟩ } := by
  unfold stoppedLine remarked
  cases hmode : c.mode with
  | edge => rfl
  | level =>
    simp only [reduceCtorEq, if_false, decide_true, Bool.true_and]
    split_ifs with hraised
    · rw [← hraised]
    · rfl

theorem softCleared_lineSource {s : State} {i : Image} (h : s.cfl.image = some i) (l : LineIx) :
    (softCleared s).alc.sources.get (lineSource l) =
      stoppedLine i.lines[l] s.lines[l] (s.alc.sources.get (lineSource l)) := by
  unfold softCleared
  rw [sampleLines_eq (s := softClear s) h]
  fin_cases l <;> rfl

/-! ### The entry to LISTEN in a soft reset, block by block -/

/-- The unit in LISTEN in a soft reset, its flags and counters not yet cleared. -/
def softListening (s : State) : State := enterListen (softCleared s)

theorem softReset_eq (b : List Byte) (s : State) : softReset b s = ⟨restarted (softListening s), .done, .none⟩ := rfl

section
variable (s : State)

theorem softListening_ftu : (softListening s).ftu = s.ftu := by
  obtain ⟨x, y, h⟩ := softCleared_fields s
  rw [softListening, enterListen_ftu, h]
  rfl

theorem softListening_ple : (softListening s).ple = { s.ple with chain := [], last := none } := by
  obtain ⟨x, y, h⟩ := softCleared_fields s
  rw [softListening, enterListen_ple, h]
  rfl

theorem softListening_pvw : (softListening s).pvw =
    (clearView (setUnit .listen { s with pvw.switches := Vector.replicate 5 true })).pvw := by
  obtain ⟨x, y, h⟩ := softCleared_fields s
  rw [softListening, enterListen_pvw, h]
  rfl

theorem softListening_cpr : (softListening s).cpr =
    { s.cpr with last := Vector.replicate 5 none, alertLast := none } := by
  obtain ⟨x, y, h⟩ := softCleared_fields s
  rw [softListening, enterListen_cpr, h]
  rfl

theorem softListening_store :
    (softListening s).asm.slots = Vector.replicate 16 .free ∧ (softListening s).asm.hold = [] := by
  rw [softListening, enterListen_asm]
  exact ⟨rfl, rfl⟩

theorem softListening_sin : (softListening s).sin = { s.sin with
    services := mapAll (fun x : Intake => { x with queue := [] }) s.sin.services, alertQueue := [] } := by
  obtain ⟨x, y, h⟩ := softCleared_fields s
  rw [softListening, enterListen_sin, h]
  rfl

theorem softListening_txc : (softListening s).txc = .reset := by
  obtain ⟨x, y, h⟩ := softCleared_fields s
  rw [softListening, enterListen_txc, h]
  rfl

theorem softListening_pic : (softListening s).pic = .reset := by
  obtain ⟨x, y, h⟩ := softCleared_fields s
  rw [softListening, enterListen_pic, h]
  rfl

theorem softListening_cfl : (softListening s).cfl = s.cfl := by
  obtain ⟨x, y, h⟩ := softCleared_fields s
  rw [softListening, enterListen_cfl, h]
  rfl

theorem softListening_lines : (softListening s).lines = s.lines := by
  obtain ⟨x, y, h⟩ := softCleared_fields s
  rw [softListening, enterListen_lines, h]
  rfl

theorem softListening_alerts : (softListening s).alc.table = [] ∧ (softListening s).alc.localAlert = .idle ∧
    (softListening s).alc.serial = s.alc.serial := by
  obtain ⟨x, y, h⟩ := softCleared_fields s
  rw [softListening, enterListen_alc, h]
  exact ⟨rfl, rfl, rfl⟩

/-- FEED, SUPV and TEST ask for nothing. -/
theorem softListening_source {j : SourceId} (hj : j = .feed ∨ j = .supv ∨ j = .test) :
    (softListening s).alc.sources.get j = ⟨false, false, none, (s.alc.sources.get j).counters⟩ := by
  obtain ⟨x, y, h⟩ := softCleared_fields s
  rw [softListening, enterListen_source, h]
  obtain rfl | rfl | rfl := hj <;> rfl

theorem softListening_lineSource {i : Image} (h : s.cfl.image = some i) (l : LineIx) :
    (softListening s).alc.sources.get (lineSource l) =
      { stoppedLine i.lines[l] s.lines[l] (s.alc.sources.get (lineSource l)) with carried := false } := by
  rw [softListening, enterListen_source, softCleared_lineSource h]

/-- A valid frame being streamed is cut, and the line goes LOW (R12). -/
theorem softListening_outputValid (h : streamingValid s = true) : (softListening s).ofr.outputValid = false := by
  obtain ⟨x, y, hfields⟩ := softCleared_fields s
  have hstreaming : streamingValid (softCleared s) = true := by
    rw [hfields]
    exact h
  obtain ⟨f, hf, hvalid, hwhole⟩ := (streamingValid_iff _).mp hstreaming
  rw [softListening, enterListen_ofr, cutFrame_of_streaming hf hvalid hwhole]

/-- The queue has been emptied, so the PRESENCE finds room: LKP holds it alone, and SUP is as it was. -/
theorem softListening_lkp : (softListening s).sup = s.sup ∧ ∃ body, byteAt body 0 = 1 ∧
    (softListening s).lkp = servedLkp (softListening s) { s.lkp with queue := [⟨.presence, 0, 0, body⟩] } := by
  obtain ⟨x, y, h⟩ := softCleared_fields s
  have hlkp : (softCleared s).lkp = { s.lkp with queue := [] } := by
    rw [h]
    rfl
  have hsup : (softCleared s).sup = s.sup := by
    rw [h]
    rfl
  have hroom : ((softCleared s).lkp.queue.filter (fun p => p.kind.cls = .alert)).length < 64 := by
    rw [hlkp]
    exact Nat.zero_lt_succ _
  obtain ⟨hkept, body, hbody, htaken⟩ := enterListen_of_room hroom
  rw [hlkp] at htaken
  simp only [List.filter_nil, List.length_nil, bumpBy_zero, List.nil_append] at htaken
  exact ⟨hkept.trans hsup, body, hbody, htaken⟩

theorem softListening_senders : (softListening s).lkp.senders = s.lkp.senders := by
  obtain ⟨x, y, h⟩ := softCleared_fields s
  rw [softListening, enterListen_senders, h]
  rfl

end

/-- Settles O52: REJOIN is `rejoin_eq`; a soft reset is `softReset_eq`, and each block as the `softListening_` and then the
`restarted_` lemma gives it. -/
theorem resetRequestsOutcome : Obligations.ResetRequestsOutcome := by
  unfold Obligations.ResetRequestsOutcome
  refine ⟨fun s r q rs hs htaken => exec_of_taken (cmd := .rejoin) rfl hs htaken (rejoin_eq _ _),
    fun s r q rs hs htaken => ?_⟩
  obtain ⟨hslots, hhold⟩ := softListening_store (inHand q rs r)
  obtain ⟨htable, hidle, hserial⟩ := softListening_alerts (inHand q rs r)
  obtain ⟨hsup, body, hbody, hlkp⟩ := softListening_lkp (inHand q rs r)
  have hsource (j : SourceId) (hj : j = .feed ∨ j = .supv ∨ j = .test) :
      (restarted (softListening (inHand q rs r))).alc.sources.get j = ⟨false, false, none, ⟨0, 0, 0⟩⟩ := by
    rw [restarted_alc, clearSource_get, softListening_source _ hj]
  refine ⟨restarted (softListening (inHand q rs r)),
    exec_of_taken (cmd := .softReset) rfl hs htaken (softReset_eq _ _), ?_⟩
  rw [restarted_txc _ (softListening_txc _), restarted_pic _ (softListening_pic _), restarted_sup, hsup, restarted_ftu,
    softListening_ftu, restarted_ple, softListening_ple, restarted_pvw, softListening_pvw, restarted_cpr,
    softListening_cpr, restarted_asm, restarted_sin, softListening_sin,
    restarted_cfl, softListening_cfl, restarted_lines, softListening_lines]
  refine ⟨rfl, fun u => ?slot, fun k => ?switch, rfl, rfl, rfl, rfl, rfl, rfl, ⟨body, hbody, ?lkp⟩, fun u => ?sender,
    fun k => ⟨?last, ?produced⟩, rfl, rfl, rfl, rfl, rfl, fun i l hi => ?line, fun p => ?port, fun k => ?intake, rfl, rfl,
    rfl, fun i => ?frameSlot, hhold, rfl, htable, hidle, hserial, rfl, hsource .feed (.inl rfl),
    hsource .supv (.inr (.inl rfl)), hsource .test (.inr (.inr rfl)), rfl, rfl, rfl, rfl, rfl, rfl, rfl, rfl,
    softListening_outputValid (inHand q rs r)⟩
  case slot =>
    rw [mapAll_get]
    show clearSlotCounters (mapAll (fun p => PeerSlot.absent p.counters) r.pvw.slots)[u] = _
    rw [mapAll_get]
    rfl
  case switch => exact Vector.getElem_replicate ..
  case lkp =>
    rw [servedLkp_restarted, restarted_lkp, hlkp]
    rfl
  case sender =>
    rw [restarted_lkp, softListening_senders]
    exact mapAll_get _ _ u
  case last => exact Vector.getElem_replicate ..
  case produced => exact Vector.getElem_replicate ..
  case line =>
    rw [restarted_alc, clearSource_get, softListening_lineSource (inHand q rs r) (i := i) hi]
    exact stoppedLine_cleared _ _ _
  case port => exact mapAll_get _ _ p
  case intake =>
    rw [mapAll_get, mapAll_get]
    rfl
  case frameSlot =>
    rw [hslots]
    exact Vector.getElem_replicate ..

end Sys2Proof.Machine
end

section
/-! PROOFS. The queue of waiting commands and the alert lines, which stand outside the unit: what a step takes from the
queue, the idle step, and that every command answers a next state and leaves both alone but for a line change (R153).
Nearly every operation is quiet; the others are named here one by one. -/

namespace Sys2Proof.Machine

/-! ### One step -/

theorem step_of_front {c : Instr} {cs : List Instr} {s : State} (h : s.pending = c :: cs) :
    step s = exec c { s with pending := cs } := by
  unfold step
  rw [h]

theorem step_of_idle {s : State} (h : s.pending = []) : step s = .next (settle s) := by
  unfold step
  rw [h]

/-- Settles O1: `step_of_front`. -/
theorem stepRunsFrontCommand : Obligations.StepRunsFrontCommand := by
  unfold Obligations.StepRunsFrontCommand
  exact fun c cs s h => step_of_front h

/-- Settles O2: no turn adds to the agenda (`settle_agenda`), and an empty one runs nothing (`settle_of_empty`). -/
theorem idleStepRunsTheBoundary : Obligations.IdleStepRunsTheBoundary := by
  unfold Obligations.IdleStepRunsTheBoundary
  exact ⟨fun s h => step_of_idle h, settle_agenda, fun s h => settle_of_empty h⟩

/-! ### What stands outside the unit -/

/-- The waiting commands and the level of the alert lines. -/
def surroundings (s : State) : List Instr × Vector Bool 2 := (s.pending, s.lines)

theorem Quiet.surroundings {s t : State} (q : Quiet false s t) : surroundings t = surroundings s :=
  congrArg₂ Prod.mk q.pending q.lines

/-! ### The turns of a boundary -/

theorem takeTurn_surroundings (a : Act) (s : State) : surroundings (takeTurn a s) = surroundings s := by
  obtain ⟨hpending, hlines, -⟩ := takeTurn_keeps a s
  exact congrArg₂ Prod.mk hpending hlines

theorem settle_surroundings (s : State) : surroundings (settle s) = surroundings s :=
  settle_keeps (P := fun t => surroundings t = surroundings s) (fun a t h => (takeTurn_surroundings a t).trans h)
    (fun _ _ h => h) rfl

theorem runEvent_surroundings (a : Act) (s : State) : surroundings (runEvent a s) = surroundings s :=
  runEvent_keeps (P := fun t => surroundings t = surroundings s) (fun b t h => (takeTurn_surroundings b t).trans h)
    (fun _ _ h => h) a rfl

theorem beginBoundary_surroundings (o : BoundaryOrder) (n : Notices) (s : State) :
    surroundings (beginBoundary o n s) = surroundings s :=
  advance_keeps (P := fun t => surroundings t = surroundings s) (fun a t h => (takeTurn_surroundings a t).trans h)
    (fun _ _ h => h) _ _ rfl

/-! ### FTU -/

theorem raiseBoundary_surroundings (src : BoundarySource) (o : BoundaryOrder) (s : State) :
    surroundings (raiseBoundary src o s) = surroundings s :=
  beginBoundary_surroundings o _ _

theorem takePulse_surroundings (d : Nat) (o : BoundaryOrder) (s : State) :
    surroundings (takePulse d o s) = surroundings s := by
  unfold takePulse
  split
  · rfl
  · unfold matchPulse
    dsimp only
    split
    · exact (relocked_quiet _).surroundings
    · rfl
  · exact raiseBoundary_surroundings _ o s

theorem missPulse_surroundings (s : State) : surroundings (missPulse s) = surroundings s := by
  unfold missPulse
  split
  · dsimp only
    split
    · exact (enterListen_quiet _).surroundings
    · exact (breakListen_quiet _).surroundings
  · rfl

theorem takeTime_surroundings (bs : List Byte) (s : State) : surroundings (takeTime bs s) = surroundings s := by
  unfold takeTime
  split <;> rfl

/-! ### CFL -/

theorem acceptImage_surroundings (i : Image) (s : State) : surroundings (acceptImage i s) = surroundings s :=
  (((takeRoles_quiet (takeImage i s)).trans (sampleLines_quiet _)).trans (enterListen_quiet _)).surroundings

theorem refuseImage_surroundings (c : FaultCause) (f : Option Nat) (s : State) :
    surroundings (refuseImage c f s) = surroundings s := rfl

theorem readComplete_surroundings (flash : List Byte) (s : State) :
    surroundings (readComplete flash s) = surroundings s := by
  unfold readComplete
  split
  · unfold judgeImage
    split
    · exact acceptImage_surroundings _ s
    · exact refuseImage_surroundings _ _ s
  · rfl

/-! ### The alert lines -/

/-- A line change leaves the waiting commands alone. -/
theorem changeLine_pending (l : LineIx) (high : Bool) (s : State) : (changeLine l high s).pending = s.pending := by
  unfold changeLine
  dsimp only
  split_ifs
  · rfl
  · exact (sampleLevel_quiet (r := false) l _).pending
  · rfl
  · rfl

/-! ### SUP -/

theorem serveBad_surroundings (rs : List Request) (s : State) : surroundings (serveBad rs s) = surroundings s := by
  rw [serveBad_eq]
  rfl

theorem takeFrame_surroundings (f : RequestFrame) (s : State) : surroundings (takeFrame f s) = surroundings s := by
  unfold takeFrame
  split
  · exact serveBad_surroundings _ s
  · rfl

theorem switchService_surroundings (on : Bool) (b : List Byte) (s : State) :
    surroundings (switchService on b s).state = surroundings s := by
  unfold switchService
  split
  · rfl
  · dsimp only
    split_ifs
    · rfl
    · exact (atNow_quiet issueClaim_quiet _).surroundings
    · rfl

theorem alertStop_surroundings (b : List Byte) (s : State) :
    surroundings (alertStop b s).state = surroundings s := by
  have hcleared : surroundings (clearSources s) = surroundings s := (clearSources_quiet s).surroundings
  show surroundings (if _ then _ else _) = _
  split <;> exact hcleared

theorem softReset_surroundings (b : List Byte) (s : State) : surroundings (softReset b s).state = surroundings s :=
  ((sampleLines_quiet (softClear s)).trans (enterListen_quiet _)).surroundings

/-- The action of every kind of request leaves the queue and the lines alone. -/
theorem requestAction_surroundings (k : RequestKind) (b : List Byte) (s : State) :
    surroundings (requestAction k b s).state = surroundings s := by
  cases k with
  | readStatus | readCounters | readView | readAlerts | clearFlags | clearCounters => rfl
  | readLayout => exact congrArg surroundings (readLayout_state b s)
  | readText => exact congrArg surroundings (readText_state b s)
  | readPictures => exact congrArg surroundings (readPictures_state b s)
  | serviceOff => exact switchService_surroundings false b s
  | serviceOn => exact switchService_surroundings true b s
  | alertStart =>
    show surroundings (alertStart b s).state = _
    unfold alertStart
    split <;> rfl
  | alertTest =>
    show surroundings (alertTest b s).state = _
    unfold alertTest
    split <;> rfl
  | alertStop => exact alertStop_surroundings b s
  | textFlush =>
    show surroundings (textFlush b s).state = _
    unfold textFlush
    split <;> rfl
  | pictureFlush =>
    show surroundings (pictureFlush b s).state = _
    unfold pictureFlush
    split <;> rfl
  | rejoin => exact (enterListen_quiet s).surroundings
  | softReset => exact softReset_surroundings b s
  | loadConfig =>
    show surroundings (loadConfig b s).state = _
    unfold loadConfig
    split
    · exact acceptImage_surroundings _ s
    · exact refuseImage_surroundings _ _ s

theorem takeRequest_surroundings (k : RequestKind) (s : State) :
    surroundings (takeRequest k (requestAction k) s) = surroundings s := by
  by_cases hasked : ∃ q rs, Asked k q rs s
  · obtain ⟨q, rs, hq⟩ := hasked
    rw [takeRequest_of_asked hq]
    refine (serveBad_surroundings rs _).trans ?_
    show surroundings (actOn k (requestAction k) q.body (inHand q rs s)).state = _
    unfold actOn
    split_ifs
    · rfl
    · rfl
    · exact requestAction_surroundings k q.body (inHand q rs s)
  · rw [takeRequest_of_not_asked fun q rs hq => hasked ⟨q, rs, hq⟩]

/-! ### Every command -/

theorem exec_alertLineChange_pending (l : LineIx) (high : Bool) (s : State) :
    ∃ t, exec (.alertLineChange l high) s = .next t ∧ t.pending = s.pending :=
  ⟨_, rfl, (changeLine_pending l high _).trans (settle_pending s)⟩

/-- Every command but a line change answers a next state with the same waiting commands and the same lines. -/
theorem exec_surroundings (c : Instr) (s : State) (hc : ∀ l high, c ≠ .alertLineChange l high) :
    ∃ t, exec c s = .next t ∧ surroundings t = surroundings s := by
  have hs := settle_surroundings s
  cases c with
  | powerOn | lineReset => exact ⟨_, rfl, rfl⟩
  | configReadComplete flash => exact ⟨_, rfl, (readComplete_surroundings flash _).trans hs⟩
  | timeMessage bytes => exact ⟨_, rfl, (takeTime_surroundings bytes _).trans hs⟩
  | framePulse d o => exact ⟨_, rfl, (takePulse_surroundings d o _).trans hs⟩
  | localTimerExpiry o => exact ⟨_, rfl, (raiseBoundary_surroundings _ o _).trans hs⟩
  | missedPulse => exact ⟨_, rfl, (missPulse_surroundings _).trans hs⟩
  | linkHuntPacket bytes | linkHeaderFailed bytes => exact ⟨_, rfl, (receiveBytes_quiet bytes _).surroundings.trans hs⟩
  | presence p | claim p | contrib p | alert p | alertEnd p =>
    exact ⟨_, rfl, (receive_quiet _ p _).surroundings.trans hs⟩
  | transmitDone => exact ⟨_, rfl, (transmitterFree_quiet _).surroundings.trans hs⟩
  | feedHuntPacket p bytes | feedPacketFailed p bytes =>
    exact ⟨_, rfl, (feedBytes_quiet p bytes _).surroundings.trans hs⟩
  | feedPacketMalformed p code body => exact ⟨_, rfl, (feedPacket_quiet p code body _).surroundings.trans hs⟩
  | audio p b | textSet p b | textClear p b | picBegin p b | picData p b | picEnd p b | picDelete p b | alertReq p b
  | alertClear p b | fill p b => exact ⟨_, rfl, (feedPacket_quiet p _ b _).surroundings.trans hs⟩
  | alertLineChange l high => exact absurd rfl (hc l high)
  | requestReceived f => exact ⟨_, rfl, (takeFrame_surroundings f _).trans hs⟩
  | readStatus | readCounters | readView | readLayout | readAlerts | readText | readPictures | clearFlags
  | clearCounters | serviceOff | serviceOn | alertStart | alertTest | alertStop | textFlush | pictureFlush | rejoin
  | softReset | loadConfig => exact ⟨_, rfl, (takeRequest_surroundings _ _).trans hs⟩
  | readFailed | holdoverExpired | frameJump | enterJoining | enterOnAir | enterIsolated | presenceSend | claimResend
  | peerSilent | slotRemoval | claimInForce | feedLost | feedSwitch | feedRevert | textExpiry | pictureLoadTimeout
  | pictureExpiry | alertDurationLimit | localAlertOn | localAlertIdle | alertRepeat | alertRecordStart
  | alertRecordEnded => exact ⟨_, rfl, runEvent_surroundings _ s⟩

/-- Settles O3: a line change keeps the queue (`exec_alertLineChange_pending`), any other command the lines as well
(`exec_surroundings`). -/
theorem execAnswersNext : Obligations.ExecAnswersNext := by
  unfold Obligations.ExecAnswersNext
  intro c s
  by_cases hc : ∃ l high, c = .alertLineChange l high
  · obtain ⟨l, high, rfl⟩ := hc
    obtain ⟨t, hexec, hpending⟩ := exec_alertLineChange_pending l high s
    exact ⟨t, hexec, hpending, fun hne => absurd rfl (hne l high)⟩
  · obtain ⟨t, hexec, hkept⟩ := exec_surroundings c s fun l high h => hc ⟨l, high, h⟩
    obtain ⟨hpending, hlines⟩ := Prod.mk.inj hkept
    exact ⟨t, hexec, hpending, fun _ => hlines⟩

end Sys2Proof.Machine
end
